-- ==== Sys2Proof/Word.lean ====
section
/-! DEFINITION. Bytes, samples, the house clock's word, and the fixed-size tables of like records. -/

namespace Sys2Proof

/-- One byte of a frame, of the flash or of a notice detail. -/
abbrev Byte := BitVec 8

/-- A value of the house clock: a 32-bit count of tenths of a second (Conventions, Time). -/
abbrev Clock := BitVec 32

/-- One audio sample as the lanes and the loops' current returns carry it: 24 bits, two's complement. -/
abbrev Sample := BitVec 24

/-- A fixed number `n` of like records: the entries and the fact that there are `n` of them. -/
structure Table (α : Type) (n : Nat) where
  toList : List α
  len : toList.length = n
deriving DecidableEq, Repr

/-- The numbers 0 to n − 1 in rising order. -/
def finUpTo : (n : Nat) → List (Fin n)
  | 0 => []
  | n + 1 => 0 :: (finUpTo n).map Fin.succ

theorem finUpTo_length (n : Nat) : (finUpTo n).length = n := by
  induction n with
  | zero => rfl
  | succ n ih => simp [finUpTo, ih]

namespace Table

variable {α β : Type} {n : Nat}

def get (t : Table α n) (i : Fin n) : α :=
  t.toList[i.val]'(by rw [t.len]; exact i.isLt)

def set (t : Table α n) (i : Fin n) (a : α) : Table α n :=
  ⟨t.toList.set i.val a, by rw [List.length_set]; exact t.len⟩

def modify (t : Table α n) (i : Fin n) (f : α → α) : Table α n :=
  t.set i (f (t.get i))

def map (t : Table α n) (f : α → β) : Table β n :=
  ⟨t.toList.map f, by rw [List.length_map]; exact t.len⟩

/-- The table whose entry i is `f i`. -/
def ofFn (f : Fin n → α) : Table α n :=
  ⟨(finUpTo n).map f, by rw [List.length_map, finUpTo_length]⟩

/-- The table with the same entry everywhere. -/
def fill (n : Nat) (a : α) : Table α n :=
  ⟨List.replicate n a, List.length_replicate⟩

/-- Every entry rewritten with its own number at hand. -/
def mapIdx (t : Table α n) (f : Fin n → α → β) : Table β n :=
  ⟨((finUpTo n).zip t.toList).map fun e => f e.1 e.2, by
    rw [List.length_map, List.length_zip, finUpTo_length, t.len, Nat.min_self]⟩

/-- How many entries meet a test. -/
def count (t : Table α n) (p : α → Bool) : Nat := (t.toList.filter p).length

def all (t : Table α n) (p : α → Bool) : Bool := t.toList.all p

def any (t : Table α n) (p : α → Bool) : Bool := t.toList.any p

end Table

end Sys2Proof
end

