-- ==== Sys2Proof/Config.lean ====
section
/-! DEFINITION. What one specimen of the part fixes, and the values its manual leaves free.
Each is a constant with no body: nothing can be proved of its value. -/

namespace Sys2Proof.Config

/-- The revision letter of the silicon, which PART_INFO reports (R185): each specimen has its own (log 4). -/
opaque revisionLetter : Byte

/-- FREE (R180, log 5). A program or an erase was cut short: does the byte at this address come out at the
value that was being written (true) or at its former value (false)? The first argument is State's draw counter. -/
opaque cutTakesNew : Nat → Nat → Bool

/-- FREE (R178, R180, log 5). How far a save has come: 0 while sector 255 is being erased, k + 1 once the erase
is done and k pages of the image are programmed. The argument is State's draw counter; the use bounds the value. -/
opaque saveReach : Nat → Nat

end Sys2Proof.Config
end

