-- ==== Sys2Proof/Syntax.lean ====
section
/-! DEFINITION. The commands of the block: one constructor of `Instr` for each row of spec/opcode_table.json,
with the operands it takes, and the types of those operands.

A request row (ORDER_CLEAR to NOTICE_SET) names the port whose waiting request its unit now takes: the request's
parameters are the bytes the console wrote, which the port holds (R189, R191). A row that says a unit takes an
event or a request of another unit takes the one that stands first where State keeps what has been handed and not
yet taken (log 2). Only what comes from outside the part is an operand: samples, key contacts, straps, bus bytes. -/

namespace Sys2Proof

/-- The two halls (R1). -/
inductive Hall | a | b
deriving DecidableEq, Repr

/-- The three control ports (R186). -/
inductive Port | stage | house | booth
deriving DecidableEq, Repr

/-- The two input lanes (R46). -/
inductive Lane | lane0 | lane1
deriving DecidableEq, Repr

/-- A zone by its zone number: L0–L7 are 0–7, D0–D3 are 8–11, F0–F5 are 12–17 (Control Ports, field encoding). -/
abbrev ZoneNo := Fin 18

/-- A set of zones: bit z is zone z, as the three bytes of a request carry it (Control Ports). -/
abbrev ZoneSet := BitVec 18

/-- The two modes of a call and of an overlay (R37, R129). -/
inductive CallMode | duck | replace
deriving DecidableEq, Repr

/-- The sources an overlay may lay on a zone (R37). -/
inductive Source
  | player (n : Fin 3)
  | chime
  | mic (n : Fin 2)
  | desc (n : Fin 4)
deriving DecidableEq, Repr

/-- Who owns an overlay: a call by its id, or a description channel (R37). -/
inductive Owner
  | call (id : Nat)
  | channel (c : Fin 4)
deriving DecidableEq, Repr

/-- A push as it reaches the Zone unit (R38, R140, R161). `depth` is the duck depth a description channel gives;
it is absent for a call's push, where each zone places its own call duck depth. -/
structure PushRequest where
  source : Source
  mode : CallMode
  depth : Option Int
  priority : Nat
  owner : Owner
  targets : ZoneSet
  exempt : Bool
deriving DecidableEq, Repr

/-- The two units that submit calls (R134). -/
inductive Submitter | programme | admission
deriving DecidableEq, Repr

/-- The commands, in the order of the table. -/
inductive Instr
  -- start-up and the ports' bus
  | powerOn (straps : BitVec 2)
  | resetLine (straps : BitVec 2)
  | restartTakesEffect (straps : BitVec 2)
  | i2cWriteStart (p : Port) (addr : BitVec 7) (data : List Byte)
  | i2cWriteEnd (p : Port)
  | writeTimeout (p : Port)
  | i2cRead (p : Port) (addr : BitVec 7) (count : Nat)
  | stretchLimit (p : Port)
  -- Programme unit
  | orderClear (p : Port)
  | orderPut (p : Port)
  | orderAppend (p : Port)
  | hallOpen (p : Port)
  | segStart (p : Port)
  | segEnd (p : Port)
  | gapMark (p : Port)
  | gapEnd (p : Port)
  | hallDark (p : Port)
  | planPut (p : Port)
  | hallSet (p : Port)
  | hallStatus (p : Port)
  | hallQuietEvent (h : Hall)
  | hallSoundEvent (h : Hall)
  | planStepFire (h : Hall)
  | intervalDue (h : Hall)
  -- Zone unit
  | zoneSet (p : Port)
  | zoneStatus (p : Port)
  | zonePhaseEvent
  | relayRequest
  | channelChangeReport
  | overlayPush (push : PushRequest)
  | overlayRemoval (owner : Owner) (zones : ZoneSet)
  | overCurrentEvent (l : Fin 8)
  | foldBackRecovery (l : Fin 8)
  | openLoopBegin (l : Fin 8)
  | openLoopEnd (l : Fin 8)
  | loopReset (p : Port)
  -- lanes, mix engine, players and chime generator
  | inputFrame (lane : Lane) (good : Bool) (slots : List Sample)
  | mixBlock (sense : List (List Sample))
  | rampStep (z : ZoneNo)
  | playerPhraseEnd (n : Fin 3)
  | repeatSilenceEnd (n : Fin 3)
  | chimeNoteEnd
  | chimeStrikeEnd
  -- level monitor
  | levelPeriodEnd
  | levelSet (p : Port)
  | levelRead (p : Port)
  -- Admission unit
  | doorSet (p : Port)
  | partyAdd (p : Port)
  | partyRemove (p : Port)
  | partyMove (p : Port)
  | partyList (p : Port)
  | admitNow (p : Port)
  | admitExtend (p : Port)
  | admitClose (p : Port)
  | usherClear (p : Port)
  | admissionPhaseEvent
  | windowWarn (h : Hall)
  | windowDeadline (h : Hall)
  | addKeyPress
  | addKeyRepeat
  | removeKeyPress
  | removeKeyLong
  | doneKeyPress
  | usherKeyPress
  | usherKeyLong
  -- Panel unit
  | keyScanSweep (down : BitVec 64)
  | keyDebounceDone (k : Fin 64)
  | keyLong (k : Fin 64)
  | keyRepeat (k : Fin 64)
  | keyStuck (k : Fin 64)
  | keyRelease (k : Fin 64)
  | keymapSet (p : Port)
  | scanSet (p : Port)
  | keyStatus (p : Port)
  | lampTest (p : Port)
  | lampStateOffer
  | tallyStateOffer
  | refuseIndication
  | lampFrame
  | refuseOverlayEnd (lamp : Fin 16)
  | lampTestEnd (lamp : Fin 16)
  | cutFlashEnd (d : Fin 4)
  -- Call unit
  | callSubmit (p : Port)
  | unitCallSubmission (sender : Submitter)
  | callCancel (p : Port)
  | liveEnd (p : Port)
  | callList (p : Port)
  | callStackReport
  | callHushChange
  | callPhaseEvent
  | hallCallCancel
  | planCallCancel
  | admissionCallCancel
  | callDeadlineExpiry (id : Nat)
  | liveTimeout (id : Nat)
  -- Description unit
  | descSet (p : Port)
  | descStatus (p : Port)
  | talkOpen (p : Port)
  | talkClose (p : Port)
  | talkKeyPress
  | talkKeyRelease
  | describerLevelEvent (d : Fin 4)
  | descPhaseEvent
  | descStackReport
  | graceExpiry (c : Fin 4)
  -- Store unit
  | storeOpen (p : Port)
  | storeFill (p : Port)
  | storeProgram (p : Port)
  | programComplete
  | storeErase (p : Port)
  | eraseComplete (left : List Host.Cell)
  | storeRead (p : Port)
  | storeReadDone (p : Port)
  | storeClose (p : Port)
  | settingsSave (p : Port)
  | saveComplete (left : List Host.Cell)
  | restart (p : Port)
  | partInfo (p : Port)
  -- Notice unit and the clock
  | noticeOffer (n : Nat)
  | noticeRead (p : Port)
  | noticeAck (p : Port)
  | noticeSet (p : Port)
  | houseClockTick
deriving DecidableEq, Repr

end Sys2Proof
end

