-- ==== Sys2Proof/Machine/Types.lean ====
section
/-! DEFINITION. The records the units hold, field by field as the rules' tables give them, and the records that
pass between units. Settings stand in records of their own, because requests and the settings image carry them whole. -/

namespace Sys2Proof.Machine

/-- One record for each hall. -/
structure PerHall (α : Type) where
  a : α
  b : α
deriving DecidableEq, Repr

namespace PerHall
variable {α : Type}
def get (t : PerHall α) : Hall → α
  | .a => t.a
  | .b => t.b
def set (t : PerHall α) (h : Hall) (x : α) : PerHall α :=
  match h with
  | .a => { t with a := x }
  | .b => { t with b := x }
def modify (t : PerHall α) (h : Hall) (f : α → α) : PerHall α := t.set h (f (t.get h))
end PerHall

/-- One record for each port. -/
structure PerPort (α : Type) where
  stage : α
  house : α
  booth : α
deriving DecidableEq, Repr

namespace PerPort
variable {α : Type}
def get (t : PerPort α) : Port → α
  | .stage => t.stage
  | .house => t.house
  | .booth => t.booth
def set (t : PerPort α) (p : Port) (x : α) : PerPort α :=
  match p with
  | .stage => { t with stage := x }
  | .house => { t with house := x }
  | .booth => { t with booth := x }
def modify (t : PerPort α) (p : Port) (f : α → α) : PerPort α := t.set p (f (t.get p))
end PerPort

/-- One record for each input lane. -/
structure PerLane (α : Type) where
  lane0 : α
  lane1 : α
deriving DecidableEq, Repr

namespace PerLane
variable {α : Type}
def get (t : PerLane α) : Lane → α
  | .lane0 => t.lane0
  | .lane1 => t.lane1
def set (t : PerLane α) (l : Lane) (x : α) : PerLane α :=
  match l with
  | .lane0 => { t with lane0 := x }
  | .lane1 => { t with lane1 := x }
end PerLane

/-! ## Zones by kind (R29; numbering of Control Ports) -/

inductive ZoneKind
  | loop (l : Fin 8)
  | desc (d : Fin 4)
  | foyer (f : Fin 6)
deriving DecidableEq, Repr

def zoneKind (z : ZoneNo) : ZoneKind :=
  if h : z.val < 8 then .loop ⟨z.val, h⟩
  else if h2 : z.val < 12 then .desc ⟨z.val - 8, by omega⟩
  else .foyer ⟨z.val - 12, by omega⟩

def loopZone (l : Fin 8) : ZoneNo := ⟨l.val, by omega⟩
def descZone (d : Fin 4) : ZoneNo := ⟨d.val + 8, by omega⟩
def foyerZone (f : Fin 6) : ZoneNo := ⟨f.val + 12, by omega⟩

/-! ## Programme unit -/

/-- R1. -/
inductive Phase | dark | opened | playing | gap | onBreak | interval | ended
deriving DecidableEq, Repr

/-- R3. -/
inductive SegmentKind | music | speech | interval
deriving DecidableEq, Repr

/-- R3: the admission of a segment. -/
inductive Admission | never | atEnd | atGaps
deriving DecidableEq, Repr

/-- R3: the description mode of a segment. -/
inductive DescMode | free | gapsOnly | muted
deriving DecidableEq, Repr

/-- R3. Length in seconds. -/
structure Segment where
  kind : SegmentKind
  admission : Admission
  desc : DescMode
  length : Option Nat
  plan : Option (Fin 8)
deriving DecidableEq, Repr

/-- R129: what a call plays. Phrase numbers are bytes, for a plan step's are not checked (R21). -/
inductive Content
  | phrases (list : List Nat)
  | chime (pattern : Fin 8) (strikes : Nat)
  | live (mic : Fin 2)
deriving DecidableEq, Repr

/-- R21. Offset in seconds. -/
structure PlanStep where
  offset : Nat
  content : Content
  targets : ZoneSet
  priority : Nat
  mode : CallMode
deriving DecidableEq, Repr

/-- R23. -/
structure PendingStep where
  plan : Fin 8
  step : Nat
  fire : Clock
deriving DecidableEq, Repr

/-- R1: the settings of a hall. Times in seconds. -/
structure HallSettings where
  breakWindow : Nat
  gapWindow : Nat
  warnTime : Nat
  phrase : Option Nat
  preshow : Option (Fin 8)
deriving DecidableEq, Repr

/-- R1. `dueOffered` says whether INTERVAL_DUE has been offered for the present due time (R26: "once"). -/
structure HallRecord where
  phase : Phase
  order : List Segment
  position : Nat
  due : Option Clock
  steps : List PendingStep
  dueOffered : Bool
  settings : HallSettings
deriving DecidableEq, Repr

structure Programme where
  halls : PerHall HallRecord
  plans : Table (List PlanStep) 8
deriving DecidableEq, Repr

/-! ## Zone unit -/

/-- R29. -/
inductive BaseSource | hallA | hallB | relayA | relayB | aux | silence
deriving DecidableEq, Repr

/-- R29: the idle source of a foyer zone. -/
inductive IdleSource | aux | silence
deriving DecidableEq, Repr

/-- R37: the mode of an overlay; the duck depth is present for DUCK only. -/
inductive OverlayMode
  | duck (depth : Int)
  | replace
deriving DecidableEq, Repr

/-- R37. -/
structure Overlay where
  source : Source
  mode : OverlayMode
  priority : Nat
  owner : Owner
deriving DecidableEq, Repr

/-- R29: the settings kept for every zone. -/
structure ZoneSettings where
  trim : Int
  rampDown : Nat
  rampUp : Nat
  duckDepth : Int
deriving DecidableEq, Repr

/-- R29, R57: what is kept for every zone. `stack` is TOP FIRST: its head is the top entry of the rules.
`target` is the background target of the previous block; `rampDue` says that RAMP_STEP has come due (log 8). -/
structure ZoneRecord where
  settings : ZoneSettings
  baseSource : BaseSource
  baseGain : Int
  stack : List Overlay
  bgStep : Int
  rampCount : Nat
  target : Int
  rampDue : Bool
  lastClip : Option Clock
deriving DecidableEq, Repr

/-- R43: the four levels of fold-back. -/
inductive FoldBack | none | by12 | by24 | by36
deriving DecidableEq, Repr

/-- R29: the settings of a loop zone. -/
structure LoopSettings where
  hall : Hall
  driveLimit : Nat
deriving DecidableEq, Repr

/-- R29, R77: what only a loop zone holds. -/
structure LoopRecord where
  settings : LoopSettings
  foldBack : FoldBack
  shut : Bool
  openFlag : Bool
  recovery : Nat
  hushed : Bool
deriving DecidableEq, Repr

/-- R29: the settings of a foyer zone. -/
structure FoyerSettings where
  idleSource : IdleSource
  idleGain : Int
  relayGain : Int
  quietHall : Option Hall
deriving DecidableEq, Repr

/-- R29, R35: what only a foyer zone holds. -/
structure FoyerRecord where
  settings : FoyerSettings
  relay : Option Hall
  hushed : Bool
deriving DecidableEq, Repr

/-- R38: the first test a zone failed. -/
inductive PushFailure | full | priority | owner | hushed
deriving DecidableEq, Repr

/-- R38: the answer to a push. -/
inductive PushAnswer
  | accepted
  | refused (failing : List (ZoneNo × PushFailure))
deriving DecidableEq, Repr

/-- R39: the answer to a removal. -/
inductive RemovalAnswer | removed | notPresent
deriving DecidableEq, Repr

structure ZoneUnit where
  zones : Table ZoneRecord 18
  loops : Table LoopRecord 8
  foyers : Table FoyerRecord 6
  view : PerHall Phase
  pushAnswer : Option PushAnswer
  removalAnswer : Option RemovalAnswer
deriving DecidableEq, Repr

/-! ## Lanes, mix engine, players and chime generator -/

/-- R46. `received` holds the frames that came since the last block began to be mixed, oldest first, as the
eight samples every reader sees (R47 has made them 0 where it says so). -/
structure LaneRecord where
  locked : Bool
  run : Nat
  missing : Nat
  received : List (List Int)
deriving DecidableEq, Repr

/-- A present phrase of the directory copy (R172): start address, length in samples, gain step. -/
structure Clip where
  start : Nat
  length : Nat
  gain : Int
deriving DecidableEq, Repr

/-- R49: where a held player stands: some blocks into the phrase; at the phrase's end, its report not yet taken;
or some blocks into the silence between repeats. -/
inductive PlayStage
  | phrase (blocks : Nat)
  | ended
  | silence (blocks : Nat)
deriving DecidableEq, Repr

/-- R49: a phrase player that a call holds. `pass` counts the passes through the list that are complete. -/
structure Player where
  call : Nat
  held : Bool
  index : Nat
  pass : Nat
  clip : Clip
  stage : PlayStage
deriving DecidableEq, Repr

/-- R50: the chime generator while a call holds it. `done` counts the strikes that are complete; `note` is the
place in the pattern's notes, their number standing for the silence after the last. -/
structure ChimeGenerator where
  call : Nat
  held : Bool
  pattern : Fin 8
  strikes : Nat
  done : Nat
  note : Nat
  noteBlocks : Nat
  strikeBlocks : Nat
deriving DecidableEq, Repr

/-- R45, R61–R63: `made` is the block last mixed and `sending` the block going out (a missing sample is 0); `dutyOut`
are the duties that take effect in the present block, and `dutyNext` the one of the PWM period after it. -/
structure Engine where
  lanes : PerLane LaneRecord
  made : Table (List Int) 18
  sending : Table (List Int) 18
  dutyOut : Table (List Int) 8
  dutyNext : Table Int 8
  started : Bool
deriving DecidableEq, Repr

/-! ## Level monitor -/

inductive LevelState | quiet | sound
deriving DecidableEq, Repr

/-- R70. -/
structure SoundSettings where
  upper : Int
  lower : Int
  soundHold : Nat
  quietHold : Nat
deriving DecidableEq, Repr

/-- R67, R68, R70. `peak` is the largest absolute value so far in the period in progress. -/
structure SoundChannel where
  settings : SoundSettings
  state : LevelState
  run : Nat
  lastPeak : Nat
  peak : Nat
deriving DecidableEq, Repr

/-- R74. -/
structure SenseSettings where
  overCurrent : Int
  openStep : Int
  driveCheck : Int
  openHold : Nat
deriving DecidableEq, Repr

/-- R67, R68, R74. -/
structure SenseChannel where
  settings : SenseSettings
  openRun : Nat
  lastPeak : Nat
  lastDrive : Nat
  peak : Nat
  drive : Nat
deriving DecidableEq, Repr

/-- `unlocked` says for each lane whether it was UNLOCKED at any frame of the period in progress (R72). -/
structure LevelMonitor where
  sound : Table SoundChannel 6
  sense : Table SenseChannel 8
  unlocked : PerLane Bool
deriving DecidableEq, Repr

/-- What the monitor hands the Zone unit about a loop (R75, R78). -/
inductive LoopEvent | overCurrent | openBegin | openEnd
deriving DecidableEq, Repr

/-! ## Admission unit -/

/-- R109. -/
inductive EntranceLamp | closing | admitting | hold | usher | off
deriving DecidableEq, Repr

/-- R83: the settings of an entrance. -/
structure EntranceSettings where
  hall : Hall
  zone : Option (Fin 6)
  quota : Nat
  stepFree : Bool
  lamp : Option (Fin 12)
deriving DecidableEq, Repr

/-- R83. -/
structure Entrance where
  settings : EntranceSettings
  admitted : Nat
  usherPending : Bool
  usherUrgent : Bool
  offered : EntranceLamp
deriving DecidableEq, Repr

inductive PartyState | held | admitting
deriving DecidableEq, Repr

inductive PartyOrigin | key | port
deriving DecidableEq, Repr

/-- R87. -/
structure Party where
  number : Nat
  entrance : Fin 12
  hall : Hall
  size : Nat
  arrived : Clock
  state : PartyState
  origin : PartyOrigin
  access : Bool
deriving DecidableEq, Repr

/-- R96. -/
inductive WindowCause | brk | gap | interval | manual
deriving DecidableEq, Repr

/-- R96: a deadline with its warn point. -/
structure Deadline where
  close : Clock
  warn : Clock
deriving DecidableEq, Repr

/-- R96. `closing` is the state CLOSING, its absence OPEN. -/
structure Window where
  cause : WindowCause
  opened : Clock
  deadline : Option Deadline
  extended : Bool
  closing : Bool
deriving DecidableEq, Repr

structure AdmissionUnit where
  entrances : Table Entrance 12
  parties : List Party
  counter : Nat
  windows : PerHall (Option Window)
  totals : PerHall Nat
  view : PerHall Phase
  links : Table (Option Nat) 64
  relay : Table (Option Hall) 6
deriving DecidableEq, Repr

/-- R194: the statuses of replies; R134 answers submissions with them too. -/
inductive Status
  | ok | adjusted | frame | unknown | denied | range | state | full | busy | notFound | notReady | noRequest
deriving DecidableEq, Repr

/-! ## Call unit -/

/-- R129. -/
inductive Origin | stage | house | booth | plan | admission
deriving DecidableEq, Repr

/-- R129: QUEUED; or started, with its resource, its coverage, and whether it is SUSPENDED (else PLAYING). -/
inductive CallState
  | queued
  | started (resource : Source) (coverage : ZoneSet) (suspended : Bool)
deriving DecidableEq, Repr

inductive CallOutcome | done | cancelled | expired | displaced | timeout
deriving DecidableEq, Repr

/-- R129. -/
structure Call where
  id : Nat
  origin : Origin
  priority : Nat
  content : Content
  level : Int
  mode : CallMode
  targets : ZoneSet
  repeats : Option Nat
  deadline : Option Clock
  link : Option Hall
  state : CallState
  liveStart : Option Clock
deriving DecidableEq, Repr

/-- R134: the answer to a submission of the Programme or the Admission unit. -/
inductive SubmissionAnswer
  | accepted (id : Nat)
  | refused (status : Status)
  | dropped
deriving DecidableEq, Repr

/-- `submitted` is the answer last given to a submission (R134; log 25). -/
structure CallUnit where
  queue : List Call
  counter : Nat
  view : PerHall Phase
  players : Table (Option Player) 3
  chime : Option ChimeGenerator
  mics : Table (Option Nat) 2
  submitted : Option SubmissionAnswer
deriving DecidableEq, Repr

/-! ## Description unit -/

/-- R155. -/
inductive TalkState | off | idle | wait | live | grace | cut | muted
deriving DecidableEq, Repr

inductive TalkMode | key | voice
deriving DecidableEq, Repr

/-- R155: the settings of a channel. Grace in seconds. -/
structure ChannelSettings where
  zone : Fin 4
  hall : Hall
  input : Option (Fin 4)
  talkMode : TalkMode
  depth : Int
  gain : Int
  grace : Nat
deriving DecidableEq, Repr

/-- R155. -/
structure Channel where
  settings : ChannelSettings
  talk : TalkState
  expiry : Option Clock
deriving DecidableEq, Repr

/-- R156, and the tally state last handed (R169). -/
structure Describer where
  keys : Nat
  latch : Bool
  voice : LevelState
  tally : TalkState
deriving DecidableEq, Repr

/-- R157: the unit's view of a hall; `mode` is the description mode of the segment at the position, if any. -/
structure DescView where
  phase : Phase
  mode : Option DescMode
deriving DecidableEq, Repr

structure Description where
  channels : Table Channel 4
  describers : Table Describer 4
  view : PerHall DescView
deriving DecidableEq, Repr

/-! ## Panel unit -/

/-- R111. -/
inductive KeyState | up | arming | down | longHeld | stuck | ghost
deriving DecidableEq, Repr

/-- What a sweep has made due on a key (R112, R114–R116; log 8). -/
inductive KeyDue | debounced | long | again | stuck | release
deriving DecidableEq, Repr

/-- R111. -/
structure KeyRecord where
  state : KeyState
  count : Nat
  hold : Nat
  next : Nat
  due : Option KeyDue
deriving DecidableEq, Repr

/-- R117. -/
inductive Role
  | none
  | add (e : Fin 12)
  | remove (e : Fin 12)
  | done (e : Fin 12)
  | usher (e : Fin 12)
  | talk (d : Fin 4)
  | portKey (p : Port)
deriving DecidableEq, Repr

inductive KeyEvent | press | long | again | release | stuck
deriving DecidableEq, Repr

/-- R121, in the units the requests carry: ms, tenths of a second, ms, s. -/
structure ScanTimings where
  debounce : Nat
  long : Nat
  again : Nat
  stuck : Nat
deriving DecidableEq, Repr

/-- R124, with no REFUSE: that pattern is the overlay's. -/
inductive Pattern | off | dim | full | slow | fast
deriving DecidableEq, Repr

/-- R123, R128: a test: its pattern, the frame it shows next, its frames remaining. -/
structure LampTest where
  pattern : Pattern
  frame : Nat
  left : Nat
deriving DecidableEq, Repr

/-- R123: what every lamp holds. `frame` is the pattern's frame shown next; `refuse` the REFUSE frames remaining;
`refuseNew` and `testNew` are taken and wait for the next frame boundary (`testNew = some none` is a CANCEL). -/
structure Lamp where
  pattern : Pattern
  frame : Nat
  refuse : Option Nat
  refuseNew : Bool
  test : Option LampTest
  testNew : Option (Option LampTest)
  brightness : Nat
deriving DecidableEq, Repr

/-- R126: what only a tally lamp holds besides. `cutNew` says that CUT was offered anew since the last boundary. -/
structure TallyRecord where
  offered : TalkState
  cut : Nat
  cutNew : Bool
deriving DecidableEq, Repr

structure Panel where
  keys : Table KeyRecord 64
  down : BitVec 64
  sweepOpen : Bool
  roles : Table Role 64
  timings : ScanTimings
  lamps : Table Lamp 16
  entranceLamps : Table EntranceLamp 12
  tallies : Table TallyRecord 4
deriving DecidableEq, Repr

/-! ## Store unit -/

/-- The phrase flash: the cells that do not read FFH, addresses strictly rising (R171). -/
abbrev Flash := List Host.Cell

/-- R173: the store's state with its operation. -/
inductive StoreState
  | locked
  | opened
  | programming (page : Nat)
  | erasing (sector : Nat)
  | saving (image : List Byte)
deriving DecidableEq, Repr

/-- A STORE_READ that waits for its bytes (R178). -/
structure ReadJob where
  start : Nat
  count : Nat
deriving DecidableEq, Repr

structure Store where
  state : StoreState
  owner : Option Port
  buffer : Table Byte 256
  restartPending : Bool
  directory : Table (Option Clip) 128
  flash : Flash
  reads : PerPort (Option ReadJob)
  saveReach : Nat
deriving DecidableEq, Repr

/-- All the settings of R181. -/
structure Settings where
  halls : PerHall HallSettings
  entrances : Table EntranceSettings 12
  zones : Table ZoneSettings 18
  loops : Table LoopSettings 8
  foyers : Table FoyerSettings 6
  sound : Table SoundSettings 6
  sense : Table SenseSettings 8
  roles : Table Role 64
  timings : ScanTimings
  channels : Table ChannelSettings 4
  plans : Table (List PlanStep) 8
deriving DecidableEq, Repr

/-! ## Ports -/

/-- R192: a reply. -/
structure Reply where
  status : Status
  tag : Byte
  payload : List Byte
deriving DecidableEq, Repr

/-- A good frame handed to its owning unit (R189, R191). -/
structure Request where
  code : Byte
  params : List Byte
deriving DecidableEq, Repr

/-- R187. -/
inductive PortState | idle | receiving | pending | ready
deriving DecidableEq, Repr

inductive ReturnState | idle | ready
deriving DecidableEq, Repr

inductive PortMode | stretch | noStretch
deriving DecidableEq, Repr

/-- What the port last drove on its lines: whether it acknowledged the address, how many data bytes it acknowledged,
the bytes it sent, and, while it holds the clock, for how many bytes the read asks (R188, R192, R193). -/
structure Bus where
  addressAck : Bool
  dataAcks : Nat
  sent : List Byte
  stretch : Option Nat
deriving DecidableEq, Repr

/-- R187, with the handed request and the bus. -/
structure PortRecord where
  state : PortState
  buffer : List Byte
  overflow : Bool
  ret : ReturnState
  setAside : Option Reply
  tag : Option Byte
  reply : Option Reply
  mode : PortMode
  request : Option Request
  bus : Bus
deriving DecidableEq, Repr

/-! ## Notice unit -/

/-- R196: a change up or down, for the edge choice. -/
inductive Edge | rise | fall
deriving DecidableEq, Repr

inductive EdgeChoice | rise | fall | both
deriving DecidableEq, Repr

inductive ClearMode | report | ack
deriving DecidableEq, Repr

/-- R195: a pending kind's count, first detail and first time. -/
structure Pending where
  count : Nat
  detail0 : Byte
  detail1 : Byte
  time : Clock
deriving DecidableEq, Repr

structure NoticeEntry where
  masked : Bool
  pending : Option Pending
deriving DecidableEq, Repr

/-- R195. The port mode stands with the port (R187). -/
structure NoticeSet where
  kinds : Table NoticeEntry 16
  hold : Bool
  edge : EdgeChoice
  clear : ClearMode
deriving DecidableEq, Repr

/-- R196: an offer, with the time it was made and the ports its kind is routed to. -/
structure Offer where
  kind : Fin 16
  detail0 : Byte
  detail1 : Byte
  time : Clock
  ports : PerPort Bool
  edge : Option Edge
deriving DecidableEq, Repr

/-! ## What one unit hands another -/

/-- R7: the cause of a phase change. -/
inductive Cause
  | hallOpen | segStart | segEnd | gapMark | gapEnd | hallDark | orderAppend | quietEvent | soundEvent
deriving DecidableEq, Repr

/-- R7. `segment` is the segment at the position, if any; `endedAdmission` is given by SEG_END. -/
structure PhaseEvent where
  hall : Hall
  old : Phase
  new : Phase
  position : Nat
  count : Nat
  segment : Option (SegmentKind × Admission × DescMode)
  endedAdmission : Option Admission
  cause : Cause
deriving DecidableEq, Repr

/-- Who submits a call, and which plan step it is (R24, R107). -/
inductive SubmitOrigin
  | plan (plan : Fin 8) (step : Nat)
  | admission
deriving DecidableEq, Repr

/-- R24, R107: a call handed ready made; its level is 0, its repeat 1, its hall link `hall`. -/
structure Submission where
  origin : SubmitOrigin
  hall : Hall
  priority : Nat
  content : Content
  mode : CallMode
  targets : ZoneSet
  deadline : Clock
deriving DecidableEq, Repr

/-- From the Programme unit to the Call unit (R7, R20, R24, R25). -/
inductive ProgrammeOrder
  | phase (ev : PhaseEvent)
  | cancelHall (h : Hall)
  | cancelPlan (h : Hall)
  | submit (c : Submission)
deriving DecidableEq, Repr

/-- From the Admission unit to the Call unit (R98, R107). -/
inductive AdmissionOrder
  | submit (c : Submission)
  | cancel (h : Hall)
deriving DecidableEq, Repr

/-- R118: an entrance key's event. -/
structure EntranceKey where
  position : Fin 64
  role : Role
  event : KeyEvent
deriving DecidableEq, Repr

/-- R118: a talk key's event. -/
structure TalkKey where
  describer : Fin 4
  event : KeyEvent
deriving DecidableEq, Repr

/-- R35: relay-on for a hall, or relay-off. -/
structure RelayRequest where
  zone : Fin 6
  hall : Option Hall
deriving DecidableEq, Repr

/-- From the Admission unit to the Panel unit (R109). -/
inductive LampMessage
  | offer (lamp : Fin 12) (state : EntranceLamp)
  | refuse (lamp : Fin 12)
deriving DecidableEq, Repr

/-- R159: a channel's zone before and after. -/
structure ChannelChange where
  oldZone : Fin 4
  newZone : Fin 4
deriving DecidableEq, Repr

/-- R41. -/
structure StackReport where
  zones : ZoneSet
  coverage : List (Owner × ZoneSet)
deriving DecidableEq, Repr

/-- From the Zone unit to the Call unit (R41, R42). -/
inductive ZoneNews
  | report (r : StackReport)
  | hush (flags : List (ZoneNo × Bool))
deriving DecidableEq, Repr

/-- Everything handed and not yet taken: one list for each sender and receiver, oldest first (log 2). -/
structure Mail where
  toAdmission : List PhaseEvent
  toDescription : List PhaseEvent
  toZone : List PhaseEvent
  toCall : List ProgrammeOrder
  hallLevels : PerHall (List LevelState)
  describerLevels : Table (List LevelState) 4
  loopEvents : Table (List LoopEvent) 8
  entranceKeys : List EntranceKey
  talkKeys : List TalkKey
  relays : List RelayRequest
  admissionToCall : List AdmissionOrder
  lamps : List LampMessage
  tallies : List (Fin 4 × TalkState)
  channelChanges : List ChannelChange
  zoneToCall : List ZoneNews
  zoneToDescription : List StackReport
  offers : List Offer
deriving DecidableEq, Repr

end Sys2Proof.Machine
end

