-- ==== Sys2Proof/Machine/Tables.lean ====
section
/-! DEFINITION. The fixed tables of the part: gain coefficients, thresholds, chime patterns, and the request table. -/

namespace Sys2Proof.Machine

/-- R53: C(s) for s from −120 upward to +24: 2^20 × 10^(s/40) rounded to nearest, halves up. -/
def gainTable : List Nat :=
  [1049, 1111, 1177, 1246, 1320, 1398, 1481, 1569, 1662, 1760, 1865, 1975, 2092, 2216, 2347, 2487, 2634,
   2790, 2955, 3130, 3316, 3512, 3720, 3941] ++
  [4174, 4422, 4684, 4961, 5255, 5567, 5897, 6246, 6616, 7008, 7423, 7863, 8329, 8823, 9345, 9899, 10486,
   11107, 11765, 12462, 13201, 13983, 14812, 15689] ++
  [16619, 17604, 18647, 19751, 20922, 22162, 23475, 24866, 26339, 27900, 29553, 31304, 33159, 35124, 37205,
   39409, 41745, 44218, 46838, 49614, 52553, 55667, 58966, 62460] ++
  [66161, 70081, 74233, 78632, 83291, 88227, 93454, 98992, 104858, 111071, 117652, 124623, 132008, 139830,
   148115, 156892, 166188, 176035, 186466, 197515, 209218, 221615, 234747, 248657] ++
  [263390, 278997, 295529, 313040, 331589, 351237, 372049, 394094, 417446, 442181, 468382, 496135, 525533,
   556673, 589658, 624597, 661607, 700809, 742335, 786321, 832914, 882267, 934544, 989920] ++
  [1048576, 1110708, 1176522, 1246235, 1320079, 1398299, 1481153, 1568917, 1661881, 1760354, 1864661,
   1975149, 2092184, 2216154, 2347469, 2486566, 2633904, 2789972, 2955289, 3130401, 3315888, 3512367,
   3720488, 3940941] ++
  [4174456]

/-- R69: T(t) for t from −120 upward to 0: 8,388,607 × 10^(t/40) rounded to nearest, halves up. -/
def thresholdTable : List Nat :=
  [8389, 8886, 9412, 9970, 10561, 11186, 11849, 12551, 13295, 14083, 14917, 15801, 16737, 17729, 18780,
   19893, 21071, 22320, 23642, 25043, 26527, 28099, 29764, 31528] ++
  [33396, 35374, 37471, 39691, 42043, 44534, 47173, 49968, 52929, 56065, 59387, 62906, 66633, 70581, 74764,
   79194, 83886, 88857, 94122, 99699, 105606, 111864, 118492, 125513] ++
  [132950, 140828, 149173, 158012, 167375, 177292, 187798, 198925, 210712, 223198, 236423, 250432, 265271,
   280989, 297639, 315275, 333956, 353745, 374705, 396908, 420426, 445338, 471726, 499678] ++
  [529285, 560647, 593868, 629057, 666331, 705813, 747635, 791936, 838861, 888566, 941217, 996988, 1056063,
   1118639, 1184922, 1255133, 1329505, 1408283, 1491729, 1580119, 1673747, 1772923, 1877975, 1989252] ++
  [2107123, 2231978, 2364231, 2504320, 2652710, 2809893, 2976390, 3152752, 3339565, 3537446, 3747053,
   3969080, 4204263, 4453381, 4717260, 4996776, 5292853, 5606474, 5938679, 6290568, 6663307, 7058133,
   7476354, 7919356] ++
  [8388607]

/-- R53: the coefficient of a gain step. Step −121 is mute; the table holds every step that a path may have. -/
def coefficient (s : Int) : Nat :=
  if s < -120 then 0 else gainTable.getD (s + 120).toNat 0

/-- R69: the linear value of a threshold step, −120 to 0. -/
def threshold (t : Int) : Nat := thresholdTable.getD (t + 120).toNat 0

/-- R51: a note of a chime pattern: half-period in samples and duration in blocks (ms). -/
structure Note where
  half : Nat
  blocks : Nat
deriving DecidableEq, Repr

/-- R51: the notes of a strike of each pattern, in order. -/
def chimeNotes : Fin 8 → List Note
  | 0 => [⟨24, 1200⟩]
  | 1 => [⟨30, 600⟩, ⟨40, 600⟩]
  | 2 => [⟨30, 400⟩, ⟨36, 400⟩, ⟨48, 400⟩]
  | 3 => [⟨24, 300⟩, ⟨30, 300⟩, ⟨36, 300⟩, ⟨48, 300⟩]
  | 4 => [⟨48, 600⟩, ⟨32, 600⟩]
  | 5 => [⟨40, 300⟩, ⟨30, 300⟩, ⟨24, 600⟩]
  | 6 => [⟨60, 800⟩]
  | 7 => [⟨24, 200⟩, ⟨40, 200⟩, ⟨24, 200⟩, ⟨40, 600⟩]

/-- R50: a strike lasts 1,200 blocks. -/
def strikeLength : Nat := 1200

/-- R49, R144: the silence between repeats lasts 1,000 blocks. -/
def silenceLength : Nat := 1000

/-- A row of the request table (Control Ports, 10.4): code, ports, and the parameter length where it is fixed. -/
structure RequestRow where
  code : Nat
  stage : Bool
  house : Bool
  booth : Bool
  length : Option Nat
deriving DecidableEq, Repr

/-- The request table, in its order. ORDER_PUT, PLAN_PUT, LEVEL_SET, KEYMAP_SET and STORE_FILL have no fixed length. -/
def requestTable : List RequestRow :=
  [⟨0x10, true, true, false, some 1⟩, ⟨0x11, true, true, false, none⟩, ⟨0x12, true, true, false, some 7⟩,
   ⟨0x13, true, true, false, some 3⟩, ⟨0x14, true, false, false, some 2⟩, ⟨0x15, true, false, false, some 2⟩,
   ⟨0x16, true, false, false, some 1⟩, ⟨0x17, true, false, false, some 1⟩, ⟨0x18, true, true, false, some 2⟩,
   ⟨0x19, false, true, false, none⟩, ⟨0x1A, true, true, false, some 7⟩, ⟨0x1B, true, true, true, some 1⟩] ++
  [⟨0x20, true, true, false, some 12⟩, ⟨0x21, true, true, true, some 1⟩, ⟨0x28, true, true, false, none⟩,
   ⟨0x29, true, true, true, some 0⟩, ⟨0x2A, true, true, false, some 1⟩, ⟨0x30, false, true, false, some 6⟩,
   ⟨0x31, false, true, false, some 3⟩, ⟨0x32, false, true, false, some 2⟩, ⟨0x33, false, true, false, some 3⟩,
   ⟨0x34, true, true, true, some 1⟩, ⟨0x35, false, true, false, some 3⟩, ⟨0x36, true, true, false, some 2⟩,
   ⟨0x37, true, true, false, some 1⟩, ⟨0x38, false, true, false, some 1⟩] ++
  [⟨0x40, true, true, false, none⟩, ⟨0x41, true, true, false, some 5⟩, ⟨0x42, true, true, true, some 1⟩,
   ⟨0x43, true, true, true, some 3⟩, ⟨0x50, true, true, true, some 19⟩, ⟨0x51, true, true, true, some 1⟩,
   ⟨0x52, true, true, false, some 1⟩, ⟨0x53, true, true, true, some 1⟩, ⟨0x58, false, true, true, some 8⟩,
   ⟨0x59, true, true, true, some 0⟩, ⟨0x5A, false, false, true, some 1⟩, ⟨0x5B, false, false, true, some 1⟩] ++
  [⟨0x60, true, true, false, some 0⟩, ⟨0x61, true, true, false, none⟩, ⟨0x62, true, true, false, some 2⟩,
   ⟨0x63, true, true, false, some 1⟩, ⟨0x64, true, true, true, some 4⟩, ⟨0x65, true, true, false, some 0⟩,
   ⟨0x66, true, true, false, some 0⟩, ⟨0x67, true, true, false, some 0⟩, ⟨0x68, true, true, true, some 0⟩,
   ⟨0x70, true, true, true, some 0⟩, ⟨0x71, true, true, true, some 2⟩, ⟨0x72, true, true, true, some 6⟩]

def RequestRow.permits (r : RequestRow) : Port → Bool
  | .stage => r.stage
  | .house => r.house
  | .booth => r.booth

/-- R191, test 1: the row of a request code. -/
def requestRow (code : Byte) : Option RequestRow :=
  requestTable.find? fun r => r.code == code.toNat

/-- R194: the code of a status. -/
def Status.code : Status → Byte
  | .ok => 0x00
  | .adjusted => 0x01
  | .frame => 0x02
  | .unknown => 0x03
  | .denied => 0x04
  | .range => 0x05
  | .state => 0x06
  | .full => 0x07
  | .busy => 0x08
  | .notFound => 0x09
  | .notReady => 0x0A
  | .noRequest => 0x0B

/-- R195: the kinds by number. -/
def kindPhase : Fin 16 := 0
def kindWindow : Fin 16 := 1
def kindParty : Fin 16 := 2
def kindUsher : Fin 16 := 3
def kindCallEnd : Fin 16 := 4
def kindCallDrop : Fin 16 := 5
def kindLevel : Fin 16 := 6
def kindLoopFault : Fin 16 := 7
def kindTalk : Fin 16 := 8
def kindKey : Fin 16 := 9
def kindInputLock : Fin 16 := 10
def kindStore : Fin 16 := 11
def kindStuckKey : Fin 16 := 12
def kindIntervalDue : Fin 16 := 13
def kindClip : Fin 16 := 14
def kindStart : Fin 16 := 15

end Sys2Proof.Machine
end

