-- ==== Sys2Proof/Machine/Memory.lean ====
section
/-! DEFINITION. The phrase flash: 16 MiB by byte in one canonical form (R171), its reads, programs and erases, and
the directory copy built from it (R172). -/

namespace Sys2Proof.Machine

/-- R171: an address of the flash is below this. -/
def flashSize : Nat := 0x1000000

/-- What a byte reads as that is not listed: FFH, erased (R171; before anything was programmed: log 3). -/
def erasedByte : Byte := 0xFF

/-- The canonical form: addresses strictly rising, none listed that reads FFH, all inside the flash. -/
def Flash.wf : Flash → Bool
  | [] => true
  | [c] => c.2 != erasedByte && decide (c.1 < flashSize)
  | c :: d :: rest => c.2 != erasedByte && decide (c.1 < d.1) && Flash.wf (d :: rest)

/-- The byte at an address. -/
def Flash.read : Flash → Nat → Byte
  | [], _ => erasedByte
  | c :: rest, a => if c.1 = a then c.2 else if a < c.1 then erasedByte else Flash.read rest a

/-- The flash with one byte set to a value, in canonical form; an address outside the flash changes nothing. -/
def Flash.put (m : Flash) (a : Nat) (b : Byte) : Flash :=
  if flashSize ≤ a then m else go m
where
  go : Flash → Flash
    | [] => if b = erasedByte then [] else [(a, b)]
    | c :: rest =>
      if c.1 < a then c :: go rest
      else if c.1 = a then (if b = erasedByte then rest else (a, b) :: rest)
      else if b = erasedByte then c :: rest else (a, b) :: c :: rest

/-- Bytes put one after another from an address upward. -/
def Flash.putAll (m : Flash) (a : Nat) : List Byte → Flash
  | [] => m
  | b :: bs => Flash.putAll (m.put a b) (a + 1) bs

/-- Single cells put one after another. -/
def Flash.putCells (m : Flash) : List Host.Cell → Flash
  | [] => m
  | c :: cs => Flash.putCells (m.put c.1 c.2) cs

/-- `n` bytes from an address upward. -/
def Flash.readAll (m : Flash) (a : Nat) : Nat → List Byte
  | 0 => []
  | n + 1 => m.read a :: Flash.readAll m (a + 1) n

/-- R171: erasing sets every byte of a sector to FFH. -/
def Flash.erase (m : Flash) (sector : Nat) : Flash :=
  m.filter fun c => c.1 / 0x10000 != sector

/-- R176: programming makes each byte the AND of its former value and the buffer byte. -/
def Flash.program (m : Flash) (a : Nat) : List Byte → Flash
  | [] => m
  | b :: bs => Flash.program (m.put a (m.read a &&& b)) (a + 1) bs

/-- The first address of a page, of a sector (R171). -/
def pageStart (page : Nat) : Nat := page * 0x100
def sectorStart (sector : Nat) : Nat := sector * 0x10000

/-- R176: the sector of a page. -/
def sectorOfPage (page : Nat) : Nat := page / 0x100

/-- R176: a byte passes the verification when the buffer byte is FFH or the flash byte equals it. -/
def verified (m : Flash) (a : Nat) : List Byte → Bool
  | [] => true
  | b :: bs => (b == 0xFF || m.read a == b) && verified m (a + 1) bs

/-- R177: an erased sector verifies when every byte reads FFH. -/
def sectorErased (m : Flash) (sector : Nat) : Bool :=
  m.all fun c => c.1 / 0x10000 != sector

/-- A byte read as a number in two's complement. -/
def signed (b : Byte) : Int := b.toInt

/-- A number written high byte first (Control Ports, field encoding). -/
def bigEndian : List Byte → Nat
  | bs => bs.foldl (fun n b => n * 256 + b.toNat) 0

/-- R172: the directory entry of a phrase, if it is in use: number, start, length and gain as Control Ports lays
them out, and the four tests. -/
def directoryEntry (m : Flash) (n : Fin 128) : Option Clip :=
  let e := 16 * n.val
  let start := bigEndian (m.readAll (e + 1) 3)
  let length := bigEndian (m.readAll (e + 4) 3)
  let gain := signed (m.read (e + 7))
  if length = 0xFFFFFF then none
  else if (m.read e).toNat = n.val ∧ start % 2 = 0 ∧ 0x010000 ≤ start ∧ start ≤ 0xFEFFFF ∧
      start + 2 * length ≤ 0xFF0000 ∧ -40 ≤ gain ∧ gain ≤ 0 then
    some ⟨start, length, gain⟩
  else none

/-- R172: the directory copy built from sector 0. -/
def buildDirectory (m : Flash) : Table (Option Clip) 128 := Table.ofFn (directoryEntry m)

/-- R171: a clip sample at an address: two bytes, low byte first, two's complement. -/
def clipSample (m : Flash) (a : Nat) : Int := ((m.read (a + 1)) ++ (m.read a) : BitVec 16).toInt

/-- R172: the entry of a phrase number, none above 127 (R134). -/
def phraseEntry (d : Table (Option Clip) 128) (n : Nat) : Option Clip :=
  if h : n < 128 then d.get ⟨n, h⟩ else none

end Sys2Proof.Machine
end

