-- ==== Sys2Proof/Machine/Operands.lean ====
section
/-! DEFINITION. The bytes of requests, replies and records (Control Ports, 10.5): numbers, names and sets, and every
record a request or the settings image carries. A record read from bytes is `none` where the request that writes it
is refused RANGE, and otherwise comes with whether a value was clamped (ADJUSTED). -/

namespace Sys2Proof.Machine

/-! ## Numbers, names and sets -/

/-- The parameter byte at a place; the router or the unit has checked the length. -/
def byteAt (ps : List Byte) (i : Nat) : Byte := ps.getD i 0

def natAt (ps : List Byte) (i : Nat) : Nat := (byteAt ps i).toNat

/-- Two bytes, high byte first. -/
def wordAt (ps : List Byte) (i : Nat) : Nat := natAt ps i * 256 + natAt ps (i + 1)

/-- A gain or threshold step: one byte in two's complement. -/
def stepAt (ps : List Byte) (i : Nat) : Int := signed (byteAt ps i)

def byteOf (n : Nat) : Byte := BitVec.ofNat 8 n

def stepByte (i : Int) : Byte := BitVec.ofInt 8 i

/-- Two, three and four bytes, high byte first. -/
def bytes2 (n : Nat) : List Byte := [byteOf (n / 256), byteOf n]
def bytes3 (n : Nat) : List Byte := [byteOf (n / 65536), byteOf (n / 256), byteOf n]
def bytes4 (n : Nat) : List Byte := [byteOf (n / 16777216), byteOf (n / 65536), byteOf (n / 256), byteOf n]

/-- A clock value, every byte FFH when absent. -/
def clockBytes : Option Clock → List Byte
  | none => [0xFF, 0xFF, 0xFF, 0xFF]
  | some t => bytes4 t.toNat

def flagByte (b : Bool) : Byte := if b then 1 else 0

/-- A value or NONE: FFH for NONE. -/
def optByte (f : α → Nat) : Option α → Byte
  | none => 0xFF
  | some x => byteOf (f x)

/-- A named value from its code, and its code: the place in the field's list. -/
def nameAt (names : List α) (ps : List Byte) (i : Nat) : Option α := names[natAt ps i]?

def nameCode [DecidableEq α] (names : List α) (x : α) : Nat := names.findIdx fun y => y = x

def nameByte [DecidableEq α] (names : List α) (x : α) : Byte := byteOf (nameCode names x)

/-- A value or NONE (FFH); the outer `none` is a code outside the list. -/
def optNameAt (names : List α) (ps : List Byte) (i : Nat) : Option (Option α) :=
  if byteAt ps i = 0xFF then some none else (names[natAt ps i]?).map some

def hallNames : List Hall := [.a, .b]
def flagNames : List Bool := [false, true]
def phaseNames : List Phase := [.dark, .opened, .playing, .gap, .onBreak, .interval, .ended]
def segmentKindNames : List SegmentKind := [.music, .speech, .interval]
def admissionNames : List Admission := [.never, .atEnd, .atGaps]
def descModeNames : List DescMode := [.free, .gapsOnly, .muted]
def windowCauseNames : List WindowCause := [.brk, .gap, .interval, .manual]
def baseSourceNames : List BaseSource := [.hallA, .hallB, .relayA, .relayB, .aux, .silence]
def sourceNames : List Source :=
  [.player 0, .player 1, .player 2, .chime, .mic 0, .mic 1, .desc 0, .desc 1, .desc 2, .desc 3]
def callModeNames : List CallMode := [.duck, .replace]
def originNames : List Origin := [.stage, .house, .booth, .plan, .admission]
def outcomeNames : List CallOutcome := [.done, .cancelled, .expired, .displaced, .timeout]
def partyStateNames : List PartyState := [.held, .admitting]
def partyOriginNames : List PartyOrigin := [.key, .port]
def talkStateNames : List TalkState := [.off, .idle, .wait, .live, .grace, .cut, .muted]
def talkModeNames : List TalkMode := [.key, .voice]
def keyStateNames : List KeyState := [.up, .arming, .down, .longHeld, .stuck, .ghost]
def keyEventNames : List KeyEvent := [.press, .long, .again, .release, .stuck]
def patternNames : List Pattern := [.off, .dim, .full, .slow, .fast]
def idleSourceNames : List IdleSource := [.aux, .silence]
def portNames : List Port := [.stage, .house, .booth]
def edgeNames : List EdgeChoice := [.rise, .fall, .both]
def clearNames : List ClearMode := [.report, .ack]
def portModeNames : List PortMode := [.stretch, .noStretch]

/-- A number taken to the nearer end of its range, and whether it had to be. -/
def clampNat (lo hi n : Nat) : Nat × Bool :=
  if n < lo then (lo, true) else if hi < n then (hi, true) else (n, false)

def clampInt (lo hi n : Int) : Int × Bool :=
  if n < lo then (lo, true) else if hi < n then (hi, true) else (n, false)

/-- A set of zones from three bytes; `none` for a zone above 17. -/
def zoneSetAt (ps : List Byte) (i : Nat) : Option ZoneSet :=
  let n := natAt ps i * 65536 + wordAt ps (i + 1)
  if n < 2 ^ 18 then some (BitVec.ofNat 18 n) else none

def zoneSetBytes (z : ZoneSet) : List Byte := bytes3 z.toNat

def zoneIn (z : ZoneNo) (zs : ZoneSet) : Bool := zs.getLsbD z.val

/-- The zones of a set, in zone-number order. -/
def zonesOf (zs : ZoneSet) : List ZoneNo := (finUpTo 18).filter fun z => zoneIn z zs

def oneZone (z : ZoneNo) : ZoneSet := BitVec.twoPow 18 z.val

def zoneSetOf (p : ZoneNo → Bool) : ZoneSet :=
  (finUpTo 18).foldl (fun zs z => if p z then zs ||| oneZone z else zs) 0

/-- The four description zones, the bits no plan step may name (R21) and BOOTH alone may (R133). -/
def descZones : ZoneSet := 0b000000111100000000

/-! ## Segments and plan steps -/

/-- R3: a segment record of six bytes. A length or plan on a segment that is no INTERVAL is dropped. -/
def readSegment (ps : List Byte) : Option (Segment × Bool) := do
  let kind ← nameAt segmentKindNames ps 0
  let admission ← nameAt admissionNames ps 1
  let desc ← nameAt descModeNames ps 2
  let plan ← optNameAt (finUpTo 8) ps 5
  let length := wordAt ps 3
  if kind = .interval then
    if length = 0xFFFF then some (⟨kind, admission, desc, none, plan⟩, false)
    else
      let l := clampNat 60 3600 length
      some (⟨kind, admission, desc, some l.1, plan⟩, l.2)
  else some (⟨kind, admission, desc, none, none⟩, length != 0xFFFF || plan.isSome)

/-- Segment records one after another; the whole is refused when one is. -/
def readSegments (ps : List Byte) : Nat → Option (List Segment × Bool)
  | 0 => some ([], false)
  | n + 1 => do
    let s ← readSegment ps
    let rest ← readSegments (ps.drop 6) n
    some (s.1 :: rest.1, s.2 || rest.2)

/-- The 7 content bytes of a PHRASES record: 1 to 6 phrase numbers. -/
def readPhrases (ps : List Byte) : Option (List Nat) :=
  let n := natAt ps 0
  if 1 ≤ n ∧ n ≤ 6 then some (((ps.drop 1).take n).map BitVec.toNat) else none

def writePhrases (list : List Nat) : List Byte :=
  byteOf list.length :: (list.map byteOf ++ List.replicate (6 - list.length) 0xFF)

/-- R21, R183: a plan step of fifteen bytes. Any priority above 6 is clamped to 6 (log 12). -/
def readPlanStep (ps : List Byte) : Option (PlanStep × Bool) := do
  let mode ← nameAt callModeNames ps 14
  let targets ← zoneSetAt ps 10
  let offset := clampNat 0 3600 (wordAt ps 0)
  let priority := clampNat 0 6 (natAt ps 13)
  if targets = 0 ∨ targets &&& descZones ≠ 0 then none
  else
    match natAt ps 2 with
    | 0 => do
      let list ← readPhrases (ps.drop 3)
      some (⟨offset.1, .phrases list, targets, priority.1, mode⟩, offset.2 || priority.2)
    | 1 => do
      let pattern ← (finUpTo 8)[natAt ps 3]?
      let strikes := clampNat 1 4 (natAt ps 4)
      some (⟨offset.1, .chime pattern strikes.1, targets, priority.1, mode⟩, offset.2 || priority.2 || strikes.2)
    | _ => none

/-- The content kind and the seven content bytes of a record. -/
def writeContent : Content → List Byte
  | .phrases list => 0 :: writePhrases list
  | .chime pattern strikes => [1, byteOf pattern.val, byteOf strikes, 0xFF, 0xFF, 0xFF, 0xFF, 0xFF]
  | .live mic => [2, byteOf mic.val, 0xFF, 0xFF, 0xFF, 0xFF, 0xFF, 0xFF]

def writePlanStep (s : PlanStep) : List Byte :=
  bytes2 s.offset ++ writeContent s.content ++ zoneSetBytes s.targets ++ [byteOf s.priority, nameByte callModeNames s.mode]

/-! ## Settings records, as requests and the settings image carry them -/

/-- R27: the six bytes of a hall's settings; the one refusal is a preshow plan above 7 that is not NONE. -/
def readHallSettings (ps : List Byte) : Option (HallSettings × Bool) := do
  let preshow ← optNameAt (finUpTo 8) ps 5
  let b := clampNat 10 300 (wordAt ps 0)
  let g := clampNat 5 120 (natAt ps 2)
  let w := clampNat 0 30 (natAt ps 3)
  let phrase := if byteAt ps 4 = 0xFF then none else some (natAt ps 4)
  some (⟨b.1, g.1, w.1, phrase, preshow⟩, b.2 || g.2 || w.2)

def writeHallSettings (h : HallSettings) : List Byte :=
  bytes2 h.breakWindow ++
    [byteOf h.gapWindow, byteOf h.warnTime, optByte id h.phrase, optByte Fin.val h.preshow]

/-- R84, test 4: the five bytes of an entrance's settings. A step-free byte that is no code is refused with them (log 22). -/
def readEntranceSettings (ps : List Byte) : Option (EntranceSettings × Bool) := do
  let hall ← nameAt hallNames ps 0
  let zone ← if byteAt ps 1 = 0xFF then some none
    else if 12 ≤ natAt ps 1 then ((finUpTo 6)[natAt ps 1 - 12]?).map some else none
  let stepFree ← nameAt flagNames ps 3
  let lamp ← optNameAt (finUpTo 12) ps 4
  let quota := clampNat 1 16 (natAt ps 2)
  some (⟨hall, zone, quota.1, stepFree, lamp⟩, quota.2)

def writeEntranceSettings (e : EntranceSettings) : List Byte :=
  [nameByte hallNames e.hall, optByte (fun f : Fin 6 => f.val + 12) e.zone, byteOf e.quota, flagByte e.stepFree,
   optByte Fin.val e.lamp]

/-- R31: the settings every zone holds, from the eleven bytes after the zone number. -/
def readZoneCommon (ps : List Byte) : ZoneSettings × Bool :=
  let trim := clampInt (-24) 24 (stepAt ps 1)
  let down := clampNat 1 20 (natAt ps 2)
  let up := clampNat 1 20 (natAt ps 3)
  let depth := clampInt (-60) 0 (stepAt ps 4)
  (⟨trim.1, down.1, up.1, depth.1⟩, trim.2 || down.2 || up.2 || depth.2)

/-- R31: the settings of a loop zone among the eleven bytes. -/
def readLoopSettings (ps : List Byte) : Option (LoopSettings × Bool) := do
  let hall ← nameAt hallNames ps 0
  let limit := clampNat 0 2047 (wordAt ps 9)
  some (⟨hall, limit.1⟩, limit.2)

/-- R31: the settings of a foyer zone among the eleven bytes. -/
def readFoyerSettings (ps : List Byte) : Option (FoyerSettings × Bool) := do
  let idle ← nameAt idleSourceNames ps 5
  let quiet ← optNameAt hallNames ps 8
  let idleGain := clampInt (-121) 24 (stepAt ps 6)
  let relayGain := clampInt (-121) 24 (stepAt ps 7)
  some (⟨idle, idleGain.1, relayGain.1, quiet⟩, idleGain.2 || relayGain.2)

/-- The eleven bytes of a zone in the settings image: FFH, or 80H when signed, where a field does not apply. -/
def writeZone (c : ZoneSettings) (l : Option LoopSettings) (f : Option FoyerSettings) : List Byte :=
  [match l with | some l => nameByte hallNames l.hall | none => 0xFF,
   stepByte c.trim, byteOf c.rampDown, byteOf c.rampUp, stepByte c.duckDepth] ++
  (match f with
   | some f => [nameByte idleSourceNames f.idleSource, stepByte f.idleGain, stepByte f.relayGain,
       optByte (nameCode hallNames) f.quietHall]
   | none => [0xFF, 0x80, 0x80, 0xFF]) ++
  (match l with | some l => bytes2 l.driveLimit | none => [0xFF, 0xFF])

/-- R81: the settings of a sound channel; a lower step above the upper one becomes it. -/
def readSoundSettings (ps : List Byte) : SoundSettings × Bool :=
  let upper := clampInt (-120) 0 (stepAt ps 0)
  let lower := clampInt (-120) 0 (stepAt ps 1)
  let sound := clampNat 1 500 (wordAt ps 2)
  let quiet := clampNat 1 500 (wordAt ps 4)
  let adjusted := upper.2 || lower.2 || sound.2 || quiet.2
  if upper.1 < lower.1 then (⟨upper.1, upper.1, sound.1, quiet.1⟩, true)
  else (⟨upper.1, lower.1, sound.1, quiet.1⟩, adjusted)

def writeSoundSettings (s : SoundSettings) : List Byte :=
  [stepByte s.upper, stepByte s.lower] ++ bytes2 s.soundHold ++ bytes2 s.quietHold

/-- R81: the settings of a sense channel. -/
def readSenseSettings (ps : List Byte) : SenseSettings × Bool :=
  let high := clampInt (-120) 0 (stepAt ps 0)
  let opn := clampInt (-120) 0 (stepAt ps 1)
  let drive := clampInt (-120) 0 (stepAt ps 2)
  let hold := clampNat 1 500 (wordAt ps 3)
  (⟨high.1, opn.1, drive.1, hold.1⟩, high.2 || opn.2 || drive.2 || hold.2)

/-- The six bytes of a sense channel in the settings image. -/
def writeSenseSettings (s : SenseSettings) : List Byte :=
  [stepByte s.overCurrent, stepByte s.openStep, stepByte s.driveCheck] ++ bytes2 s.openHold ++ [0xFF]

/-- R120, Control Ports: a role byte, 16 × role + its entrance, describer or port. NONE is 00H alone (log 22). -/
def readRole (b : Byte) : Option Role :=
  let n := b.toNat % 16
  match b.toNat / 16 with
  | 0 => if n = 0 then some .none else none
  | 1 => ((finUpTo 12)[n]?).map .add
  | 2 => ((finUpTo 12)[n]?).map .remove
  | 3 => ((finUpTo 12)[n]?).map .done
  | 4 => ((finUpTo 12)[n]?).map .usher
  | 5 => ((finUpTo 4)[n]?).map .talk
  | 6 => (portNames[n]?).map .portKey
  | _ => none

def writeRole : Role → Byte
  | .none => 0
  | .add e => byteOf (16 + e.val)
  | .remove e => byteOf (32 + e.val)
  | .done e => byteOf (48 + e.val)
  | .usher e => byteOf (64 + e.val)
  | .talk d => byteOf (80 + d.val)
  | .portKey p => byteOf (96 + nameCode portNames p)

/-- Role bytes one after another; the whole is refused when one is. -/
def readRoles : List Byte → Option (List Role)
  | [] => some []
  | b :: bs => do
    let r ← readRole b
    let rest ← readRoles bs
    some (r :: rest)

/-- R121: the four scan timings. -/
def readTimings (ps : List Byte) : ScanTimings × Bool :=
  let d := clampNat 5 40 (natAt ps 0)
  let l := clampNat 5 50 (natAt ps 1)
  let r := clampNat 100 1000 (wordAt ps 2)
  let s := clampNat 10 120 (natAt ps 4)
  (⟨d.1, l.1, r.1, s.1⟩, d.2 || l.2 || r.2 || s.2)

def writeTimings (t : ScanTimings) : List Byte :=
  [byteOf t.debounce, byteOf t.long] ++ bytes2 t.again ++ [byteOf t.stuck]

/-- R159, test 4: the seven bytes of a description channel's settings. -/
def readChannelSettings (ps : List Byte) : Option (ChannelSettings × Bool) := do
  let zone ← if 8 ≤ natAt ps 0 then (finUpTo 4)[natAt ps 0 - 8]? else none
  let hall ← nameAt hallNames ps 1
  let input ← optNameAt (finUpTo 4) ps 2
  let mode ← nameAt talkModeNames ps 3
  let depth := clampInt (-60) 0 (stepAt ps 4)
  let gain := clampInt (-24) 12 (stepAt ps 5)
  let grace := clampNat 0 10 (natAt ps 6)
  some (⟨zone, hall, input, mode, depth.1, gain.1, grace.1⟩, depth.2 || gain.2 || grace.2)

def writeChannelSettings (c : ChannelSettings) : List Byte :=
  [byteOf (c.zone.val + 8), nameByte hallNames c.hall, optByte Fin.val c.input, nameByte talkModeNames c.talkMode,
   stepByte c.depth, stepByte c.gain, byteOf c.grace]

/-! ## A call as a console submits it -/

/-- The fields of CALL_SUBMIT whose form has passed R132, before any clamp. -/
structure CallForm where
  priority : Nat
  content : Content
  level : Int
  mode : CallMode
  targets : ZoneSet
  repeats : Nat
  deadline : Option Nat
  link : Option Hall
deriving DecidableEq, Repr

/-- R132: the form of CALL_SUBMIT's nineteen bytes. -/
def readCall (ps : List Byte) : Option CallForm := do
  let content ← match natAt ps 1 with
    | 0 => do
      let list ← readPhrases (ps.drop 2)
      if list.all (fun n => n ≤ 127) then some (Content.phrases list) else none
    | 1 => ((finUpTo 8)[natAt ps 2]?).map fun p => Content.chime p (natAt ps 3)
    | 2 => ((finUpTo 2)[natAt ps 2]?).map Content.live
    | _ => none
  let mode ← nameAt callModeNames ps 10
  let targets ← zoneSetAt ps 11
  let flag ← nameAt flagNames ps 15
  let link ← optNameAt hallNames ps 18
  if targets = 0 ∨ 7 < natAt ps 0 then none
  else some ⟨natAt ps 0, content, stepAt ps 9, mode, targets, natAt ps 14,
    if flag then some (wordAt ps 16) else none, link⟩

end Sys2Proof.Machine
end

