-- ==== Sys2Proof/Machine/Image.lean ====
section
/-! DEFINITION. The settings image (R181): its bytes, its CRC, how start-up tests and reads it (R183), and the
factory defaults. -/

namespace Sys2Proof.Machine

/-! ## The CRC of R181 -/

/-- R181: bits taken into the CRC, x^16 + x^12 + x^5 + 1, most significant bit first. -/
def crcBits (c : BitVec 16) : List Bool → BitVec 16
  | [] => c
  | b :: bs => if c.msb != b then crcBits ((c <<< 1) ^^^ 0x1021) bs else crcBits (c <<< 1) bs

def byteBits (b : Byte) : List Bool := (finUpTo 8).map fun i => b.getMsbD i.val

def crcByte (c : BitVec 16) (b : Byte) : BitVec 16 := crcBits c (byteBits b)

/-- R181: the CRC over bytes, initial value FFFFH. -/
def crc (bs : List Byte) : BitVec 16 := crcBits 0xFFFF (bs.flatMap byteBits)

/-! ## Writing the image -/

/-- R181, Control Ports: a plan is its step count and six step records, unused ones FFH. -/
def writePlan (steps : List PlanStep) : List Byte :=
  byteOf steps.length :: ((steps.flatMap writePlanStep) ++ List.replicate (90 - 15 * steps.length) 0xFF)

/-- The eleven bytes of a zone's record. -/
def writeZoneOf (s : Settings) (z : ZoneNo) : List Byte :=
  match zoneKind z with
  | .loop l => writeZone (s.zones.get z) (some (s.loops.get l)) none
  | .desc _ => writeZone (s.zones.get z) none none
  | .foyer f => writeZone (s.zones.get z) none (some (s.foyers.get f))

/-- R181: the 1,179 bytes from the hall settings to the call plans. -/
def settingsBytes (s : Settings) : List Byte :=
  writeHallSettings s.halls.a ++ writeHallSettings s.halls.b ++
  s.entrances.toList.flatMap writeEntranceSettings ++
  (finUpTo 18).flatMap (writeZoneOf s) ++
  s.sound.toList.flatMap writeSoundSettings ++ s.sense.toList.flatMap writeSenseSettings ++
  s.roles.toList.map writeRole ++ writeTimings s.timings ++
  s.channels.toList.flatMap writeChannelSettings ++
  s.plans.toList.flatMap writePlan

/-- R181: the image length. -/
def imageLength : Nat := 1179

/-- R181: the whole image: length, settings, CRC high byte first. -/
def buildImage (s : Settings) : List Byte :=
  let body := bytes2 imageLength ++ settingsBytes s
  body ++ bytes2 (crc body).toNat

/-- R181: the image begins at FF0000H. -/
def imageStart : Nat := 0xFF0000

/-! ## Reading the image -/

/-- A table whose every entry reads, or none. -/
def readTable (n : Nat) (f : Fin n → Option α) : Option (Table α n) := do
  let l ← (finUpTo n).foldr (fun i rest => do
    let x ← f i
    let xs ← rest
    some (x :: xs)) (some [])
  if h : l.length = n then some ⟨l, h⟩ else none

/-- The steps of a plan's record; a step count above 6 makes the image bad (R183). -/
def readSteps (ps : List Byte) : Nat → Option (List PlanStep)
  | 0 => some []
  | n + 1 => do
    let s ← readPlanStep ps
    let rest ← readSteps (ps.drop 15) n
    some (s.1 :: rest)

def readPlan (ps : List Byte) : Option (List PlanStep) :=
  if natAt ps 0 ≤ 6 then readSteps (ps.drop 1) (natAt ps 0) else none

/-- R84, test 5: no lamp is named twice. -/
def lampsDistinct (t : Table EntranceSettings 12) : Bool :=
  (finUpTo 12).all fun e => (finUpTo 12).all fun f =>
    e = f || (t.get e).lamp.isNone || (t.get e).lamp != (t.get f).lamp

/-- R84, test 6: no foyer zone holds entrances of both halls. -/
def foyersOneHall (t : Table EntranceSettings 12) : Bool :=
  (finUpTo 12).all fun e => (finUpTo 12).all fun f =>
    (t.get e).zone.isNone || (t.get e).zone != (t.get f).zone || (t.get e).hall = (t.get f).hall

/-- R183, step 3: the settings read field by field, each as its request checks it; `none` where one would be
refused RANGE. Clamps are made without notice. -/
def readSettings (bs : List Byte) : Option Settings := do
  let hallA ← readHallSettings bs
  let hallB ← readHallSettings (bs.drop 6)
  let entrances ← readTable 12 fun i => (readEntranceSettings (bs.drop (12 + 5 * i.val))).map Prod.fst
  let loops ← readTable 8 fun l => (readLoopSettings (bs.drop (72 + 11 * l.val))).map Prod.fst
  let foyers ← readTable 6 fun f => (readFoyerSettings (bs.drop (72 + 11 * (f.val + 12)))).map Prod.fst
  let rolesList ← readRoles ((bs.drop 354).take 64)
  let roles ← if h : rolesList.length = 64 then some ⟨rolesList, h⟩ else none
  let channels ← readTable 4 fun c => (readChannelSettings (bs.drop (423 + 7 * c.val))).map Prod.fst
  let plans ← readTable 8 fun p => readPlan (bs.drop (451 + 91 * p.val))
  if lampsDistinct entrances && foyersOneHall entrances then
    some
      { halls := ⟨hallA.1, hallB.1⟩
        entrances := entrances
        zones := Table.ofFn fun z => (readZoneCommon (bs.drop (72 + 11 * z.val))).1
        loops := loops
        foyers := foyers
        sound := Table.ofFn fun c => (readSoundSettings (bs.drop (270 + 6 * c.val))).1
        sense := Table.ofFn fun c => (readSenseSettings (bs.drop (306 + 6 * c.val))).1
        roles := roles
        timings := (readTimings (bs.drop 418)).1
        channels := channels
        plans := plans }
  else none

/-- R183: why the image is not used. -/
inductive ImageFault | empty | crc | content
deriving DecidableEq, Repr

/-- R183, steps 2 and 3: the image's settings, or the reason it is not used. -/
def loadImage (m : Flash) : Except ImageFault Settings :=
  let length := bigEndian (m.readAll imageStart 2)
  if length = 0xFFFF then .error .empty
  else if length ≠ imageLength then .error .content
  else
    let body := m.readAll imageStart (imageLength + 2)
    if (crc body).toNat ≠ bigEndian (m.readAll (imageStart + imageLength + 2) 2) then .error .crc
    else
      match readSettings (body.drop 2) with
      | some s => .ok s
      | none => .error .content

/-! ## The factory defaults (R183), each from its own table -/

/-- R1. -/
def defaultHall : HallSettings := ⟨45, 20, 10, some 1, none⟩

/-- R83. -/
def defaultEntrance (e : Fin 12) : EntranceSettings :=
  ⟨if e.val < 8 then .a else .b, some (if e.val < 4 then 0 else if e.val < 8 then 1 else 2), 6, e.val % 4 == 0, some e⟩

/-- R29. -/
def defaultZone : ZoneSettings := ⟨0, 2, 10, -24⟩
def defaultLoop (l : Fin 8) : LoopSettings := ⟨if l.val < 6 then .a else .b, 1800⟩
def defaultFoyer : FoyerSettings := ⟨.silence, -24, -12, none⟩

/-- R70: HALL_A and HALL_B, then DESC0–DESC3. -/
def defaultSound (c : Fin 6) : SoundSettings :=
  if c.val < 2 then ⟨-80, -92, 5, 300⟩ else ⟨-72, -84, 3, 80⟩

/-- R74. -/
def defaultSense : SenseSettings := ⟨-2, -100, -60, 200⟩

/-- R117: rows 0–5 hold two entrances each, row 6 the talk keys. -/
def defaultRole (k : Fin 64) : Role :=
  if h : k.val < 48 then
    let e : Fin 12 := ⟨k.val / 4, by omega⟩
    match k.val % 4 with
    | 0 => .add e
    | 1 => .remove e
    | 2 => .done e
    | _ => .usher e
  else if h2 : k.val < 52 then .talk ⟨k.val - 48, by omega⟩
  else .none

/-- R121. -/
def defaultTimings : ScanTimings := ⟨20, 15, 400, 30⟩

/-- R155. -/
def defaultChannel (c : Fin 4) : ChannelSettings :=
  ⟨c, if c.val < 2 then .a else .b, some c, .key, -24, 0, 3⟩

/-- Every setting at its factory default; the call plans are eight plans with no steps (R21). -/
def factorySettings : Settings where
  halls := ⟨defaultHall, defaultHall⟩
  entrances := Table.ofFn defaultEntrance
  zones := Table.fill 18 defaultZone
  loops := Table.ofFn defaultLoop
  foyers := Table.fill 6 defaultFoyer
  sound := Table.ofFn defaultSound
  sense := Table.fill 8 defaultSense
  roles := Table.ofFn defaultRole
  timings := defaultTimings
  channels := Table.ofFn defaultChannel
  plans := Table.fill 8 []

end Sys2Proof.Machine
end

