-- ==== Sys2Proof/Machine/Boot.lean ====
section
/-! DEFINITION. The reset values of every unit, from the settings that start-up has taken (R183 and each unit's own
chapter). -/

namespace Sys2Proof.Machine

/-- R1. -/
def bootHall (h : HallSettings) : HallRecord := ⟨.dark, [], 0, none, [], false, h⟩

def bootProgramme (s : Settings) : Programme :=
  ⟨⟨bootHall s.halls.a, bootHall s.halls.b⟩, s.plans⟩

/-- R35: the base gain that goes with an idle source. -/
def idleBase (f : FoyerSettings) : BaseSource × Int :=
  match f.idleSource with
  | .aux => (.aux, f.idleGain)
  | .silence => (.silence, -121)

/-- R29, R33–R35, R66: both halls are DARK, so loops and description zones carry SILENCE and foyers their idle
source; the bg current step equals the target, which is the base gain under an empty stack. -/
def bootZone (s : Settings) (z : ZoneNo) : ZoneRecord :=
  let base : BaseSource × Int :=
    match zoneKind z with
    | .loop _ | .desc _ => (.silence, -121)
    | .foyer f => idleBase (s.foyers.get f)
  ⟨s.zones.get z, base.1, base.2, [], base.2, 0, base.2, false, none⟩

def bootLoop (l : LoopSettings) : LoopRecord := ⟨l, .none, false, false, 0, false⟩

def bootFoyer (f : FoyerSettings) : FoyerRecord := ⟨f, none, false⟩

def bothDark : PerHall Phase := ⟨.dark, .dark⟩

def bootZoneUnit (s : Settings) : ZoneUnit :=
  ⟨Table.ofFn (bootZone s), s.loops.map bootLoop, s.foyers.map bootFoyer, bothDark, none, none⟩

/-- R46. -/
def bootLane : LaneRecord := ⟨false, 0, 0, []⟩

/-- R45, R63, R66: every slot 0, every duty 2,048, no block mixed yet. -/
def bootEngine : Engine :=
  ⟨⟨bootLane, bootLane⟩, Table.fill 18 [], Table.fill 18 [], Table.fill 8 [], Table.fill 8 2048, false⟩

/-- R67. -/
def bootLevel (s : Settings) : LevelMonitor :=
  ⟨s.sound.map fun c => ⟨c, .quiet, 0, 0, 0⟩, s.sense.map fun c => ⟨c, 0, 0, 0, 0, 0⟩, ⟨true, true⟩⟩

/-- R83, R87, R88, R90, R96, R108. -/
def bootAdmission (s : Settings) : AdmissionUnit :=
  ⟨s.entrances.map fun e => ⟨e, 0, false, false, .off⟩, [], 1, ⟨none, none⟩, ⟨0, 0⟩, bothDark, Table.fill 64 none,
   Table.fill 6 none⟩

/-- R129, R66. -/
def bootCall : CallUnit := ⟨[], 1, bothDark, Table.fill 3 none, none, Table.fill 2 none, none⟩

/-- R155–R157, R169. -/
def bootDescription (s : Settings) : Description :=
  ⟨s.channels.map fun c => ⟨c, .off, none⟩, Table.fill 4 ⟨0, false, .quiet, .off⟩, ⟨⟨.dark, none⟩, ⟨.dark, none⟩⟩⟩

/-- R123. -/
def bootLamp : Lamp := ⟨.off, 0, none, false, none, none, 0⟩

/-- R111, R117, R121, R123. -/
def bootPanel (s : Settings) : Panel :=
  ⟨Table.fill 64 ⟨.up, 0, 0, 0, none⟩, 0, false, s.roles, s.timings, Table.fill 16 bootLamp, Table.fill 12 .off,
   Table.fill 4 ⟨.off, 0, false⟩⟩

/-- R173: the store's record over the flash as it stands. -/
def bootStore (m : Flash) : Store :=
  ⟨.locked, none, Table.fill 256 0xFF, false, buildDirectory m, m, ⟨none, none, none⟩, 0⟩

/-- R187. -/
def bootPort : PortRecord :=
  ⟨.idle, [], false, .idle, none, none, none, .stretch, none, ⟨false, 0, [], none⟩⟩

/-- R183, step 5, with the START detail of Control Ports: the source, and for DEFAULTS the reason. -/
def startDetail : Except ImageFault Settings → Byte × Byte
  | .ok _ => (0, 0xFF)
  | .error .empty => (1, 0)
  | .error .crc => (1, 1)
  | .error .content => (1, 2)

/-- R195: a set at the end of start-up: all masked but PHASE and START, and START pending with its detail. -/
def bootNotices (detail : Byte × Byte) : NoticeSet :=
  ⟨Table.ofFn fun k =>
      ⟨k != kindPhase && k != kindStart, if k = kindStart then some ⟨1, detail.1, detail.2, 0⟩ else none⟩,
   true, .both, .report⟩

/-- R183, step 4: the settings in force. -/
def settingsInForce : Except ImageFault Settings → Settings
  | .ok s => s
  | .error _ => factorySettings

/-- Nothing handed and not yet taken. -/
def noMail : Mail where
  toAdmission := []
  toDescription := []
  toZone := []
  toCall := []
  hallLevels := ⟨[], []⟩
  describerLevels := Table.fill 4 []
  loopEvents := Table.fill 8 []
  entranceKeys := []
  talkKeys := []
  relays := []
  admissionToCall := []
  lamps := []
  tallies := []
  channelChanges := []
  zoneToCall := []
  zoneToDescription := []
  offers := []

end Sys2Proof.Machine
end

