-- ==== Sys2Proof/Machine/State.lean ====
section
/-! DEFINITION. The state of the block, the (empty) reasons to stop, and the state right after reset. -/

namespace Sys2Proof.Machine

/-- Everything the block holds. `draws` counts the free values drawn (log 5); `pending` is the queue of the commands
that wait, first in, first out (log 1). -/
structure State where
  clock : Clock
  straps : BitVec 2
  programme : Programme
  zoneUnit : ZoneUnit
  engine : Engine
  level : LevelMonitor
  admission : AdmissionUnit
  call : CallUnit
  description : Description
  panel : Panel
  store : Store
  ports : PerPort PortRecord
  notices : PerPort NoticeSet
  mail : Mail
  draws : Nat
  pending : List Instr
deriving DecidableEq, Repr

/-- The part has no fault that stops it: a request it will not do is answered with a status (R194). No meaning of
this model faults; the type has no constructor. -/
inductive Fault
deriving DecidableEq, Repr

/-- The reasons to refuse a command. -/
inductive Refusal
  /-- Raised by an arm of `exec` whose command has no meaning yet. Safe: the model stops. No arm raises it now. -/
  | notModelled (mnemonic : String)
deriving DecidableEq, Repr

/-- R183: the state at the end of start-up, over a flash and a strap value: every unit at its reset values, the
settings from the image or the defaults, START offered and taken on all three ports (R195). -/
def State.boot (straps : BitVec 2) (m : Flash) (draws : Nat) (queue : List Instr) : State :=
  let image := loadImage m
  let s := settingsInForce image
  let n := bootNotices (startDetail image)
  { clock := 0
    straps := straps
    programme := bootProgramme s
    zoneUnit := bootZoneUnit s
    engine := bootEngine
    level := bootLevel s
    admission := bootAdmission s
    call := bootCall
    description := bootDescription s
    panel := bootPanel s
    store := bootStore m
    ports := ⟨bootPort, bootPort, bootPort⟩
    notices := ⟨n, n, n⟩
    mail := noMail
    draws := draws
    pending := queue }

/-- The machine right after reset: straps 0 (log 10), a flash of erased bytes (log 3), nothing waiting. -/
def State.reset : State := State.boot 0 [] 0 []

end Sys2Proof.Machine
end

