-- ==== Sys2Proof/Machine/Ops.lean ====
section
/-! DEFINITION. The operations every unit shares: comparing with the house clock, handing an event or an offer,
taking the oldest of what was handed, taking a request and answering it. -/

namespace Sys2Proof.Machine

/-- What a command answers. -/
abbrev Step := Host.Outcome State Fault Refusal

/-! ## The house clock -/

/-- The house clock has reached a time: the time lies at most half the clock's range back (log 6). -/
def reached (now t : Clock) : Bool := decide ((now - t).toNat < 2 ^ 31)

/-- A time so many ds after another. -/
def laterBy (t : Clock) (ds : Nat) : Clock := t + BitVec.ofNat 32 ds

/-- A time so many ds before another. -/
def earlierBy (t : Clock) (ds : Nat) : Clock := t - BitVec.ofNat 32 ds

/-- Seconds in ds. -/
def ds (seconds : Nat) : Nat := 10 * seconds

/-- The ds left until a time, 0 once it is reached (log 17). -/
def leftUntil (now t : Clock) : Nat := if reached now t then 0 else (t - now).toNat

/-! ## Ports and notices -/

def allPorts : PerPort Bool := ⟨true, true, true⟩
def onlyPort (p : Port) : PerPort Bool := (⟨false, false, false⟩ : PerPort Bool).set p true

/-- An offer handed to the Notice unit (R196). -/
def offerTo (ports : PerPort Bool) (kind : Fin 16) (d0 d1 : Byte) (edge : Option Edge) (s : State) : State :=
  { s with mail := { s.mail with offers := s.mail.offers ++ [⟨kind, d0, d1, s.clock, ports, edge⟩] } }

/-- An offer of a kind that is routed to all three ports (R196). -/
def offer (kind : Fin 16) (d0 d1 : Byte) (s : State) : State := offerTo allPorts kind d0 d1 none s

/-- The bytes of a reply as the port sends them, and FFH beyond its end (R192). -/
def replyBytes (r : Reply) : List Byte := [r.status.code, r.tag, byteOf r.payload.length] ++ r.payload

def sendBytes (r : Reply) (count : Nat) : List Byte :=
  (replyBytes r).take count ++ List.replicate (count - (replyBytes r).length) 0xFF

/-- R191, R193: the router takes a unit's answer: the port is READY with the reply, and a read that is being
stretched sends it. -/
def answer (p : Port) (status : Status) (payload : List Byte) (s : State) : State :=
  let r := s.ports.get p
  let reply : Reply := ⟨status, r.tag.getD 0, payload⟩
  let bus : Bus := match r.bus.stretch with
    | some count => ⟨r.bus.addressAck, r.bus.dataAcks, sendBytes reply count, none⟩
    | none => r.bus
  let done : PortRecord := { r with state := .ready, tag := none, request := none, reply := some reply, bus := bus }
  { s with ports := s.ports.set p done }

/-! ## Requests -/

/-- What a unit makes of a request: the state it leaves, and its answer if it gives one now. -/
structure Answer where
  state : State
  reply : Option (Status × List Byte)

/-- A refusal: the unit's state is as it was (R191). -/
def refuse (status : Status) (s : State) : Answer := ⟨s, some (status, [])⟩

/-- OK, or ADJUSTED when a value was clamped (R194). -/
def accept (adjusted : Bool) (payload : List Byte) (s : State) : Answer :=
  ⟨s, some (if adjusted then .adjusted else .ok, payload)⟩

def respond (p : Port) (a : Answer) : State :=
  match a.reply with
  | some r => answer p r.1 r.2 a.state
  | none => a.state

/-- The request of a port is in its unit's hands. -/
def withoutRequest (p : Port) (s : State) : State :=
  { s with ports := s.ports.modify p fun r => { r with request := none } }

/-- A unit takes the request that waits for it at a port and answers it; where no such request waits, nothing is
taken (log 2). -/
def takeRequest (code : Byte) (p : Port) (s : State) (unit : List Byte → State → Answer) : Step :=
  match (s.ports.get p).request with
  | some r => if r.code = code then .next (respond p (unit r.params (withoutRequest p s))) else .next s
  | none => .next s

/-! ## Reading another unit's record, and the store's state -/

/-- The Store unit is SAVING: settings requests are refused BUSY (R182). -/
def saving (s : State) : Bool :=
  match s.store.state with
  | .saving _ => true
  | _ => false

/-- The store is OPEN, PROGRAMMING or ERASING (R8, R133, R134, R174). -/
def storeOpen (s : State) : Bool :=
  match s.store.state with
  | .opened | .programming _ | .erasing _ => true
  | _ => false

/-- A hall is DARK in the Programme unit's hall records. -/
def hallDark (s : State) (h : Hall) : Bool := (s.programme.halls.get h).phase = .dark

def bothHallsDark (s : State) : Bool := hallDark s .a && hallDark s .b

def bothHalls : List Hall := [.a, .b]

end Sys2Proof.Machine
end

