-- ==== Sys2Proof/Machine/Flags.lean ====
section
/-! DEFINITION. The flags that units compute from what they hold: the attention lines, hushing, the frozen channels,
the governing mode and the allowed test of description, the offered lamp states; and what the outputs carry. -/

namespace Sys2Proof.Machine

/-- R198: a port's attention line: some kind is pending and not masked. -/
def attention (n : NoticeSet) : Bool := n.kinds.any fun k => k.pending.isSome && !k.masked

/-- R42: a hall whose loops and quiet foyers are hushed. -/
def hushingPhase (p : Phase) : Bool := p = .playing || p = .gap

/-- R42: the hushed flag a loop zone should have. -/
def loopHush (view : PerHall Phase) (l : LoopSettings) : Bool := hushingPhase (view.get l.hall)

/-- R42: the hushed flag a foyer zone should have. -/
def foyerHush (view : PerHall Phase) (f : FoyerSettings) : Bool :=
  match f.quietHall with
  | some h => hushingPhase (view.get h)
  | none => false

/-- The hushed flag of a zone; a description zone has none. -/
def hushedFlag (u : ZoneUnit) (z : ZoneNo) : Bool :=
  match zoneKind z with
  | .loop l => (u.loops.get l).hushed
  | .desc _ => false
  | .foyer f => (u.foyers.get f).hushed

/-- R42: a zone is hushed for an entry. -/
def hushedFor (u : ZoneUnit) (z : ZoneNo) (priority : Nat) (exempt : Bool) : Bool :=
  hushedFlag u z && decide (priority < 6) && !exempt

/-- R43: the fold-back in steps. -/
def FoldBack.steps : FoldBack → Int
  | .none => 0
  | .by12 => -12
  | .by24 => -24
  | .by36 => -36

/-- R54: the fold-back of a zone; 0 for a description or foyer zone. -/
def foldBackOf (u : ZoneUnit) (z : ZoneNo) : Int :=
  match zoneKind z with
  | .loop l => (u.loops.get l).foldBack.steps
  | _ => 0

/-- R72: the lane of a sound channel. -/
def soundLane (c : Fin 6) : Lane := if c.val < 2 then .lane0 else .lane1

/-- R82: a sound channel is FROZEN while its lane is UNLOCKED. -/
def frozen (s : State) (c : Fin 6) : Bool := !(s.engine.lanes.get (soundLane c)).locked

/-- R157: the governing mode of a channel's hall. -/
def governingMode (v : DescView) : Option DescMode :=
  match v.phase with
  | .playing | .gap | .interval => v.mode
  | .opened | .onBreak | .ended => some .free
  | .dark => none

/-- R157: talk is allowed. -/
def talkAllowed (v : DescView) : Bool :=
  v.phase ≠ .dark &&
    (governingMode v = some .free ||
      (governingMode v = some .gapsOnly && (v.phase = .gap || v.phase = .interval)))

/-- R156: a channel has a talk request. -/
def talkRequest (u : Description) (c : ChannelSettings) : Bool :=
  match c.input with
  | none => false
  | some d =>
    let r := u.describers.get d
    decide (0 < r.keys) || r.latch || (c.talkMode = .voice && r.voice = .sound)

/-- R169: urgency, the most urgent first. -/
def urgency : List TalkState := [.live, .grace, .wait, .cut, .muted, .idle, .off]

/-- R169: the tally state of a describer: the most urgent talk state among its channels; OFF when it has none. -/
def tallyState (u : Description) (d : Fin 4) : TalkState :=
  let states := ((finUpTo 4).filter fun c => (u.channels.get c).settings.input = some d).map fun c => (u.channels.get c).talk
  (urgency.find? fun t => states.contains t).getD .off

/-- The parties standing at an entrance, in list order. -/
def partiesAt (u : AdmissionUnit) (e : Fin 12) : List Party := u.parties.filter fun q => q.entrance = e

/-- R109: the lamp state of an entrance. -/
def lampState (u : AdmissionUnit) (e : Fin 12) : EntranceLamp :=
  let r := u.entrances.get e
  let here := partiesAt u e
  let admitting := here.any fun q => q.state = .admitting
  let closing := match u.windows.get r.settings.hall with
    | some w => w.closing
    | none => false
  if closing && admitting then .closing
  else if admitting then .admitting
  else if here.any fun q => q.state = .held then .hold
  else if r.usherPending then .usher
  else .off

/-! ## What the outputs carry (log 26) -/

/-- R61: the zone whose samples a slot of an output lane carries; none in a slot that carries 0. -/
def outputZone (lane : Fin 2) (slot : Fin 8) : Option ZoneNo :=
  if lane = 0 then (if h : slot.val < 4 then some ⟨8 + slot.val, by omega⟩ else none)
  else (if h : slot.val < 6 then some ⟨12 + slot.val, by omega⟩ else none)

/-- R61: what a slot of an output lane carries at a sample of the block going out. -/
def outputSample (s : State) (lane : Fin 2) (slot : Fin 8) (i : Nat) : Int :=
  match outputZone lane slot with
  | some z => (s.engine.sending.get z).getD i 0
  | none => 0

/-- R63: a loop driver's output at a count of the PWM period of a sample: high for the first duty counts. -/
def loopOutput (s : State) (l : Fin 8) (i count : Nat) : Bool :=
  decide ((count : Int) < (s.engine.dutyOut.get l).getD i 2048)

/-- R123: a lamp's output at a count of its PWM period: high for the first 4 × brightness counts. -/
def lampOutput (s : State) (l : Fin 16) (count : Nat) : Bool :=
  decide (count < 4 * (s.panel.lamps.get l).brightness)

end Sys2Proof.Machine
end

