-- ==== Sys2Proof/Machine/Admission.lean ====
section
/-! DEFINITION. The Admission unit: the latecomer list, the windows, selection and seating, the relay requests, the
entrance lamps, and the meanings of its requests and events (spec/05, R83–R110). -/

namespace Sys2Proof.Machine

def setAdmission (u : AdmissionUnit) (s : State) : State := { s with admission := u }

def entranceOf (s : State) (e : Fin 12) : Entrance := s.admission.entrances.get e

def windowOf (s : State) (h : Hall) : Option Window := s.admission.windows.get h

def setWindow (h : Hall) (w : Option Window) (s : State) : State :=
  setAdmission { s.admission with windows := s.admission.windows.set h w } s

def setParties (l : List Party) (s : State) : State := setAdmission { s.admission with parties := l } s

def modifyEntrance (e : Fin 12) (f : Entrance → Entrance) (s : State) : State :=
  setAdmission { s.admission with entrances := s.admission.entrances.modify e f } s

def hallSettingsOf (s : State) (h : Hall) : HallSettings := (s.programme.halls.get h).settings

/-! ## Lamps, relay requests and notices (R88, R108, R109) -/

/-- Something handed to the Panel unit for a lamp. -/
def handLamp (m : LampMessage) (s : State) : State := { s with mail := { s.mail with lamps := s.mail.lamps ++ [m] } }

/-- R109: an entrance's lamp state worked out, and handed where it differs from the one last handed. The state of an
entrance whose lamp is NONE is worked out all the same and handed nowhere; DOOR_SET hands it when it names a lamp (R84).
R109 leaves that state open, and this is the model's choice (log 39). -/
def workLamp (s : State) (e : Fin 12) : State :=
  let r := entranceOf s e
  let now := lampState s.admission e
  if now = r.offered then s
  else
    let t := modifyEntrance e (fun x => { x with offered := now }) s
    match r.settings.lamp with
    | some l => handLamp (.offer l now) t
    | none => t

/-- R109: every entrance's lamp state worked out. Where several are handed after one change, they are handed in
entrance-number order, the model's choice: R109 gives no order among them (log 40). -/
def workLamps (s : State) : State := (finUpTo 12).foldl workLamp s

/-- R89, R109: REFUSE handed for an entrance's lamp. -/
def refuseLamp (e : Fin 12) (s : State) : State :=
  match (entranceOf s e).settings.lamp with
  | some l => handLamp (.refuse l) s
  | none => s

/-- R108: the hall with a party waiting at an entrance held in a foyer zone. -/
def waitingHall (u : AdmissionUnit) (f : Fin 6) : Option Hall :=
  (u.parties.find? fun q => (u.entrances.get q.entrance).settings.zone = some f).map Party.hall

/-- R108: a foyer zone's relay request compared with the copy, and handed where it differs. -/
def workRelay (s : State) (f : Fin 6) : State :=
  let h := waitingHall s.admission f
  if h = s.admission.relay.get f then s
  else
    { s with
      admission := { s.admission with relay := s.admission.relay.set f h }
      mail := { s.mail with relays := s.mail.relays ++ [⟨f, h⟩] } }

/-- R108: every foyer zone's relay request worked out. Where one change to the list alters the requests of several foyer
zones, they are handed in zone-number order, the model's choice: R108 gives no order among them (log 38). -/
def workRelays (s : State) : State := (finUpTo 6).foldl workRelay s

/-- R88: what follows each change to the list. -/
def listChanged (s : State) : State := workLamps (workRelays s)

/-- The changes of a PARTY notice (Control Ports). -/
inductive PartyChange | added | admitted | discarded | moved | full
deriving DecidableEq, Repr

def PartyChange.code : PartyChange → Nat
  | .added => 0
  | .admitted => 1
  | .discarded => 2
  | .moved => 3
  | .full => 4

/-- R88: a PARTY notice: the number (for FULL, the entrance) and the change, over both detail bytes. -/
def partyNotice (n : Nat) (change : PartyChange) (s : State) : State :=
  let d := n + 1024 * change.code
  offer kindParty (byteOf (d / 256)) (byteOf d) s

/-- The changes of a WINDOW notice (Control Ports). -/
inductive WindowChange | opened | retimed | closing | extended | closed
deriving DecidableEq, Repr

def WindowChange.code : WindowChange → Nat
  | .opened => 0
  | .retimed => 1
  | .closing => 2
  | .extended => 3
  | .closed => 4

/-- R96: a WINDOW notice. -/
def windowNotice (h : Hall) (cause : WindowCause) (change : WindowChange) (s : State) : State :=
  offer kindWindow (nameByte hallNames h) (byteOf (8 * nameCode windowCauseNames cause + change.code)) s

/-! ## Selection (R105) -/

def seats (l : List Party) : Nat := l.foldl (fun n q => n + q.size) 0

/-- The ADMITTING parties at an entrance, in list order. -/
def admittingAt (u : AdmissionUnit) (e : Fin 12) : List Party :=
  (partiesAt u e).filter fun q => q.state = .admitting

def heldAt (u : AdmissionUnit) (e : Fin 12) : List Party :=
  (partiesAt u e).filter fun q => q.state = .held

/-- R90, R105: the room at an entrance, 0 where the seats taken reach the quota. -/
def roomAt (u : AdmissionUnit) (e : Fin 12) : Nat :=
  let r := u.entrances.get e
  r.settings.quota - r.admitted - seats (admittingAt u e)

/-- R105: the walk with a room that counts. -/
def selectByRoom (e : Fin 12) : Nat → List Party → List Party
  | _, [] => []
  | room, q :: rest =>
    if q.entrance = e ∧ q.state = .held then
      if q.size ≤ room then { q with state := .admitting } :: selectByRoom e (room - q.size) rest
      else q :: rest
    else q :: selectByRoom e room rest

/-- R105: the walk in an INTERVAL window. -/
def selectAll (e : Fin 12) (l : List Party) : List Party :=
  l.map fun q => if q.entrance = e then { q with state := .admitting } else q

/-- R105: a selection pass at an entrance, without the lamps. -/
def selectAt (w : Window) (e : Fin 12) (s : State) : State :=
  setParties
    (if w.cause = .interval then selectAll e s.admission.parties
     else selectByRoom e (roomAt s.admission e) s.admission.parties) s

/-- R105: a pass at an entrance while its hall has an open window; after it the lamps are worked out. -/
def selectionPass (e : Fin 12) (s : State) : State :=
  match windowOf s (entranceOf s e).settings.hall with
  | some w => workLamps (selectAt w e s)
  | none => s

/-! ## The list (R87, R88) -/

def partyLimit : Nat := 64

def nextNumber (n : Nat) : Nat := if n = 999 then 1 else n + 1

/-- R87: the first number from the counter that no party holds. -/
def freeNumber (l : List Party) : Nat → Nat → Nat
  | 0, n => n
  | k + 1, n => if l.any fun q => q.number = n then freeNumber l k (nextNumber n) else n

/-- R86: the phases of a hall in which parties may wait. -/
def mayWait (p : Phase) : Bool := p = .playing || p = .gap || p = .onBreak || p = .interval

def viewOf (s : State) (e : Fin 12) : Phase := s.admission.view.get (entranceOf s e).settings.hall

/-- R87–R89, R91: a party added at the end of the list; its number, and the state after the pass. -/
def addParty (e : Fin 12) (size : Nat) (origin : PartyOrigin) (access : Bool) (s : State) : Nat × State :=
  let u := s.admission
  let n := freeNumber u.parties 999 u.counter
  let q : Party := ⟨n, e, (u.entrances.get e).settings.hall, size, s.clock, .held, origin, access⟩
  let t := setAdmission { u with parties := u.parties ++ [q], counter := nextNumber n } s
  (n, selectionPass e (listChanged (partyNotice n .added t)))

def findParty (s : State) (n : Nat) : Option Party := s.admission.parties.find? fun q => q.number = n

/-- R88: a party leaves the list, and every link that names it is cleared. -/
def dropParty (n : Nat) (s : State) : State :=
  setAdmission
    { s.admission with
      parties := s.admission.parties.filter fun q => q.number != n
      links := s.admission.links.map fun l => if l = some n then none else l } s

/-- R88: a party leaves as DISCARDED. -/
def discard (s : State) (q : Party) : State := listChanged (partyNotice q.number .discarded (dropParty q.number s))

def countLimit : Nat := 65535

/-- R88: a party leaves as ADMITTED, and its size is counted. -/
def seat (s : State) (q : Party) : State :=
  let t := modifyEntrance q.entrance (fun x => { x with admitted := min countLimit (x.admitted + q.size) }) (dropParty q.number s)
  let v := setAdmission { t.admission with totals := t.admission.totals.modify q.hall fun n => min countLimit (n + q.size) } t
  listChanged (partyNotice q.number .admitted v)

/-! ## Windows (R96–R101) -/

/-- R96: a deadline with its warn point, from the hall's warn time. -/
def deadlineAt (s : State) (h : Hall) (close : Clock) : Deadline :=
  ⟨close, earlierBy close (ds (hallSettingsOf s h).warnTime)⟩

/-- R96: a window with this deadline is CLOSING: its warn point is reached, and does not lie at the deadline. -/
def isClosing (now : Clock) (d : Deadline) : Bool := reached now d.warn && d.warn != d.close

/-- R96: CLOSING offered after the notice of a change, where the change made the window enter it (log 29). -/
def closingNotice (h : Hall) (before : Bool) (w : Window) (s : State) : State :=
  if w.closing && !before then windowNotice h w.cause .closing s else s

/-- R97: the entrances of a hall, in entrance-number order. -/
def entrancesOfHall (s : State) (h : Hall) : List (Fin 12) :=
  (finUpTo 12).filter fun e => (entranceOf s e).settings.hall = h

/-- R97, step 2. -/
def zeroCounts (h : Hall) (s : State) : State :=
  setAdmission
    { s.admission with
      entrances := s.admission.entrances.map fun x => if x.settings.hall = h then { x with admitted := 0 } else x } s

/-- R107: the holding zones of the hall's entrances that gained an ADMITTING party between two lists. -/
def gainedZones (before after : State) (h : Hall) : ZoneSet :=
  let gained := (entrancesOfHall after h).filter fun e => admittingAt before.admission e != admittingAt after.admission e
  zoneSetOf fun z => gained.any fun e => ((entranceOf after e).settings.zone.map foyerZone) = some z

/-- Something handed to the Call unit by the Admission unit (R98, R107). -/
def orderAdmissionCall (o : AdmissionOrder) (s : State) : State :=
  { s with mail := { s.mail with admissionToCall := s.mail.admissionToCall ++ [o] } }

/-- R107: the admission call of a window. -/
def admissionCall (h : Hall) (phrase : Nat) (targets : ZoneSet) (deadline : Clock) : Submission where
  origin := .admission
  hall := h
  priority := 4
  content := .phrases [phrase]
  mode := .duck
  targets := targets
  deadline := deadline

/-- R97, step 4; R107. -/
def submitAdmissionCall (h : Hall) (w : Window) (targets : ZoneSet) (s : State) : State :=
  match w.deadline, (hallSettingsOf s h).phrase with
  | some d, some n => if targets = 0 then s else orderAdmissionCall (.submit (admissionCall h n targets d.close)) s
  | _, _ => s

/-- R97, step 1: a window's record. -/
def newWindow (s : State) (h : Hall) (cause : WindowCause) (length : Option Nat) : Window :=
  let d := length.map fun n => deadlineAt s h (laterBy s.clock (ds n))
  ⟨cause, s.clock, d, false, d.any (isClosing s.clock)⟩

/-- R97: a window opened; the length in seconds, absent for INTERVAL. -/
def openWindow (h : Hall) (cause : WindowCause) (length : Option Nat) (s : State) : State :=
  let w := newWindow s h cause length
  let made := zeroCounts h (setWindow h (some w) s)
  let passed := (entrancesOfHall made h).foldl (fun t e => selectAt w e t) made
  let called := submitAdmissionCall h w (gainedZones made passed h) passed
  listChanged (closingNotice h false w (windowNotice h cause .opened called))

/-- R98: a window closed; with none nothing happens. -/
def closeWindow (h : Hall) (s : State) : State :=
  match windowOf s h with
  | none => s
  | some w =>
    let held := s.admission.parties.map fun q => if q.hall = h then { q with state := .held } else q
    let t := orderAdmissionCall (.cancel h) (setWindow h none (setParties held s))
    workLamps (windowNotice h w.cause .closed t)

/-- R100: a window kept as a BREAK window. -/
def retimeWindow (h : Hall) (w : Window) (s : State) : State :=
  let d := deadlineAt s h (laterBy s.clock (ds (hallSettingsOf s h).breakWindow))
  let v : Window := { w with cause := .brk, deadline := some d, closing := isClosing s.clock d }
  workLamps (closingNotice h w.closing v (windowNotice h .brk .retimed (setWindow h (some v) s)))

/-- R99: every party of a hall discarded, in list order, for R99 gives no order among them (log 34). -/
def discardHall (h : Hall) (s : State) : State :=
  (s.admission.parties.filter fun q => q.hall = h).foldl discard s

def openBreak (h : Hall) (s : State) : State := openWindow h .brk (some (hallSettingsOf s h).breakWindow) s

/-- R99: an ended admission that is not NONE. -/
def admits (ended : Option Admission) : Bool := ended.any fun a => a != .never

/-- R99: the action on a phase event. -/
def admissionAction (ev : PhaseEvent) (s : State) : State :=
  let h := ev.hall
  match ev.old, ev.new with
  | _, .dark | _, .ended => discardHall h (closeWindow h s)
  | .dark, .opened => setAdmission { s.admission with totals := s.admission.totals.set h 0 } s
  | .opened, .playing | .onBreak, .playing | .interval, .playing | .gap, .playing => closeWindow h s
  | .opened, .interval | .onBreak, .interval => openWindow h .interval none (closeWindow h s)
  | .interval, .onBreak =>
    let t := closeWindow h s
    if admits ev.endedAdmission then openBreak h t else t
  | .playing, .gap =>
    match windowOf s h with
    | some _ => s
    | none => openWindow h .gap (some (hallSettingsOf s h).gapWindow) s
  | .playing, .onBreak | .gap, .onBreak =>
    if admits ev.endedAdmission then
      match windowOf s h with
      | some w => retimeWindow h w s
      | none => openBreak h s
    else s
  | _, _ => s

/-- ADMISSION_PHASE_EVENT (R86, R99). -/
def execAdmissionPhaseEvent (s : State) : Step :=
  match s.mail.toAdmission with
  | ev :: rest =>
    let t : State := { s with mail := { s.mail with toAdmission := rest } }
    .next (admissionAction ev (setAdmission { t.admission with view := t.admission.view.set ev.hall ev.new } t))
  | [] => .next s

/-- WINDOW_WARN (R101): the warn point of an OPEN window is reached. -/
def execWindowWarn (h : Hall) (s : State) : Step :=
  match windowOf s h with
  | some w =>
    if !w.closing && w.deadline.any (isClosing s.clock) then
      .next (workLamps (windowNotice h w.cause .closing (setWindow h (some { w with closing := true }) s)))
    else .next s
  | none => .next s

/-- WINDOW_DEADLINE (R101): the deadline of a window is reached. -/
def execWindowDeadline (h : Hall) (s : State) : Step :=
  match windowOf s h with
  | some w => if w.deadline.any fun d => reached s.clock d.close then .next (closeWindow h s) else .next s
  | none => .next s

/-! ## Requests -/

def entranceAt (ps : List Byte) (i : Nat) : Option (Fin 12) := (finUpTo 12)[natAt ps i]?

/-- R84, test 3. -/
def doorDark (s : State) (e : Fin 12) (ps : List Byte) : Bool :=
  ((entranceOf s e).settings.hall :: (nameAt hallNames ps 1).toList).all fun h => s.admission.view.get h = .dark

/-- R84: the table of settings after a change. -/
def doorTable (s : State) (e : Fin 12) (v : EntranceSettings) : Table EntranceSettings 12 :=
  (s.admission.entrances.map Entrance.settings).set e v

/-- R84: OFF handed for the old lamp and the offered state for the new one. For an entrance that had no lamp the offered
state is the one worked out meanwhile (log 39). -/
def moveLamp (old new : Option (Fin 12)) (offered : EntranceLamp) (s : State) : State :=
  if old = new then s
  else
    let t := match old with
      | some l => handLamp (.offer l .off) s
      | none => s
    match new with
    | some l => handLamp (.offer l offered) t
    | none => t

/-- R84. -/
def doorSet (ps : List Byte) (s : State) : Answer :=
  match entranceAt ps 0 with
  | none => refuse .range s
  | some e =>
    if saving s then refuse .busy s
    else if !doorDark s e ps then refuse .state s
    else
      match readEntranceSettings (ps.drop 1) with
      | none => refuse .range s
      | some v =>
        let r := entranceOf s e
        if lampsDistinct (doorTable s e v.1) && foyersOneHall (doorTable s e v.1) then
          accept v.2 [] (moveLamp r.settings.lamp v.1.lamp r.offered (modifyEntrance e (fun x => { x with settings := v.1 }) s))
        else refuse .range s

def partyByte (q : PartyState) : Byte := nameByte partyStateNames q

/-- R91. -/
def partyAdd (ps : List Byte) (s : State) : Answer :=
  match entranceAt ps 0, nameAt flagNames ps 2 with
  | some e, some access =>
    if natAt ps 1 = 0 then refuse .range s
    else if access && !(entranceOf s e).settings.stepFree then refuse .range s
    else if !mayWait (viewOf s e) then refuse .state s
    else if partyLimit ≤ s.admission.parties.length then refuse .full s
    else
      let size := clampNat 1 8 (natAt ps 1)
      let a := addParty e size.1 .port access s
      let state := match findParty a.2 a.1 with
        | some q => q.state
        | none => .held
      accept size.2 (bytes2 a.1 ++ [partyByte state]) a.2
  | _, _ => refuse .range s

/-- R93. -/
def partyRemove (ps : List Byte) (s : State) : Answer :=
  match findParty s (wordAt ps 0) with
  | none => refuse .notFound s
  | some q =>
    let t := discard s q
    accept false [] (if q.state = .admitting then selectionPass q.entrance t else t)

/-- R94. -/
def partyMove (ps : List Byte) (s : State) : Answer :=
  match findParty s (wordAt ps 0) with
  | none => refuse .notFound s
  | some q =>
    match entranceAt ps 2 with
    | none => refuse .range s
    | some e =>
      let r := entranceOf s e
      if r.settings.hall ≠ q.hall then refuse .range s
      else if q.access && !r.settings.stepFree then refuse .range s
      else if q.state = .admitting then refuse .state s
      else if (windowOf s q.hall).isSome then refuse .state s
      else if e = q.entrance then accept false [] s
      else
        let moved := s.admission.parties.map fun x => if x.number = q.number then { x with entrance := e } else x
        accept false [] (listChanged (partyNotice q.number .moved (setParties moved s)))

/-- R95, Control Ports: the eight bytes of a party. -/
def partyBytes (q : Party) : List Byte :=
  bytes2 (q.number + 1024 * q.entrance.val) ++
    [byteOf q.size,
     byteOf (nameCode hallNames q.hall + 2 * nameCode partyStateNames q.state + 4 * nameCode partyOriginNames q.origin +
       8 * nameCode flagNames q.access)] ++ bytes4 q.arrived.toNat

/-- R95. -/
def partyList (ps : List Byte) (s : State) : Answer :=
  let first := natAt ps 0
  let l := s.admission.parties
  if 63 < first then refuse .range s
  else
    accept false
      ([byteOf l.length, byteOf first, flagByte (decide (first + 7 < l.length))] ++ ((l.drop first).take 7).flatMap partyBytes) s

/-- R102, R103: the opened time and the deadline in a reply. -/
def windowTimes (w : Window) : List Byte := bytes4 w.opened.toNat ++ clockBytes (w.deadline.map Deadline.close)

/-- R102. -/
def admitNow (ps : List Byte) (s : State) : Answer :=
  match nameAt hallNames ps 0 with
  | none => refuse .range s
  | some h =>
    let phase := s.admission.view.get h
    if (windowOf s h).isSome || !(phase = .playing || phase = .gap || phase = .onBreak) then refuse .state s
    else
      let n := clampNat 10 300 (wordAt ps 1)
      accept n.2 (windowTimes (newWindow s h .manual (some n.1))) (openWindow h .manual (some n.1) s)

/-- R103: a window's deadline moved later. -/
def extendedWindow (s : State) (h : Hall) (w : Window) (d : Deadline) (seconds : Nat) : Window :=
  let e := deadlineAt s h (laterBy d.close (ds seconds))
  { w with deadline := some e, extended := true, closing := isClosing s.clock e }

/-- R103. A window of a cause other than INTERVAL has a deadline. -/
def admitExtend (ps : List Byte) (s : State) : Answer :=
  match nameAt hallNames ps 0 with
  | none => refuse .range s
  | some h =>
    match windowOf s h with
    | none => refuse .state s
    | some w =>
      match w.deadline with
      | none => refuse .state s
      | some d =>
        if w.cause = .interval ∨ w.extended then refuse .state s
        else
          let n := clampNat 15 60 (natAt ps 1)
          let v := extendedWindow s h w d n.1
          accept n.2 (windowTimes v)
            (workLamps (closingNotice h w.closing v (windowNotice h w.cause .extended (setWindow h (some v) s))))

/-- R104. -/
def admitClose (ps : List Byte) (s : State) : Answer :=
  match nameAt hallNames ps 0 with
  | none => refuse .range s
  | some h => if (windowOf s h).isSome then accept false [] (closeWindow h s) else refuse .state s

/-- R110. -/
def usherClear (ps : List Byte) (s : State) : Answer :=
  match entranceAt ps 0 with
  | none => refuse .range s
  | some e => accept false [] (workLamps (modifyEntrance e (fun x => { x with usherPending := false, usherUrgent := false }) s))

/-- DOOR_SET. -/
def execDoorSet (p : Port) (s : State) : Step := takeRequest 0x30 p s doorSet

/-- PARTY_ADD. -/
def execPartyAdd (p : Port) (s : State) : Step := takeRequest 0x31 p s partyAdd

/-- PARTY_REMOVE. -/
def execPartyRemove (p : Port) (s : State) : Step := takeRequest 0x32 p s partyRemove

/-- PARTY_MOVE. -/
def execPartyMove (p : Port) (s : State) : Step := takeRequest 0x33 p s partyMove

/-- PARTY_LIST. -/
def execPartyList (p : Port) (s : State) : Step := takeRequest 0x34 p s partyList

/-- ADMIT_NOW. -/
def execAdmitNow (p : Port) (s : State) : Step := takeRequest 0x35 p s admitNow

/-- ADMIT_EXTEND. -/
def execAdmitExtend (p : Port) (s : State) : Step := takeRequest 0x36 p s admitExtend

/-- ADMIT_CLOSE. -/
def execAdmitClose (p : Port) (s : State) : Step := takeRequest 0x37 p s admitClose

/-- USHER_CLEAR. -/
def execUsherClear (p : Port) (s : State) : Step := takeRequest 0x38 p s usherClear

/-! ## Key events (R85, R89, R90, R92, R106, R110) -/

/-- The oldest entrance key event not yet taken, where its role and kind are those that a command names: its position
and its entrance, and the state without it. -/
def takeEntranceKey (event : KeyEvent) (role : Fin 12 → Role) (s : State) : Option (Fin 64 × Fin 12 × State) :=
  match s.mail.entranceKeys with
  | k :: rest =>
    match (finUpTo 12).find? fun e => k.role = role e with
    | some e => if k.event = event then some (k.position, e, { s with mail := { s.mail with entranceKeys := rest } }) else none
    | none => none
  | [] => none

def setLink (k : Fin 64) (n : Option Nat) (s : State) : State :=
  setAdmission { s.admission with links := s.admission.links.set k n } s

/-- R89, R90: a press of an ADD key. -/
def addKeyPress (k : Fin 64) (e : Fin 12) (s : State) : State :=
  let t := setLink k none s
  if !mayWait (viewOf t e) then refuseLamp e t
  else if partyLimit ≤ t.admission.parties.length then partyNotice e.val .full (refuseLamp e t)
  else
    let a := addParty e 1 .key false t
    setLink k (some a.1) a.2

/-- R90, test 3: the room for a seat more. -/
def mayGrow (s : State) (q : Party) : Bool :=
  q.state = .held ||
    (match windowOf s q.hall with
     | some w => w.cause = .interval || decide (1 ≤ roomAt s.admission q.entrance)
     | none => false)

/-- R90: a repeat of an ADD key. -/
def addKeyRepeat (k : Fin 64) (e : Fin 12) (s : State) : State :=
  match (s.admission.links.get k).bind (findParty s) with
  | none => refuseLamp e s
  | some q =>
    if 8 ≤ q.size then refuseLamp e s
    else if !mayGrow s q then refuseLamp e s
    else setParties (s.admission.parties.map fun x => if x.number = q.number then { x with size := x.size + 1 } else x) s

/-- R92: a press of a REMOVE key. -/
def removeKeyPress (e : Fin 12) (s : State) : State :=
  match (heldAt s.admission e).getLast? with
  | some q => discard s q
  | none => refuseLamp e s

/-- R106: a press of a DONE key. -/
def doneKeyPress (e : Fin 12) (s : State) : State :=
  match admittingAt s.admission e with
  | [] => selectionPass e (refuseLamp e s)
  | l => selectionPass e (l.foldl seat s)

/-- R110: an USHER notice after the flags are set. -/
def usherCall (e : Fin 12) (long : Bool) (s : State) : State :=
  let t := modifyEntrance e (fun x => { x with usherPending := true, usherUrgent := x.usherUrgent || long }) s
  workLamps (offer kindUsher (byteOf e.val) (flagByte (entranceOf t e).usherUrgent) t)

/-- ADD_KEY_PRESS (R89, R90). -/
def execAddKeyPress (s : State) : Step :=
  match takeEntranceKey .press Role.add s with
  | some k => .next (addKeyPress k.1 k.2.1 k.2.2)
  | none => .next s

/-- ADD_KEY_REPEAT (R90). -/
def execAddKeyRepeat (s : State) : Step :=
  match takeEntranceKey .again Role.add s with
  | some k => .next (addKeyRepeat k.1 k.2.1 k.2.2)
  | none => .next s

/-- REMOVE_KEY_PRESS (R92). -/
def execRemoveKeyPress (s : State) : Step :=
  match takeEntranceKey .press Role.remove s with
  | some k => .next (removeKeyPress k.2.1 k.2.2)
  | none => .next s

/-- REMOVE_KEY_LONG (R92): the HELD parties are discarded in list order (log 34). -/
def execRemoveKeyLong (s : State) : Step :=
  match takeEntranceKey .long Role.remove s with
  | some k => .next ((heldAt k.2.2.admission k.2.1).foldl discard k.2.2)
  | none => .next s

/-- DONE_KEY_PRESS (R106). -/
def execDoneKeyPress (s : State) : Step :=
  match takeEntranceKey .press Role.done s with
  | some k => .next (doneKeyPress k.2.1 k.2.2)
  | none => .next s

/-- USHER_KEY_PRESS (R110). -/
def execUsherKeyPress (s : State) : Step :=
  match takeEntranceKey .press Role.usher s with
  | some k => .next (usherCall k.2.1 false k.2.2)
  | none => .next s

/-- USHER_KEY_LONG (R110). -/
def execUsherKeyLong (s : State) : Step :=
  match takeEntranceKey .long Role.usher s with
  | some k => .next (usherCall k.2.1 true k.2.2)
  | none => .next s

end Sys2Proof.Machine
end

