-- ==== Sys2Proof/Machine/Players.lean ====
section
/-! DEFINITION. The phrase players and the chime generator: how each begins, advances, holds and resumes
(spec/03, R49–R51; spec/07, R143–R145). -/

namespace Sys2Proof.Machine

/-- R49: the blocks a phrase of so many clip samples occupies; a phrase of none occupies one. -/
def phraseBlocks (length : Nat) : Nat := max 1 ((length + 15) / 16)

/-- The clip of a phrase number. The rules keep it present while a PHRASES call stands in the queue (R134, R174);
were it absent it would be a phrase of no samples. -/
def clipOf (dir : Table (Option Clip) 128) (n : Nat) : Clip := (phraseEntry dir n).getD ⟨0, 0, 0⟩

/-- R144: a player that begins a call's list. -/
def Player.begin (dir : Table (Option Clip) 128) (id : Nat) (list : List Nat) : Player :=
  ⟨id, false, 0, 0, clipOf dir (list.getD 0 0), .phrase 0⟩

/-- R144: what follows a phrase's end: the next phrase, the silence before a repeat, or nothing (content ended). -/
def Player.afterPhrase (dir : Table (Option Clip) 128) (list : List Nat) (repeats : Nat) (p : Player) : Option Player :=
  if p.index + 1 < list.length then
    some { p with index := p.index + 1, clip := clipOf dir (list.getD (p.index + 1) 0), stage := .phrase 0 }
  else if p.pass + 1 < repeats then some { p with pass := p.pass + 1, stage := .silence 0 }
  else none

/-- R144: the list starts again after the silence. -/
def Player.afterSilence (dir : Table (Option Clip) 128) (list : List Nat) (p : Player) : Player :=
  { p with index := 0, clip := clipOf dir (list.getD 0 0), stage := .phrase 0 }

/-- A silence that is over. -/
def silenceOver (p : Player) : Bool :=
  match p.stage with
  | .silence k => decide (silenceLength ≤ k)
  | _ => false

/-- R49: the player after a block. -/
def Player.advance (p : Player) : Player :=
  if p.held then p
  else match p.stage with
    | .phrase k => { p with stage := if k + 1 < phraseBlocks p.clip.length then .phrase (k + 1) else .ended }
    | .silence k => { p with stage := .silence (min silenceLength (k + 1)) }
    | .ended => p

/-- R143: a held player gives 0 and keeps its place. -/
def Player.hold (p : Player) : Player := { p with held := true }

/-- R143: on resumption the phrase or the silence it was on starts from its beginning; an item that is complete
stays so (log 16). -/
def Player.resume (p : Player) : Player :=
  { p with
    held := false
    stage := match p.stage with
      | .phrase _ => .phrase 0
      | .silence k => if silenceLength ≤ k then .silence k else .silence 0
      | .ended => .ended }

/-- R49: the 24-bit samples a player gives in a block. -/
def Player.samples (m : Flash) (p : Player) : List Int :=
  match p.held, p.stage with
  | false, .phrase k =>
    (List.range 16).flatMap fun i =>
      let n := 16 * k + i
      let x := if n < p.clip.length then clipSample m (p.clip.start + 2 * n) * 256 else 0
      [x, x, x]
  | _, _ => List.replicate 48 0

/-! ## The chime generator -/

/-- R50: a generator that begins a call. -/
def ChimeGenerator.begin (id : Nat) (pattern : Fin 8) (strikes : Nat) : ChimeGenerator :=
  ⟨id, false, pattern, strikes, 0, 0, 0, 0⟩

/-- R50, R51: the note being played; none in the silence after the last. -/
def ChimeGenerator.current (c : ChimeGenerator) : Option Note := (chimeNotes c.pattern)[c.note]?

def noteOver (c : ChimeGenerator) : Bool :=
  match c.current with
  | some n => decide (n.blocks ≤ c.noteBlocks)
  | none => false

def strikeOver (c : ChimeGenerator) : Bool := decide (strikeLength ≤ c.strikeBlocks)

/-- R50: the next note of the strike. -/
def ChimeGenerator.nextNote (c : ChimeGenerator) : ChimeGenerator := { c with note := c.note + 1, noteBlocks := 0 }

/-- R50: a strike from its first note. -/
def ChimeGenerator.restart (c : ChimeGenerator) : ChimeGenerator := { c with note := 0, noteBlocks := 0, strikeBlocks := 0 }

/-- R145: what follows a strike's end: the next strike, or nothing (content ended). -/
def ChimeGenerator.afterStrike (c : ChimeGenerator) : Option ChimeGenerator :=
  if c.done + 1 < c.strikes then some { c.restart with done := c.done + 1 } else none

/-- The generator after a block: a strike that is over waits for its end to be taken. -/
def ChimeGenerator.advance (c : ChimeGenerator) : ChimeGenerator :=
  if c.held || strikeOver c then c
  else { c with noteBlocks := c.noteBlocks + 1, strikeBlocks := c.strikeBlocks + 1 }

def ChimeGenerator.hold (c : ChimeGenerator) : ChimeGenerator := { c with held := true }

/-- R143: the current strike restarts; one that is over stays so (log 16). -/
def ChimeGenerator.resume (c : ChimeGenerator) : ChimeGenerator :=
  if strikeOver c then { c with held := false } else { c.restart with held := false }

/-- R50: sample j of a note of half-period h. -/
def noteSample (h j : Nat) : Int :=
  let a : Int := (2 * coefficient (-(j / 960 : Nat)) : Nat)
  if j / h % 2 = 0 then a else -a

/-- R50: the samples the generator gives in a block. -/
def ChimeGenerator.samples (c : ChimeGenerator) : List Int :=
  match c.held || strikeOver c, c.current with
  | false, some n => (List.range 48).map fun i => noteSample n.half (48 * c.noteBlocks + i)
  | _, _ => List.replicate 48 0

end Sys2Proof.Machine
end

