-- ==== Sys2Proof/Machine/Zones.lean ====
section
/-! DEFINITION. The Zone unit: the choice of bases, the overlay stacks with their pushes, removals and reports,
hushing, loop protection, and the meanings of its requests and events (spec/02, R29–R44; spec/04, R76–R80). -/

namespace Sys2Proof.Machine

def zoneByte (z : ZoneNo) : Byte := byteOf z.val

def setZoneUnit (u : ZoneUnit) (s : State) : State := { s with zoneUnit := u }

/-! ## The base (R33–R36) -/

/-- The feed of a hall as a base, with its gain. -/
def hallBase : Hall → BaseSource × Int
  | .a => (.hallA, 0)
  | .b => (.hallB, 0)

def silentBase : BaseSource × Int := (.silence, -121)

/-- R33: the base of a loop zone. -/
def loopBase (view : PerHall Phase) (l : LoopSettings) : BaseSource × Int :=
  if view.get l.hall = .dark then silentBase else hallBase l.hall

/-- R34: the serving channel of a description zone. -/
def servingChannel (view : PerHall Phase) (channels : Table Channel 4) (d : Fin 4) : Option (Fin 4) :=
  (finUpTo 4).find? fun c =>
    (channels.get c).settings.zone = d && view.get (channels.get c).settings.hall != .dark

/-- R34: the base of a description zone. -/
def descBase (view : PerHall Phase) (channels : Table Channel 4) (d : Fin 4) : BaseSource × Int :=
  match servingChannel view channels d with
  | some c => hallBase (channels.get c).settings.hall
  | none => silentBase

/-- R35: the base of a foyer zone. -/
def foyerBase (f : FoyerRecord) : BaseSource × Int :=
  match f.relay with
  | some .a => (.relayA, f.settings.relayGain)
  | some .b => (.relayB, f.settings.relayGain)
  | none => idleBase f.settings

def ZoneRecord.withBase (b : BaseSource × Int) (z : ZoneRecord) : ZoneRecord :=
  { z with baseSource := b.1, baseGain := b.2 }

def ZoneUnit.modifyZone (u : ZoneUnit) (z : ZoneNo) (f : ZoneRecord → ZoneRecord) : ZoneUnit :=
  { u with zones := u.zones.modify z f }

def ZoneUnit.modifyLoop (u : ZoneUnit) (l : Fin 8) (f : LoopRecord → LoopRecord) : ZoneUnit :=
  { u with loops := u.loops.modify l f }

/-- R34: the bases of some description zones chosen again. -/
def ZoneUnit.chooseDesc (u : ZoneUnit) (channels : Table Channel 4) (which : Fin 4 → Bool) : ZoneUnit :=
  { u with zones := u.zones.mapIdx fun z r =>
      match zoneKind z with
      | .desc d => if which d then r.withBase (descBase u.view channels d) else r
      | _ => r }

/-! ## Phase events (R42, R44) -/

/-- R33: the loop zones of a hall take the base of its view. -/
def ZoneUnit.chooseLoops (u : ZoneUnit) (h : Hall) : ZoneUnit :=
  { u with zones := u.zones.mapIdx fun z r =>
      match zoneKind z with
      | .loop l =>
        let settings := (u.loops.get l).settings
        if settings.hall = h then r.withBase (loopBase u.view settings) else r
      | _ => r }

/-- R42: every hushed flag set again from the views. -/
def ZoneUnit.hush (u : ZoneUnit) : ZoneUnit :=
  { u with
    loops := u.loops.map fun l => { l with hushed := loopHush u.view l.settings }
    foyers := u.foyers.map fun f => { f with hushed := foyerHush u.view f.settings } }

/-- R42: the zones whose flags differ between two states of the unit, with their new values. -/
def hushChanges (before after : ZoneUnit) : List (ZoneNo × Bool) :=
  ((finUpTo 18).filter fun z => hushedFlag before z != hushedFlag after z).map fun z => (z, hushedFlag after z)

/-- R44: the Zone unit's whole part for a phase event. -/
def ZoneUnit.takePhase (ev : PhaseEvent) (channels : Table Channel 4) (u : ZoneUnit) : ZoneUnit :=
  let v : ZoneUnit := { u with view := u.view.set ev.hall ev.new }
  let based := if ev.old = .dark ∨ ev.new = .dark then (v.chooseLoops ev.hall).chooseDesc channels fun _ => true else v
  based.hush

/-- R42: a hush change handed to the Call unit, when some flag changed. -/
def handHush (flags : List (ZoneNo × Bool)) (s : State) : State :=
  if flags = [] then s
  else { s with mail := { s.mail with zoneToCall := s.mail.zoneToCall ++ [.hush flags] } }

/-- ZONE_PHASE_EVENT (R33, R34, R42, R44). -/
def execZonePhaseEvent (s : State) : Step :=
  match s.mail.toZone with
  | [] => .next s
  | ev :: rest =>
    let u := s.zoneUnit.takePhase ev s.description.channels
    let t : State := { s with zoneUnit := u, mail := { s.mail with toZone := rest } }
    .next (handHush (hushChanges s.zoneUnit u) t)

/-- RELAY_REQUEST (R35): relay-on replaces the request; relay-off with none held changes nothing. -/
def execRelayRequest (s : State) : Step :=
  match s.mail.relays with
  | [] => .next s
  | r :: rest =>
    let u := s.zoneUnit
    let f := { u.foyers.get r.zone with relay := r.hall }
    let v := ({ u with foyers := u.foyers.set r.zone f } : ZoneUnit).modifyZone (foyerZone r.zone) (·.withBase (foyerBase f))
    .next { s with zoneUnit := v, mail := { s.mail with relays := rest } }

/-- CHANNEL_CHANGE_REPORT (R34, R159): the bases of the old and new zones are chosen again. -/
def execChannelChangeReport (s : State) : Step :=
  match s.mail.channelChanges with
  | [] => .next s
  | c :: rest =>
    let u := s.zoneUnit.chooseDesc s.description.channels fun d => d = c.oldZone || d = c.newZone
    .next { s with zoneUnit := u, mail := { s.mail with channelChanges := rest } }

/-! ## The overlay stacks (R37–R41) -/

/-- The top entry of a zone's stack (R38). -/
def ZoneRecord.top (z : ZoneRecord) : Option Overlay := z.stack.head?

/-- R37: the entry a push makes on a zone: a call's push has the zone's call duck depth. -/
def entryFor (q : PushRequest) (z : ZoneRecord) : Overlay where
  source := q.source
  mode := match q.mode with
    | .duck => .duck (q.depth.getD z.settings.duckDepth)
    | .replace => .replace
  priority := q.priority
  owner := q.owner

/-- R38: the first of the four tests that a zone fails. -/
def pushTest (u : ZoneUnit) (q : PushRequest) (z : ZoneNo) : Option PushFailure :=
  let stack := (u.zones.get z).stack
  if 3 ≤ stack.length then some .full
  else if stack.head?.any fun t => decide (q.priority ≤ t.priority) then some .priority
  else if stack.any fun e => e.owner = q.owner then some .owner
  else if hushedFor u z q.priority q.exempt then some .hushed
  else none

/-- R38: the failing zones of a push. -/
def pushFailures (u : ZoneUnit) (q : PushRequest) : List (ZoneNo × PushFailure) :=
  (zonesOf q.targets).filterMap fun z => (pushTest u q z).map fun f => (z, f)

/-- R38: the entry on top of every target stack. -/
def ZoneUnit.place (u : ZoneUnit) (q : PushRequest) : ZoneUnit :=
  { u with zones := u.zones.mapIdx fun z r =>
      if zoneIn z q.targets then { r with stack := entryFor q r :: r.stack } else r }

/-- R39: the entries of an owner taken out of the named stacks. -/
def ZoneUnit.takeOut (u : ZoneUnit) (owner : Owner) (zones : ZoneSet) : ZoneUnit :=
  { u with zones := u.zones.mapIdx fun z r =>
      if zoneIn z zones then { r with stack := r.stack.filter fun e => e.owner != owner } else r }

/-- An owner holds an entry on a zone. -/
def holdsOn (u : ZoneUnit) (owner : Owner) (z : ZoneNo) : Bool :=
  (u.zones.get z).stack.any fun e => e.owner = owner

/-- R41: the zones where an owner's entry is the top entry. -/
def coverage (u : ZoneUnit) (owner : Owner) : ZoneSet :=
  zoneSetOf fun z => (u.zones.get z).top.any fun e => e.owner = owner

/-- R41: the owners that hold an entry in some zones, each once, in the model's order (log 41). -/
def ownersOn (u : ZoneUnit) (zones : ZoneSet) : List Owner :=
  ((zonesOf zones).flatMap fun z => (u.zones.get z).stack.reverse.map Overlay.owner).eraseDups

/-- R41: the report of a change to some stacks. -/
def stackReport (u : ZoneUnit) (zones : ZoneSet) : StackReport :=
  ⟨zones, (ownersOn u zones).map fun o => (o, coverage u o)⟩

def handReport (zones : ZoneSet) (s : State) : State :=
  let r := stackReport s.zoneUnit zones
  { s with mail := { s.mail with
      zoneToCall := s.mail.zoneToCall ++ [.report r]
      zoneToDescription := s.mail.zoneToDescription ++ [r] } }

/-- R38: a push taken: its answer, and the state it leaves. -/
def push (q : PushRequest) (s : State) : Bool × State :=
  let failing := pushFailures s.zoneUnit q
  if failing = [] then
    (true, handReport q.targets (setZoneUnit { s.zoneUnit.place q with pushAnswer := some .accepted } s))
  else (false, setZoneUnit { s.zoneUnit with pushAnswer := some (.refused failing) } s)

/-- R39: the named zones where the owner holds an entry. -/
def removedZones (u : ZoneUnit) (owner : Owner) (zones : ZoneSet) : ZoneSet :=
  zoneSetOf fun z => zoneIn z zones && holdsOn u owner z

/-- R39: a removal taken, and the state it leaves. -/
def remove (owner : Owner) (zones : ZoneSet) (s : State) : State :=
  let changed := removedZones s.zoneUnit owner zones
  if changed = 0 then setZoneUnit { s.zoneUnit with removalAnswer := some .notPresent } s
  else handReport changed (setZoneUnit { s.zoneUnit.takeOut owner zones with removalAnswer := some .removed } s)

/-! ## Loop protection (R76–R80) -/

/-- R76: the fold-back one step deeper, with its LOOP_FAULT code; at the deepest the loop shuts. -/
def FoldBack.deeper : FoldBack → Option (FoldBack × Byte)
  | .none => some (.by12, 0)
  | .by12 => some (.by24, 1)
  | .by24 => some (.by36, 2)
  | .by36 => Option.none

/-- R77: the fold-back one step shallower. -/
def FoldBack.shallower : FoldBack → FoldBack
  | .none => .none
  | .by12 => .none
  | .by24 => .by12
  | .by36 => .by24

/-- The oldest event of a loop that is not yet taken. -/
def takeLoopEvent (l : Fin 8) (rest : List LoopEvent) (s : State) : State :=
  { s with mail := { s.mail with loopEvents := s.mail.loopEvents.set l rest } }

def setLoop (l : Fin 8) (r : LoopRecord) (s : State) : State :=
  setZoneUnit { s.zoneUnit with loops := s.zoneUnit.loops.set l r } s

def loopFault (l : Fin 8) (code : Byte) (s : State) : State := offer kindLoopFault (zoneByte (loopZone l)) code s

/-- R76: a loop takes an over-current event. -/
def overCurrent (l : Fin 8) (s : State) : State :=
  let r := s.zoneUnit.loops.get l
  if r.shut then s
  else match r.foldBack.deeper with
    | some d => loopFault l d.2 (setLoop l { r with foldBack := d.1, recovery := 0 } s)
    | none => loopFault l 3 (setLoop l { r with shut := true, recovery := 0 } s)

/-- OVER_CURRENT_EVENT (R76). -/
def execOverCurrentEvent (l : Fin 8) (s : State) : Step :=
  match s.mail.loopEvents.get l with
  | .overCurrent :: rest => .next (overCurrent l (takeLoopEvent l rest s))
  | _ => .next s

/-- R77: the periods of a recovery. -/
def recoveryLength : Nat := 1000

/-- R77: the recovery step of a loop whose count has reached its end. -/
def LoopRecord.recover (r : LoopRecord) : LoopRecord :=
  if recoveryLength ≤ r.recovery then { r with foldBack := r.foldBack.shallower, recovery := 0 } else r

/-- FOLD_BACK_RECOVERY (R77). -/
def execFoldBackRecovery (l : Fin 8) (s : State) : Step := .next (setLoop l (s.zoneUnit.loops.get l).recover s)

/-- R78, R79: the open flag of a loop changes, with its notice; where it has the value already nothing happens, nor on a
SHUT loop, whose flag keeps the value it had when the loop shut. -/
def setOpen (l : Fin 8) (flag : Bool) (code : Byte) (s : State) : State :=
  let r := s.zoneUnit.loops.get l
  if r.shut || r.openFlag = flag then s else loopFault l code (setLoop l { r with openFlag := flag } s)

/-- OPEN_LOOP_BEGIN (R78, R79). -/
def execOpenLoopBegin (l : Fin 8) (s : State) : Step :=
  match s.mail.loopEvents.get l with
  | .openBegin :: rest => .next (setOpen l true 4 (takeLoopEvent l rest s))
  | _ => .next s

/-- OPEN_LOOP_END (R78, R79). -/
def execOpenLoopEnd (l : Fin 8) (s : State) : Step :=
  match s.mail.loopEvents.get l with
  | .openEnd :: rest => .next (setOpen l false 5 (takeLoopEvent l rest s))
  | _ => .next s

/-- R80. -/
def loopReset (ps : List Byte) (s : State) : Answer :=
  match (finUpTo 8)[natAt ps 0]? with
  | none => refuse .range s
  | some l => accept false [] (setLoop l { s.zoneUnit.loops.get l with shut := false, foldBack := .none, recovery := 0 } s)

/-- LOOP_RESET. -/
def execLoopReset (p : Port) (s : State) : Step := takeRequest 0x2A p s loopReset

/-! ## Zone settings and status (R30–R32) -/

/-- R30: the halls a zone serves, with the hall or quiet hall that its own record gives. -/
def servedHalls (s : State) (z : ZoneNo) (own : Option Hall) : List Hall :=
  match zoneKind z with
  | .loop _ => own.toList
  | .desc d => (s.description.channels.toList.filter fun c => c.settings.zone = d).map fun c => c.settings.hall
  | .foyer f =>
    (s.admission.entrances.toList.filter fun e => e.settings.zone = some f).map (fun e => e.settings.hall) ++ own.toList

/-- The hall or quiet hall a zone's record holds. -/
def ownHall (u : ZoneUnit) (z : ZoneNo) : Option Hall :=
  match zoneKind z with
  | .loop l => some (u.loops.get l).settings.hall
  | .desc _ => none
  | .foyer f => (u.foyers.get f).settings.quietHall

/-- The hall or quiet hall that a ZONE_SET assigns, where it is one. -/
def newHall (z : ZoneNo) (ps : List Byte) : Option Hall :=
  match zoneKind z with
  | .loop _ => nameAt hallNames ps 0
  | .desc _ => none
  | .foyer _ => nameAt hallNames ps 8

/-- R30, R31, test 3: every hall served before and after the change is DARK in the unit's view. -/
def servedDark (s : State) (z : ZoneNo) (ps : List Byte) : Bool :=
  (servedHalls s z (ownHall s.zoneUnit z) ++ servedHalls s z (newHall z ps)).all fun h =>
    s.zoneUnit.view.get h = .dark

/-- R31: the settings written that apply to the zone's kind, and whether one was clamped. -/
def writeSettings (z : ZoneNo) (ps : List Byte) (u : ZoneUnit) : Option (ZoneUnit × Bool) :=
  let common := readZoneCommon ps
  let v := u.modifyZone z fun r => { r with settings := common.1 }
  match zoneKind z with
  | .loop l => (readLoopSettings ps).map fun x => (v.modifyLoop l fun r => { r with settings := x.1 }, common.2 || x.2)
  | .desc _ => some (v, common.2)
  | .foyer f => (readFoyerSettings ps).map fun x =>
    let r := { v.foyers.get f with settings := x.1 }
    (({ v with foyers := v.foyers.set f r } : ZoneUnit).modifyZone z (·.withBase (foyerBase r)), common.2 || x.2)

/-- R31. -/
def zoneSet (ps : List Byte) (s : State) : Answer :=
  match (finUpTo 18)[natAt ps 0]? with
  | none => refuse .range s
  | some z =>
    if saving s then refuse .busy s
    else if !servedDark s z (ps.drop 1) || (s.zoneUnit.zones.get z).stack != [] then refuse .state s
    else
      match writeSettings z (ps.drop 1) s.zoneUnit with
      | some w => accept w.2 [] (setZoneUnit w.1 s)
      | none => refuse .range s

/-- R56: the background target of a base gain under a top entry. -/
def backgroundTarget (gain : Int) : Option Overlay → Int
  | none => gain
  | some o =>
    match o.mode with
    | .replace => -121
    | .duck q => if gain = -121 ∨ gain + q < -120 then -121 else gain + q

def ZoneRecord.goal (z : ZoneRecord) : Int := backgroundTarget z.baseGain z.top

/-- R32, Control Ports: the six bytes of an entry. -/
def overlayBytes (o : Overlay) : List Byte :=
  let mode : List Byte := match o.mode with
    | .duck q => [0, stepByte q]
    | .replace => [1, 0x80]
  let owner : List Byte := match o.owner with
    | .call id => [0, byteOf id]
    | .channel c => [1, byteOf c.val]
  [nameByte sourceNames o.source] ++ mode ++ [byteOf o.priority] ++ owner

/-- R32: what a status says of the fields that only one kind holds: hall, quiet hall; fold-back, loop state, open
flag, hushed flag. A field that does not apply is FFH. -/
def kindBytes (u : ZoneUnit) (z : ZoneNo) : List Byte × List Byte :=
  match zoneKind z with
  | .loop l =>
    let r := u.loops.get l
    ([0, hallCode r.settings.hall, 0xFF], [stepByte r.foldBack.steps, flagByte r.shut, flagByte r.openFlag, flagByte r.hushed])
  | .desc _ => ([1, 0xFF, 0xFF], [0xFF, 0xFF, 0xFF, 0xFF])
  | .foyer f =>
    let r := u.foyers.get f
    ([2, 0xFF, optByte (nameCode hallNames) r.settings.quietHall], [0xFF, 0xFF, 0xFF, flagByte r.hushed])
where
  hallCode (h : Hall) : Byte := nameByte hallNames h

/-- R32. The target is the one the zone holds, worked out at the start of the block last mixed (R56; log 32). A loop's
recovery count, which R82 says is reported here, has no place in the layout and is left out (log 36). -/
def zoneStatus (ps : List Byte) (s : State) : Answer :=
  match (finUpTo 18)[natAt ps 0]? with
  | none => refuse .range s
  | some z =>
    let r := s.zoneUnit.zones.get z
    let k := kindBytes s.zoneUnit z
    accept false
      ([zoneByte z] ++ k.1 ++
        [nameByte baseSourceNames r.baseSource, stepByte r.baseGain, stepByte r.target, stepByte r.bgStep, stepByte r.settings.trim] ++
        k.2 ++ clockBytes r.lastClip ++ [byteOf r.stack.length] ++ r.stack.reverse.flatMap overlayBytes) s

/-- ZONE_SET. -/
def execZoneSet (p : Port) (s : State) : Step := takeRequest 0x20 p s zoneSet

/-- ZONE_STATUS. -/
def execZoneStatus (p : Port) (s : State) : Step := takeRequest 0x21 p s zoneStatus

end Sys2Proof.Machine
end

