-- ==== Sys2Proof/Machine/Calls.lean ====
section
/-! DEFINITION. The Call unit: the queue, scheduling passes, starting and ending calls, and the meanings of its
requests and events (spec/07, R129–R154). -/

namespace Sys2Proof.Machine

def setCalls (u : CallUnit) (s : State) : State := { s with call := u }

def queueLimit : Nat := 16

def isQueued (c : Call) : Bool := c.state = .queued

def findCall (s : State) (id : Nat) : Option Call := s.call.queue.find? fun c => c.id = id

/-- A call's record replaced; calls have distinct ids (R130). -/
def CallUnit.update (u : CallUnit) (id : Nat) (f : Call → Call) : CallUnit :=
  { u with queue := u.queue.map fun c => if c.id = id then f c else c }

/-! ## Resources (R139, R141) -/

/-- The lowest-numbered free phrase player. -/
def freePlayer (u : CallUnit) : Option (Fin 3) := (finUpTo 3).find? fun n => (u.players.get n).isNone

/-- R139, test 3: the free resource that a content needs. -/
def freeResource (u : CallUnit) : Content → Option Source
  | .phrases _ => (freePlayer u).map .player
  | .chime _ _ => if u.chime.isNone then some .chime else none
  | .live mic => if (u.mics.get mic).isNone then some (.mic mic) else none

/-- R140: a call takes its resource, which begins its content. -/
def takeResource (dir : Table (Option Clip) 128) (c : Call) (r : Source) (u : CallUnit) : CallUnit :=
  match r, c.content with
  | .player n, .phrases list => { u with players := u.players.set n (some (.begin dir c.id list)) }
  | .chime, .chime pattern strikes => { u with chime := some (.begin c.id pattern strikes) }
  | .mic n, .live _ => { u with mics := u.mics.set n (some c.id) }
  | _, _ => u

/-- R147, step 2. -/
def freeUp (r : Source) (u : CallUnit) : CallUnit :=
  match r with
  | .player n => { u with players := u.players.set n none }
  | .chime => { u with chime := none }
  | .mic n => { u with mics := u.mics.set n none }
  | .desc _ => u

/-- R143: a resource told to hold, or to resume. -/
def holdResource (r : Source) (u : CallUnit) : CallUnit :=
  match r with
  | .player n => { u with players := u.players.modify n (·.map Player.hold) }
  | .chime => { u with chime := u.chime.map ChimeGenerator.hold }
  | _ => u

def resumeResource (r : Source) (u : CallUnit) : CallUnit :=
  match r with
  | .player n => { u with players := u.players.modify n (·.map Player.resume) }
  | .chime => { u with chime := u.chime.map ChimeGenerator.resume }
  | _ => u

/-! ## Scheduling (R137–R141) -/

/-- R137: a zone is available to a call. -/
def available (u : ZoneUnit) (c : Call) (z : ZoneNo) : Bool :=
  let stack := (u.zones.get z).stack
  decide (stack.length < 3) && stack.head?.all (fun t => decide (t.priority < c.priority)) &&
    !hushedFor u z c.priority (c.origin = .admission)

/-- R140: the push that starts a call on a resource. -/
def callPush (c : Call) (r : Source) : PushRequest where
  source := r
  mode := c.mode
  depth := none
  priority := c.priority
  owner := .call c.id
  targets := c.targets
  exempt := c.origin = .admission

/-- R140, R146: the record of a call whose push was accepted. -/
def startedCall (now : Clock) (r : Source) (c : Call) : Call :=
  { c with
    state := .started r c.targets false
    liveStart := match c.content with
      | .live _ => some now
      | _ => none }

/-- R140: a call's push is sent; whether it started, and the state that leaves. -/
def startCall (c : Call) (r : Source) (s : State) : Bool × State :=
  let a := push (callPush c r) s
  if a.1 then
    (true, setCalls (takeResource s.store.directory c r (a.2.call.update c.id (startedCall s.clock r))) a.2)
  else (false, a.2)

/-- R139: one QUEUED call met by a pass: whether it started, and the state that leaves. -/
def tryCall (blocked : ZoneSet) (c : Call) (s : State) : Bool × State :=
  if (zonesOf c.targets).all (available s.zoneUnit c) && c.targets &&& blocked = 0 then
    match freeResource s.call c.content with
    | some r => startCall c r s
    | none => (false, s)
  else (false, s)

/-- R139: the walk of a pass over QUEUED calls, in queue order. -/
def passOver : List Call → ZoneSet → State → State
  | [], _, s => s
  | c :: rest, blocked, s =>
    let t := tryCall blocked c s
    passOver rest (if t.1 then blocked else blocked ||| c.targets) t.2

/-- R138, R139: a scheduling pass. -/
def pass (s : State) : State := passOver (s.call.queue.filter isQueued) 0 s

/-! ## The queue (R130) -/

/-- R130: a call at its place: after every call of its priority or a higher one. -/
def insertCall (c : Call) : List Call → List Call
  | [] => [c]
  | d :: rest => if c.priority ≤ d.priority then d :: insertCall c rest else c :: d :: rest

def nextId (id : Nat) : Nat := if id = 255 then 1 else id + 1

/-- R130: the first id from the counter that no call holds. -/
def freeId (queue : List Call) : Nat → Nat → Nat
  | 0, id => id
  | n + 1, id => if queue.any fun c => c.id = id then freeId queue n (nextId id) else id

/-- R130: a call taken into the queue as QUEUED; its id, and the state that leaves. -/
def enqueue (c : Call) (s : State) : Nat × State :=
  let id := freeId s.call.queue 255 s.call.counter
  (id, setCalls { s.call with queue := insertCall { c with id := id } s.call.queue, counter := nextId id } s)

/-! ## Endings (R147) -/

/-- R196: the port that hears of a call's end. -/
def originPort : Origin → Port
  | .stage => .stage
  | .booth => .booth
  | _ => .house

def originOf : Port → Origin
  | .stage => .stage
  | .house => .house
  | .booth => .booth

/-- R147, steps 3 and 4: a call leaves the queue with its outcome, and CALL_END is offered. -/
def leaveQueue (c : Call) (outcome : CallOutcome) (s : State) : State :=
  offerTo (onlyPort (originPort c.origin)) kindCallEnd (byteOf c.id) (nameByte outcomeNames outcome) none
    (setCalls { s.call with queue := s.call.queue.filter fun d => d.id != c.id } s)

/-- R147, steps 1 to 4. A QUEUED call holds no entry and no resource. -/
def endCall (outcome : CallOutcome) (s : State) (c : Call) : State :=
  match c.state with
  | .queued => leaveQueue c outcome s
  | .started r _ _ =>
    let t := remove (.call c.id) c.targets s
    leaveQueue c outcome (setCalls (freeUp r t.call) t)

/-- R147: a call ended, with the pass that its ending starts. -/
def endWithPass (outcome : CallOutcome) (c : Call) (s : State) : State := pass (endCall outcome s c)

/-- Calls ended in queue order, with a pass once they are gone (R151–R153). R151 gives that order; R152 gives none, and
there it is the model's choice (log 41). -/
def endAll (which : Call → Bool) (s : State) : State :=
  let ending := s.call.queue.filter which
  if ending = [] then s else pass (ending.foldl (endCall .cancelled) s)

/-! ## Submission (R132–R136) -/

/-- R133, R134: the store keeps PHRASES calls out. -/
def isPhrases : Content → Bool
  | .phrases _ => true
  | _ => false

def isLive : Content → Bool
  | .live _ => true
  | _ => false

/-- A phrase that the call names has an empty directory entry. -/
def lacksPhrase (s : State) : Content → Bool
  | .phrases list => list.any fun n => (phraseEntry s.store.directory n).isNone
  | _ => false

/-- A hall link names a hall that is DARK in the unit's view. -/
def linkDark (s : State) : Option Hall → Bool
  | some h => s.call.view.get h = .dark
  | none => false

/-- R133: the first failing test of a console's call. -/
def submitRefusal (p : Port) (f : CallForm) (s : State) : Option Status :=
  if p = .booth && isLive f.content then some .denied
  else if p = .booth && f.targets &&& ~~~descZones != 0 then some .denied
  else if p != .booth && f.targets &&& descZones != 0 then some .range
  else if linkDark s f.link then some .state
  else if isPhrases f.content && storeOpen s then some .busy
  else if lacksPhrase s f.content then some .notFound
  else if queueLimit ≤ s.call.queue.length then some .full
  else none

/-- R133: the strikes of a CHIME, clamped. -/
def clampContent : Content → Content × Bool
  | .chime pattern strikes => let n := clampNat 1 4 strikes; (.chime pattern n.1, n.2)
  | c => (c, false)

/-- R132, R133: the repeat, clamped; it is not read for LIVE and held for PHRASES only (log 28). -/
def clampRepeat (f : CallForm) : Option Nat × Bool :=
  let n := clampNat 1 3 f.repeats
  match f.content with
  | .phrases _ => (some n.1, n.2)
  | .chime _ _ => (none, n.2)
  | .live _ => (none, false)

/-- R133: the call of a console, clamped, and whether a clamp applied. Its id comes with its place in the queue. -/
def consoleCall (p : Port) (f : CallForm) (now : Clock) : Call × Bool :=
  let priority := if p = .booth then clampNat 0 5 f.priority else (f.priority, false)
  let level := clampInt (-24) 12 f.level
  let content := clampContent f.content
  let repeats := clampRepeat f
  let time := f.deadline.map (clampNat 5 900)
  (⟨0, originOf p, priority.1, content.1, level.1, f.mode, f.targets, repeats.1,
    time.map fun t => laterBy now (ds t.1), f.link, .queued, none⟩,
   priority.2 || level.2 || content.2 || repeats.2 || time.any Prod.snd)

/-- The code of a call's state (Control Ports). -/
def stateCode : CallState → Nat
  | .queued => 0
  | .started _ _ false => 1
  | .started _ _ true => 2

/-- R132, R133. -/
def callSubmit (p : Port) (ps : List Byte) (s : State) : Answer :=
  match readCall ps with
  | none => refuse .range s
  | some f =>
    match submitRefusal p f s with
    | some status => refuse status s
    | none =>
      let c := consoleCall p f s.clock
      let q := enqueue c.1 s
      let t := pass q.2
      let state := match findCall t q.1 with
        | some d => stateCode d.state
        | none => 0
      accept c.2 [byteOf q.1, byteOf state] t

/-- R134: the call of a submission; its deadline is at least 50 and at most 9,000 ds after the taking. -/
def submittedCall (c : Submission) (now : Clock) : Call where
  id := 0
  origin := match c.origin with
    | .plan _ _ => .plan
    | .admission => .admission
  priority := c.priority
  content := c.content
  level := 0
  mode := c.mode
  targets := c.targets
  repeats := match c.content with
    | .phrases _ => some 1
    | _ => none
  deadline := some (laterBy now (clampNat 50 9000 (leftUntil now c.deadline)).1)
  link := some c.hall
  state := .queued
  liveStart := none

/-- R134, tests 1 to 3: the status of the first that fails. -/
def submissionRefusal (c : Submission) (s : State) : Option Status :=
  if linkDark s (some c.hall) then some .state
  else if isPhrases c.content && storeOpen s then some .busy
  else if lacksPhrase s c.content then some .notFound
  else none

/-- R134: the answer that the submitter is given. -/
def answerSubmission (a : SubmissionAnswer) (s : State) : State := setCalls { s.call with submitted := some a } s

/-- R24: the CALL_DROP notice of a lost plan step, for HOUSE; a refused ADMISSION call offers none (R134). -/
def stepLost (c : Submission) (s : State) : State :=
  match c.origin with
  | .plan plan step =>
    let h := nameCode hallNames c.hall
    offerTo (onlyPort .house) kindCallDrop 0 (byteOf (128 + 64 * h + 8 * plan.val + step)) none s
  | .admission => s

/-- R136, R196: the CALL_DROP notice of a displaced call: HOUSE, and STAGE or BOOTH where that is its origin. -/
def dropNotice (id : Nat) (o : Origin) (s : State) : State :=
  let ports : PerPort Bool := ⟨o = .stage, true, o = .booth⟩
  offerTo ports kindCallDrop (byteOf id) (nameByte originNames o) none s

/-- R136: the call that a new call of a priority displaces: the newest QUEUED call of the lowest priority, if that is
below the new call's. The queue's order puts it last among the QUEUED calls. -/
def victim (queue : List Call) (priority : Nat) : Option Call :=
  match (queue.filter isQueued).getLast? with
  | some c => if c.priority < priority then some c else none
  | none => none

/-- R134: a submitted call taken into the queue, answered ACCEPTED with its id, and the pass that follows. -/
def takeSubmission (c : Call) (s : State) : State :=
  let q := enqueue c s
  pass (answerSubmission (.accepted q.1) q.2)

/-- R134, R136: a submission taken. -/
def submit (c : Submission) (s : State) : State :=
  match submissionRefusal c s with
  | some status => stepLost c (answerSubmission (.refused status) s)
  | none =>
    let d := submittedCall c s.clock
    if s.call.queue.length < queueLimit then takeSubmission d s
    else
      match victim s.call.queue d.priority with
      | some v =>
        let t := setCalls { s.call with queue := s.call.queue.filter fun x => x.id != v.id } s
        takeSubmission d (dropNotice v.id v.origin t)
      | none =>
        offerTo (onlyPort .house) kindCallDrop 0 (nameByte originNames d.origin) none (answerSubmission .dropped s)

/-! ## The commands -/

/-- CALL_SUBMIT. -/
def execCallSubmit (p : Port) (s : State) : Step := takeRequest 0x50 p s (callSubmit p)

def takeProgrammeOrder (rest : List ProgrammeOrder) (s : State) : State :=
  { s with mail := { s.mail with toCall := rest } }

def takeAdmissionOrder (rest : List AdmissionOrder) (s : State) : State :=
  { s with mail := { s.mail with admissionToCall := rest } }

/-- UNIT_CALL_SUBMISSION (R134, R136). -/
def execUnitCallSubmission (sender : Submitter) (s : State) : Step :=
  match sender with
  | .programme =>
    match s.mail.toCall with
    | .submit c :: rest => .next (submit c (takeProgrammeOrder rest s))
    | _ => .next s
  | .admission =>
    match s.mail.admissionToCall with
    | .submit c :: rest => .next (submit c (takeAdmissionOrder rest s))
    | _ => .next s

/-- R149. -/
def callCancel (p : Port) (ps : List Byte) (s : State) : Answer :=
  match findCall s (natAt ps 0) with
  | none => refuse .notFound s
  | some c =>
    if p = .booth && c.origin != .booth then refuse .denied s
    else accept false [] (endWithPass .cancelled c s)

/-- CALL_CANCEL. -/
def execCallCancel (p : Port) (s : State) : Step := takeRequest 0x51 p s (callCancel p)

/-- R150. -/
def liveEnd (p : Port) (ps : List Byte) (s : State) : Answer :=
  match findCall s (natAt ps 0) with
  | none => refuse .notFound s
  | some c =>
    if !isLive c.content then refuse .state s
    else if c.origin != originOf p then refuse .denied s
    else accept false [] (endWithPass (if isQueued c then .cancelled else .done) c s)

/-- LIVE_END. -/
def execLiveEnd (p : Port) (s : State) : Step := takeRequest 0x52 p s (liveEnd p)

def contentCode : Content → Nat
  | .phrases _ => 0
  | .chime _ _ => 1
  | .live _ => 2

/-- R154, Control Ports: the eight bytes of a call. -/
def callBytes (c : Call) : List Byte :=
  let resource : Byte := match c.state with
    | .queued => 0xFF
    | .started r _ _ => nameByte sourceNames r
  [byteOf c.id, byteOf (nameCode originNames c.origin + 8 * stateCode c.state),
   byteOf (c.priority + 8 * contentCode c.content), resource, optByte (nameCode hallNames) c.link] ++ zoneSetBytes c.targets

/-- R154. -/
def callList (ps : List Byte) (s : State) : Answer :=
  let first := natAt ps 0
  let queue := s.call.queue
  if 15 < first then refuse .range s
  else
    accept false
      ([byteOf queue.length, byteOf first, flagByte (decide (first + 7 < queue.length))] ++
        ((queue.drop first).take 7).flatMap callBytes) s

/-- CALL_LIST. -/
def execCallList (p : Port) (s : State) : Step := takeRequest 0x53 p s callList

/-- R142: a listed call's coverage recorded, and the call suspended or resumed with its resource. -/
def takeCoverage (u : CallUnit) (entry : Owner × ZoneSet) : CallUnit :=
  match entry.1 with
  | .channel _ => u
  | .call id =>
    match u.queue.find? fun c => c.id = id with
    | none => u
    | some c =>
      match c.state with
      | .queued => u
      | .started r _ suspended =>
        let covered := entry.2 = 0 && !isLive c.content
        let v := u.update id fun d => { d with state := .started r entry.2 covered }
        if covered && !suspended then holdResource r v
        else if !covered && suspended then resumeResource r v
        else v

def takeZoneNews (rest : List ZoneNews) (s : State) : State :=
  { s with mail := { s.mail with zoneToCall := rest } }

/-- CALL_STACK_REPORT (R138, R142). -/
def execCallStackReport (s : State) : Step :=
  match s.mail.zoneToCall with
  | .report r :: rest =>
    let t := takeZoneNews rest s
    .next (pass (setCalls (r.coverage.foldl takeCoverage t.call) t))
  | _ => .next s

/-- CALL_HUSH_CHANGE (R42, R138). -/
def execCallHushChange (s : State) : Step :=
  match s.mail.zoneToCall with
  | .hush _ :: rest => .next (pass (takeZoneNews rest s))
  | _ => .next s

/-- R129: the unit's view of a hall after a phase event. -/
def callView (present : Phase) (ev : PhaseEvent) : Phase :=
  if present = .dark ∧ ev.old ≠ .dark then .dark else ev.new

def setCallView (h : Hall) (v : Phase) (s : State) : State :=
  setCalls { s.call with view := s.call.view.set h v } s

/-- CALL_PHASE_EVENT (R129, R138). -/
def execCallPhaseEvent (s : State) : Step :=
  match s.mail.toCall with
  | .phase ev :: rest =>
    .next (pass (setCallView ev.hall (callView (s.call.view.get ev.hall) ev) (takeProgrammeOrder rest s)))
  | _ => .next s

/-- HALL_CALL_CANCEL (R151): the view becomes DARK, then every linked call ends. -/
def execHallCallCancel (s : State) : Step :=
  match s.mail.toCall with
  | .cancelHall h :: rest =>
    .next (endAll (fun c => c.link = some h) (setCallView h .dark (takeProgrammeOrder rest s)))
  | _ => .next s

/-- PLAN_CALL_CANCEL (R152). -/
def execPlanCallCancel (s : State) : Step :=
  match s.mail.toCall with
  | .cancelPlan h :: rest =>
    .next (endAll (fun c => isQueued c && c.origin = .plan && c.link = some h) (takeProgrammeOrder rest s))
  | _ => .next s

/-- ADMISSION_CALL_CANCEL (R153). -/
def execAdmissionCallCancel (s : State) : Step :=
  match s.mail.admissionToCall with
  | .cancel h :: rest =>
    .next (endAll (fun c => c.origin = .admission && c.link = some h) (takeAdmissionOrder rest s))
  | _ => .next s

/-- R148: a QUEUED call's deadline is reached. -/
def expired (now : Clock) (c : Call) : Bool := isQueued c && c.deadline.any fun t => reached now t

/-- CALL_DEADLINE_EXPIRY (R148). -/
def execCallDeadlineExpiry (id : Nat) (s : State) : Step :=
  match findCall s id with
  | some c => if expired s.clock c then .next (endWithPass .expired c s) else .next s
  | none => .next s

/-- R146: a page's 120 s are over. -/
def pageLimit : Nat := 1200

def pageOver (now : Clock) (c : Call) : Bool := c.liveStart.any fun t => reached now (laterBy t pageLimit)

/-- LIVE_TIMEOUT (R146). -/
def execLiveTimeout (id : Nat) (s : State) : Step :=
  match findCall s id with
  | some c => if pageOver s.clock c then .next (endWithPass .timeout c s) else .next s
  | none => .next s

/-! ## Playback (R144, R145, R147) -/

/-- The list and the repeat of the call that holds a player. -/
def playList (u : CallUnit) (id : Nat) : List Nat × Nat :=
  match u.queue.find? fun c => c.id = id with
  | some c =>
    match c.content with
    | .phrases list => (list, c.repeats.getD 1)
    | _ => ([], 1)
  | none => ([], 1)

def setPlayer (n : Fin 3) (p : Option Player) (s : State) : State :=
  setCalls { s.call with players := s.call.players.set n p } s

def setChime (c : Option ChimeGenerator) (s : State) : State := setCalls { s.call with chime := c } s

/-- A phrase's end taken where more content follows; `none` where the content has ended. -/
def phraseTaken (s : State) (p : Player) : Option Player :=
  let l := playList s.call p.call
  p.afterPhrase s.store.directory l.1 l.2

/-- R147: a call whose content has ended. -/
def contentEnd (id : Nat) (s : State) : State :=
  match findCall s id with
  | some c => endWithPass .done c s
  | none => s

/-- R144, R147: a player's reported phrase end taken, held or not (R143); with none reported nothing happens. -/
def phraseEnd (s : State) (n : Fin 3) : State :=
  match s.call.players.get n with
  | some p =>
    if p.stage = .ended then
      match phraseTaken s p with
      | some q => setPlayer n (some q) s
      | none => contentEnd p.call s
    else s
  | none => s

/-- R144: the end of a player's silence between repeats taken, when it is over. -/
def repeatSilenceEnd (s : State) (n : Fin 3) : State :=
  match s.call.players.get n with
  | some p =>
    if silenceOver p then setPlayer n (some (p.afterSilence s.store.directory (playList s.call p.call).1)) s else s
  | none => s

/-- R50, R51: the end of the generator's note taken, when it is over. -/
def chimeNoteEnd (s : State) : State :=
  match s.call.chime with
  | some c => if noteOver c then setChime (some c.nextNote) s else s
  | none => s

/-- R50, R145, R147: the end of the generator's strike taken, when it is over. -/
def chimeStrikeEnd (s : State) : State :=
  match s.call.chime with
  | some c =>
    if strikeOver c then
      match c.afterStrike with
      | some d => setChime (some d) s
      | none => contentEnd c.call s
    else s
  | none => s

/-- PLAYER_PHRASE_END (R144, R147). -/
def execPlayerPhraseEnd (n : Fin 3) (s : State) : Step := .next (phraseEnd s n)

/-- REPEAT_SILENCE_END (R144). -/
def execRepeatSilenceEnd (n : Fin 3) (s : State) : Step := .next (repeatSilenceEnd s n)

/-- CHIME_NOTE_END (R50, R51). -/
def execChimeNoteEnd (s : State) : Step := .next (chimeNoteEnd s)

/-- CHIME_STRIKE_END (R50, R145, R147). -/
def execChimeStrikeEnd (s : State) : Step := .next (chimeStrikeEnd s)

end Sys2Proof.Machine
end

