-- ==== Sys2Proof/Machine/Level.lean ====
section
/-! DEFINITION. The level monitor: peaks, the sound channels, the sense channels with the loop checks, and the
meanings of LEVEL_PERIOD_END and its two requests (spec/04, R67–R82). -/

namespace Sys2Proof.Machine

def setLevel (u : LevelMonitor) (s : State) : State := { s with level := u }

/-! ## Peaks (R68) -/

/-- R68: the largest absolute value. -/
def peakOf (samples : List Int) : Nat := samples.foldl (fun n x => max n x.natAbs) 0

/-- R67: the slot of a sound channel on its lane. -/
def soundSlot (c : Fin 6) : Nat := if c.val < 2 then c.val else c.val - 2

/-- R67, R72: what a frame of a lane brings the sound channels: its samples enter their peaks once the first block is
mixed; a lane that was or becomes UNLOCKED spoils the period; one that becomes UNLOCKED sets the run counts to 0. -/
def frameLevel (lane : Lane) (started before after : Bool) (frame : List Int) (u : LevelMonitor) : LevelMonitor :=
  { u with
    sound := u.sound.mapIdx fun c r =>
      if soundLane c = lane then
        { r with
          peak := if started then max r.peak (frame.getD (soundSlot c) 0).natAbs else r.peak
          run := if before && !after then 0 else r.run }
      else r
    unlocked := u.unlocked.set lane (u.unlocked.get lane || !before || !after) }

/-- R67, R68: the sense samples and the drive samples of a block. -/
def blockLevel (sense : Fin 8 → List Int) (drive : Fin 8 → List Int) (u : LevelMonitor) : LevelMonitor :=
  { u with
    sense := u.sense.mapIdx fun l r =>
      { r with peak := max r.peak (peakOf (sense l)), drive := max r.drive (peakOf (drive l)) } }

/-! ## Sound channels (R71–R73) -/

/-- R71: a channel evaluated on its period's peak: its record, and its turn if it turned. -/
def soundEval (r : SoundChannel) : SoundChannel × Option LevelState :=
  match r.state with
  | .quiet =>
    if threshold r.settings.upper ≤ r.peak then
      if r.settings.soundHold ≤ r.run + 1 then ({ r with state := .sound, run := 0 }, some .sound)
      else ({ r with run := r.run + 1 }, none)
    else ({ r with run := 0 }, none)
  | .sound =>
    if r.peak < threshold r.settings.lower then
      if r.settings.quietHold ≤ r.run + 1 then ({ r with state := .quiet, run := 0 }, some .quiet)
      else ({ r with run := r.run + 1 }, none)
    else ({ r with run := 0 }, none)

/-- R72: the channel is evaluated: its lane was LOCKED throughout the period. -/
def evaluated (s : State) (c : Fin 6) : Bool := !frozen s c && !s.level.unlocked.get (soundLane c)

/-- R73: a turn handed to its unit, and its LEVEL notice. -/
def handTurn (c : Fin 6) (turn : LevelState) (s : State) : State :=
  let m := s.mail
  let handed : Mail :=
    if c = 0 then { m with hallLevels := m.hallLevels.modify .a (· ++ [turn]) }
    else if c = 1 then { m with hallLevels := m.hallLevels.modify .b (· ++ [turn]) }
    else
      let d : Fin 4 := ⟨(c.val - 2) % 4, by omega⟩
      { m with describerLevels := m.describerLevels.modify d (· ++ [turn]) }
  let up : Bool := turn = .sound
  offerTo allPorts kindLevel (byteOf c.val) (flagByte up) (some (if up then .rise else .fall)) { s with mail := handed }

def setSound (c : Fin 6) (r : SoundChannel) (s : State) : State :=
  setLevel { s.level with sound := s.level.sound.set c r } s

/-- R68, R71–R73: a sound channel at the end of a period. -/
def soundPeriod (s : State) (c : Fin 6) : State :=
  let r := s.level.sound.get c
  let e := if evaluated s c then soundEval r else (r, none)
  let t := setSound c { e.1 with lastPeak := r.peak, peak := 0 } s
  match e.2 with
  | some turn => handTurn c turn t
  | none => t

/-! ## Sense channels (R74–R79) -/

/-- R75: the period is an over-current. -/
def isOverCurrent (r : SenseChannel) : Bool := decide (threshold r.settings.overCurrent ≤ r.peak)

/-- R78: the open-loop check of a NORMAL zone: the open run count, and the event if there is one. -/
def openCheck (flag : Bool) (r : SenseChannel) : Nat × Option LoopEvent :=
  let flows := decide (threshold r.settings.openStep ≤ r.peak)
  if flag then (if flows then (0, some .openEnd) else (r.openRun, none))
  else if !flows && decide (threshold r.settings.driveCheck ≤ r.drive) then
    if r.settings.openHold ≤ r.openRun + 1 then (0, some .openBegin) else (r.openRun + 1, none)
  else (0, none)

/-- R74–R79: the open run count that a period leaves, and the events it hands, an over-current before an open-loop event
of the same period (log 33). -/
def senseEval (zone : LoopRecord) (r : SenseChannel) : Nat × List LoopEvent :=
  if zone.shut then (0, [])
  else
    let o := openCheck zone.openFlag r
    (o.1, (if isOverCurrent r then [.overCurrent] else []) ++ o.2.toList)

/-- R68, R74–R79: a sense channel at the end of a period. -/
def sensePeriod (s : State) (l : Fin 8) : State :=
  let r := s.level.sense.get l
  let e := senseEval (s.zoneUnit.loops.get l) r
  let q := { r with openRun := e.1, lastPeak := r.peak, lastDrive := r.drive, peak := 0, drive := 0 }
  { s with
    level := { s.level with sense := s.level.sense.set l q }
    mail := { s.mail with loopEvents := s.mail.loopEvents.modify l (· ++ e.2) } }

/-! ## The period (R68, R77) -/

/-- R77: the recovery count at the end of a period. -/
def LoopRecord.countRecovery (r : LoopRecord) : LoopRecord :=
  if r.shut || r.foldBack = .none then r else { r with recovery := min recoveryLength (r.recovery + 1) }

/-- A recovery step that came due and was not taken comes about before the next period's count (log 8). -/
def loopsPeriod (s : State) : State :=
  setZoneUnit { s.zoneUnit with loops := s.zoneUnit.loops.map fun r => r.recover.countRecovery } s

/-- R72: the next period: it is spoilt from its start by a lane that is UNLOCKED. -/
def nextPeriod (s : State) : State :=
  setLevel { s.level with unlocked := ⟨!s.engine.lanes.lane0.locked, !s.engine.lanes.lane1.locked⟩ } s

/-- LEVEL_PERIOD_END (R67, R68, R71–R79): the first period begins with the first block mixed. -/
def execLevelPeriodEnd (s : State) : Step :=
  if s.engine.started then
    .next (nextPeriod ((finUpTo 8).foldl sensePeriod ((finUpTo 6).foldl soundPeriod (loopsPeriod s))))
  else .next s

/-! ## Requests (R81, R82) -/

/-- R81: the halls a channel serves. -/
def channelHalls (s : State) (n : Nat) : List Hall :=
  if n = 0 then [.a]
  else if n = 1 then [.b]
  else if n < 6 then
    (s.description.channels.toList.filter fun c => c.settings.input.any fun d => d.val = n - 2).map fun c => c.settings.hall
  else ((s.zoneUnit.loops.toList.drop (n - 6)).take 1).map fun l => l.settings.hall

/-- R81. -/
def levelSet (ps : List Byte) (s : State) : Answer :=
  let n := natAt ps 0
  if 13 < n ∨ ps.length ≠ (if n < 6 then 7 else 6) then refuse .range s
  else if saving s then refuse .busy s
  else if (channelHalls s n).any fun h => !hallDark s h then refuse .state s
  else
    match (finUpTo 6)[n]?, (finUpTo 8)[n - 6]? with
    | some c, _ =>
      let v := readSoundSettings (ps.drop 1)
      accept v.2 [] (setSound c { s.level.sound.get c with settings := v.1, run := 0 } s)
    | none, some l =>
      let v := readSenseSettings (ps.drop 1)
      accept v.2 []
        (setLevel { s.level with sense := s.level.sense.set l { s.level.sense.get l with settings := v.1, openRun := 0 } } s)
    | none, none => refuse .range s

/-- Control Ports: a peak as it is reported. -/
def peakValue (n : Nat) : Nat := n / 4096

/-- R82, Control Ports: the values of the channels, in order. -/
def levelValues (s : State) : List Nat :=
  ((finUpTo 6).flatMap fun c =>
    let r := s.level.sound.get c
    [r.run + (if r.state = .sound then 512 else 0) + (if frozen s c then 1024 else 0), peakValue r.lastPeak]) ++
  ((finUpTo 8).flatMap fun l =>
    let r := s.level.sense.get l
    [peakValue r.lastPeak, peakValue r.lastDrive, if (s.zoneUnit.loops.get l).shut then 4095 else r.openRun])

/-- Control Ports: values of twelve bits packed two to three bytes. -/
def packPairs : List Nat → List Byte
  | a :: b :: rest => [byteOf (a / 16), byteOf (16 * (a % 16) + b / 256), byteOf (b % 256)] ++ packPairs rest
  | _ => []

/-- R82. -/
def levelRead (_ : List Byte) (s : State) : Answer := accept false (packPairs (levelValues s)) s

/-- LEVEL_SET. -/
def execLevelSet (p : Port) (s : State) : Step := takeRequest 0x28 p s levelSet

/-- LEVEL_READ. -/
def execLevelRead (p : Port) (s : State) : Step := takeRequest 0x29 p s levelRead

end Sys2Proof.Machine
end

