-- ==== Sys2Proof/Machine/Mix.lean ====
section
/-! DEFINITION. The input lanes, the mix engine with its ramps, clips and outputs, and the meanings of INPUT_FRAME,
MIX_BLOCK and RAMP_STEP (spec/03, R45–R66). -/

namespace Sys2Proof.Machine

def setEngine (u : Engine) (s : State) : State := { s with engine := u }

/-! ## Input lanes (R46, R47) -/

/-- R46: what a frame makes of a lane's lock. -/
def LaneRecord.takeFrame (good : Bool) (r : LaneRecord) : LaneRecord :=
  if r.locked then
    if good then { r with missing := 0 }
    else if 2 ≤ r.missing + 1 then { r with locked := false, run := 0, missing := 0 }
    else { r with missing := r.missing + 1 }
  else if good then
    if 8 ≤ r.run + 1 then { r with locked := true, run := 0, missing := 0 }
    else { r with run := r.run + 1 }
  else { r with run := 0 }

/-- R47: the eight samples every reader sees. -/
def frameSamples (locked good : Bool) (slots : List Sample) : List Int :=
  (List.range 8).map fun i => if locked && good then (slots.getD i 0).toInt else 0

def laneCode : Lane → Nat
  | .lane0 => 0
  | .lane1 => 1

/-- R46: the INPUT_LOCK notice of a change. -/
def lockNotice (lane : Lane) (before after : Bool) (s : State) : State :=
  if before = after then s
  else offerTo allPorts kindInputLock (byteOf (laneCode lane)) (flagByte after) (some (if after then .rise else .fall)) s

/-- INPUT_FRAME (R46, R47, R72). -/
def execInputFrame (lane : Lane) (good : Bool) (slots : List Sample) (s : State) : Step :=
  let before := s.engine.lanes.get lane
  let after := before.takeFrame good
  let frame := frameSamples after.locked good slots
  let r := { after with received := after.received ++ [frame] }
  let t := setEngine { s.engine with lanes := s.engine.lanes.set lane r } s
  .next (lockNotice lane before.locked after.locked
    (setLevel (frameLevel lane s.engine.started before.locked after.locked frame s.level) t))

/-! ## Sources (R48–R52) -/

def blockLength : Nat := 48

/-- A block of samples; one that is missing is 0. -/
def fullBlock (l : List Int) : List Int := (List.range blockLength).map fun i => l.getD i 0

/-- The samples of a lane's slot in the block to be mixed (log 13). -/
def slotBlock (r : LaneRecord) (slot : Nat) : List Int := fullBlock (r.received.map fun f => f.getD slot 0)

/-- R48. -/
def baseSamples (u : Engine) : BaseSource → List Int
  | .hallA | .relayA => slotBlock u.lanes.lane0 0
  | .hallB | .relayB => slotBlock u.lanes.lane0 1
  | .aux => slotBlock u.lanes.lane1 4
  | .silence => fullBlock []

/-- R49, R50, R52, R55: the samples of an overlay's source. -/
def sourceSamples (s : State) : Source → List Int
  | .player n =>
    match s.call.players.get n with
    | some p => p.samples s.store.flash
    | none => fullBlock []
  | .chime =>
    match s.call.chime with
    | some c => c.samples
    | none => fullBlock []
  | .mic n => slotBlock s.engine.lanes.lane1 (5 + n.val)
  | .desc d => slotBlock s.engine.lanes.lane1 d.val

/-! ## Steps (R54–R56) -/

/-- R54: the effective step of a path. -/
def effectiveStep (own trim foldBack : Int) : Int :=
  if own = -121 then -121
  else if 24 < own + trim + foldBack then 24
  else if own + trim + foldBack < -120 then -121
  else own + trim + foldBack

/-- R55: the call level or the describer gain of an overlay's owner. -/
def ownerGain (s : State) : Owner → Int
  | .call id =>
    match s.call.queue.find? fun c => c.id = id with
    | some c => c.level
    | none => 0
  | .channel c => (s.description.channels.get c).settings.gain

/-- R49, R55: the phrase gain of an overlay from a player. -/
def phraseGain (s : State) : Source → Int
  | .player n =>
    match s.call.players.get n with
    | some p => p.clip.gain
    | none => 0
  | _ => 0

/-- R55: the foreground's own step. -/
def foregroundStep (s : State) (o : Overlay) : Int := ownerGain s o.owner + phraseGain s o.source

/-! ## The sum (R58, R59) -/

/-- R59: full scale. -/
def sampleMax : Int := 8388607
def sampleMin : Int := -8388608

/-- R59, step 1. -/
def rounded (acc : Int) : Int := (acc + 524288) / 1048576

/-- R59, step 2. -/
def saturated (x : Int) : Int := if sampleMax < x then sampleMax else if x < sampleMin then sampleMin else x

/-- R58: the accumulator. -/
def accumulator (fg : Int) (fgStep : Int) (bg : Int) (bgStep : Int) : Int :=
  fg * coefficient fgStep + bg * coefficient bgStep

/-- R58, R59: the rounded sums of a zone's block, before saturation. -/
def zoneSums (s : State) (z : ZoneNo) (r : ZoneRecord) : List Int :=
  let fold := foldBackOf s.zoneUnit z
  let bg := baseSamples s.engine r.baseSource
  let bgStep := effectiveStep r.bgStep r.settings.trim fold
  match r.top with
  | none => bg.map fun b => rounded (accumulator 0 (-121) b bgStep)
  | some o =>
    let fgStep := effectiveStep (foregroundStep s o) r.settings.trim fold
    List.zipWith (fun f b => rounded (accumulator f fgStep b bgStep)) (sourceSamples s o.source) bg

/-! ## Ramps (R57) -/

/-- R57: a zone at the start of a block: the target worked out; a new one sets the ramp count to 0. -/
def ZoneRecord.aim (r : ZoneRecord) : ZoneRecord :=
  if r.goal = r.target then r else { r with target := r.goal, rampCount := 0 }

/-- R57: the interval that applies. -/
def ZoneRecord.interval (r : ZoneRecord) : Nat :=
  if r.target < r.bgStep then r.settings.rampDown else r.settings.rampUp

/-- R57: a zone at the end of a block: the ramp count rises, and at the interval a step comes due. -/
def ZoneRecord.countRamp (r : ZoneRecord) : ZoneRecord :=
  if r.bgStep = r.target then r
  else { r with rampCount := min 20 (r.rampCount + 1), rampDue := decide (r.interval ≤ r.rampCount + 1) }

/-- R57: the step that has come due: one step toward the target, and the count 0. -/
def ZoneRecord.rampStep (r : ZoneRecord) : ZoneRecord :=
  if r.rampDue then
    { r with
      bgStep := if r.target < r.bgStep then r.bgStep - 1 else if r.bgStep < r.target then r.bgStep + 1 else r.bgStep
      rampCount := 0
      rampDue := false }
  else r

/-- RAMP_STEP (R57). -/
def execRampStep (z : ZoneNo) (s : State) : Step := .next (setZoneUnit (s.zoneUnit.modifyZone z ZoneRecord.rampStep) s)

/-! ## Clips (R60) -/

/-- R60: the last clip time is absent or lies more than 10 ds back. -/
def clipIsNew (now : Clock) (last : Option Clock) : Bool := last.all fun t => decide (10 < (now - t).toNat)

/-- R60: the first saturated sum of a block. -/
def firstClip (sums : List Int) : Option Int := sums.find? fun x => saturated x != x

/-- R60: the clip check of a zone's block. -/
def clipCheck (sums : Fin 18 → List Int) (s : State) (z : ZoneNo) : State :=
  match firstClip (sums z) with
  | none => s
  | some x =>
    let last := (s.zoneUnit.zones.get z).lastClip
    let t := setZoneUnit (s.zoneUnit.modifyZone z fun r => { r with lastClip := some s.clock }) s
    if clipIsNew s.clock last then offer kindClip (zoneByte z) (flagByte (decide (x < 0))) t else t

/-! ## Outputs (R61–R63) -/

/-- R62: the loop duty of an output sample. -/
def loopDuty (l : LoopRecord) (x : Int) : Int :=
  if l.shut then 2048
  else
    let d := x / 4096
    let limit : Int := l.settings.driveLimit
    2048 + (if limit < d then limit else if d < -limit then -limit else d)

/-- R31, R62, R64: a duty made before the present block, as the loop's state and limit let it out now (log 37). -/
def heldDuty (l : LoopRecord) (duty : Int) : Int :=
  let limit : Int := l.settings.driveLimit
  if l.shut then 2048 else if 2048 + limit < duty then 2048 + limit else if duty < 2048 - limit then 2048 - limit else duty

/-- R62: the duties of the block that goes out. -/
def blockDuties (l : LoopRecord) (out : List Int) : List Int := (fullBlock out).map (loopDuty l)

/-- R63: a duty takes effect at the PWM period after it is made. -/
def effectiveDuties (l : LoopRecord) (next : Int) (out : List Int) : List Int :=
  heldDuty l next :: (blockDuties l out).take (blockLength - 1)

/-- R63: the drive sample of a duty. -/
def driveSample (duty : Int) : Int := (duty - 2048) * 4096

/-! ## The block (R45) -/

/-- The ramp steps that came due at the end of the block before and were not taken come about now (log 8). -/
def settleRamps (s : State) : State :=
  setZoneUnit { s.zoneUnit with zones := s.zoneUnit.zones.map ZoneRecord.rampStep } s

/-- What the block before brought to its end and was not taken comes about now, so that no call outlives the block in
which its content ended (R147): ramp steps, phrases, silences, the note, the strike, and among the players those
of PLAYER0 first. R49 and R147 order no two ends of one block: the order is the model's choice (log 8). -/
def settleBlock (s : State) : State :=
  chimeStrikeEnd (chimeNoteEnd ((finUpTo 3).foldl repeatSilenceEnd ((finUpTo 3).foldl phraseEnd (settleRamps s))))

/-- R57: every zone's target at the start of a block. -/
def aimZones (s : State) : State :=
  setZoneUnit { s.zoneUnit with zones := s.zoneUnit.zones.map ZoneRecord.aim } s

/-- R45: the sums of a block, all from the state at its start. -/
def blockSums (s : State) : Table (List Int) 18 := s.zoneUnit.zones.mapIdx (zoneSums s)

def loopOut (t : Table (List Int) 18) (l : Fin 8) : List Int := t.get (loopZone l)

/-- R45, R61–R63: the outputs of a block, with what the block before made going out. -/
def nextEngine (s : State) (sums : Table (List Int) 18) : Engine :=
  let u := s.engine
  { lanes := ⟨{ u.lanes.lane0 with received := [] }, { u.lanes.lane1 with received := [] }⟩
    made := sums.map fun l => l.map saturated
    sending := u.made
    dutyOut := s.zoneUnit.loops.mapIdx fun l r => effectiveDuties r (u.dutyNext.get l) (loopOut u.made l)
    dutyNext := s.zoneUnit.loops.mapIdx fun l r => (blockDuties r (loopOut u.made l)).getLastD 2048
    started := true }

/-- R67: the current samples of a loop in the block. -/
def senseBlock (sense : List (List Sample)) (l : Fin 8) : List Int :=
  (((sense.getD l.val []).take blockLength).map BitVec.toInt)

/-- R49, R50: the resources a block on. -/
def advanceResources (u : CallUnit) : CallUnit :=
  { u with players := u.players.map (·.map Player.advance), chime := u.chime.map ChimeGenerator.advance }

/-- R57: the ramp counts at the end of a block. -/
def countRamps (s : State) : State :=
  setZoneUnit { s.zoneUnit with zones := s.zoneUnit.zones.map ZoneRecord.countRamp } s

/-- R68, R72: the first period begins with the first block mixed, spoilt only by a lane that is UNLOCKED then. -/
def firstPeriod (started : Bool) (s : State) : State := if started then s else nextPeriod s

/-- R45–R65: a block mixed. The CLIP offers of several zones are made in zone-number order, the model's choice (log 41). -/
def mixBlock (sense : List (List Sample)) (s : State) : State :=
  let a := aimZones (settleBlock s)
  let sums := blockSums a
  let e := nextEngine a sums
  let b := firstPeriod s.engine.started (countRamps (setCalls (advanceResources a.call) (setEngine e a)))
  let c := setLevel (blockLevel (senseBlock sense) (fun l => (e.dutyOut.get l).map driveSample) b.level) b
  (finUpTo 18).foldl (clipCheck sums.get) c

/-- MIX_BLOCK (R45). -/
def execMixBlock (sense : List (List Sample)) (s : State) : Step := .next (mixBlock sense s)

end Sys2Proof.Machine
end

