-- ==== Sys2Proof/Machine/Notices.lean ====
section
/-! DEFINITION. The Notice unit: what a port's set makes of an offer, and the meanings of NOTICE_OFFER and of the
three notice requests (spec/11, R195–R201). -/

namespace Sys2Proof.Machine

/-- R196: an edge choice keeps an offer; only LEVEL and INPUT_LOCK offers carry an edge. -/
def keepsEdge : EdgeChoice → Option Edge → Bool
  | .rise, some .fall => false
  | .fall, some .rise => false
  | _, _ => true

/-- R197: a kind takes an offer that reaches it. -/
def NoticeEntry.take (hold : Bool) (o : Offer) (k : NoticeEntry) : NoticeEntry :=
  if k.masked && !hold then k
  else
    match k.pending with
    | none => { k with pending := some ⟨1, o.detail0, o.detail1, o.time⟩ }
    | some q => { k with pending := some ⟨min 15 (q.count + 1), q.detail0, q.detail1, q.time⟩ }

/-- R196, R197: a port's set takes an offer that is routed to the port. -/
def NoticeSet.take (o : Offer) (n : NoticeSet) : NoticeSet :=
  if keepsEdge n.edge o.edge then { n with kinds := n.kinds.modify o.kind (NoticeEntry.take n.hold o) } else n

def takeOfferAt (o : Offer) (p : Port) (n : NoticeSet) : NoticeSet :=
  if o.ports.get p then n.take o else n

/-- NOTICE_OFFER: the Notice unit takes the offer that stands at a place among those waiting (R196, R197; log 19). -/
def execNoticeOffer (n : Nat) (s : State) : Step :=
  match s.mail.offers[n]? with
  | none => .next s
  | some o =>
    let sets : PerPort NoticeSet :=
      ⟨takeOfferAt o .stage s.notices.stage, takeOfferAt o .house s.notices.house, takeOfferAt o .booth s.notices.booth⟩
    .next { s with notices := sets, mail := { s.mail with offers := s.mail.offers.eraseIdx n } }

/-- R199: the kinds that are pending and not masked, in kind order. -/
def shownKinds (n : NoticeSet) : List (Fin 16) :=
  (finUpTo 16).filter fun k => (n.kinds.get k).pending.isSome && !(n.kinds.get k).masked

/-- R199, Control Ports: the seven bytes of a reported kind. -/
def noticeBytes (k : Fin 16) (n : NoticeSet) : List Byte :=
  match (n.kinds.get k).pending with
  | some q => [byteOf (k.val + 16 * q.count), q.detail0, q.detail1] ++ bytes4 q.time.toNat
  | none => []

/-- Some kinds of a set cleared (R199, R200). -/
def NoticeSet.clearKinds (which : Fin 16 → Bool) (n : NoticeSet) : NoticeSet :=
  { n with kinds := n.kinds.mapIdx fun k e => if which k then { e with pending := none } else e }

def setNotices (p : Port) (n : NoticeSet) (s : State) : State := { s with notices := s.notices.set p n }

/-- R199. -/
def noticeRead (p : Port) (_ : List Byte) (s : State) : Answer :=
  let n := s.notices.get p
  let shown := shownKinds n
  let reported := shown.take 8
  let payload := [byteOf reported.length, flagByte (decide (8 < shown.length))] ++ reported.flatMap fun k => noticeBytes k n
  let after := if n.clear = .report then n.clearKinds fun k => reported.contains k else n
  accept false payload (setNotices p after s)

/-- A set of notice kinds from two bytes (Control Ports). -/
def kindSetAt (ps : List Byte) (i : Nat) : BitVec 16 := BitVec.ofNat 16 (wordAt ps i)

/-- R200. -/
def noticeAck (p : Port) (ps : List Byte) (s : State) : Answer :=
  let kinds := kindSetAt ps 0
  accept false [] (setNotices p ((s.notices.get p).clearKinds fun k => kinds.getLsbD k.val) s)

/-- R201. -/
def noticeSet (p : Port) (ps : List Byte) (s : State) : Answer :=
  match nameAt flagNames ps 2, nameAt edgeNames ps 3, nameAt clearNames ps 4, nameAt portModeNames ps 5 with
  | some hold, some edge, some clear, some mode =>
    let masks := kindSetAt ps 0
    let n := s.notices.get p
    let kinds := n.kinds.mapIdx fun k e => (⟨masks.getLsbD k.val, e.pending⟩ : NoticeEntry)
    let t := setNotices p ⟨kinds, hold, edge, clear⟩ s
    accept false [] { t with ports := t.ports.modify p fun r => { r with mode := mode } }
  | _, _, _, _ => refuse .range s

/-- NOTICE_READ. -/
def execNoticeRead (p : Port) (s : State) : Step := takeRequest 0x70 p s (noticeRead p)

/-- NOTICE_ACK. -/
def execNoticeAck (p : Port) (s : State) : Step := takeRequest 0x71 p s (noticeAck p)

/-- NOTICE_SET. -/
def execNoticeSet (p : Port) (s : State) : Step := takeRequest 0x72 p s (noticeSet p)

/-- HOUSE_CLOCK_TICK (Conventions, Time): a ds passes; what falls due then comes as its own command (R101). -/
def execHouseClockTick (s : State) : Step := .next { s with clock := s.clock + 1 }

end Sys2Proof.Machine
end

