-- ==== Sys2Proof/Machine/Describe.lean ====
section
/-! DEFINITION. The Description unit: talk requests, the talk state machine, the tally states, and the meanings of its
requests and events (spec/08, R155–R170). -/

namespace Sys2Proof.Machine

def setDescription (d : Description) (s : State) : State := { s with description := d }

def channelOf (s : State) (c : Fin 4) : Channel := s.description.channels.get c

def setChannel (c : Fin 4) (ch : Channel) (s : State) : State :=
  setDescription { s.description with channels := s.description.channels.set c ch } s

/-! ## Tally states (R169) -/

/-- R169: the tally state of a describer handed, when it differs from the one last handed. -/
def handTally (s : State) (d : Fin 4) : State :=
  let u := s.description
  let t := tallyState u d
  if t = (u.describers.get d).tally then s
  else
    { s with
      description := { u with describers := u.describers.modify d fun r => { r with tally := t } }
      mail := { s.mail with tallies := s.mail.tallies ++ [(d, t)] } }

/-- R169: every describer's tally state worked out. Where several differ they are handed in describer order, the model's
choice: R169 gives no order among them (log 41). -/
def handTallies (s : State) : State := (finUpTo 4).foldl handTally s

/-! ## The talk state machine (R161–R167) -/

/-- R161: the push of a channel's overlay, from its describer input. -/
def channelPush (c : Fin 4) (ch : ChannelSettings) (d : Fin 4) : PushRequest where
  source := .desc d
  mode := .duck
  depth := some ch.depth
  priority := 6
  owner := .channel c
  targets := oneZone (descZone ch.zone)
  exempt := false

/-- R167: the states whose entry offers a TALK notice. -/
def noticed (t : TalkState) : Bool := t = .live || t = .wait || t = .cut

/-- R167, R169: a channel enters a state: the record, the TALK notice where the entry offers one, the tallies. -/
def enter (c : Fin 4) (t : TalkState) (expiry : Option Clock) (s : State) : State :=
  let ch := channelOf s c
  let v := setChannel c { ch with talk := t, expiry := expiry } s
  if t = ch.talk then v
  else handTallies (if noticed t then offer kindTalk (byteOf c.val) (nameByte talkStateNames t) v else v)

/-- R162: the removal of a channel's overlay. -/
def withdraw (c : Fin 4) (s : State) : State := remove (.channel c) (oneZone (descZone (channelOf s c).settings.zone)) s

/-- What an evaluation of R162 to R166 asks for. -/
inductive Verdict
  | stay
  | become (t : TalkState)
  | leave (t : TalkState)
  | tryPush
  | grace
deriving DecidableEq, Repr

/-- R162, R163, R166: a channel that holds no overlay and is not CUT: OFF, IDLE, WAIT and MUTED are evaluated alike. -/
def idleVerdict (request allowed : Bool) (mode : Option DescMode) : Verdict :=
  if !request then .become .idle
  else if allowed then .tryPush
  else if mode = some .muted then .become .muted
  else .become .wait

/-- R162 to R166: the first case that applies. -/
def verdict (view : DescView) (request : Bool) (ch : Channel) : Verdict :=
  let allowed := talkAllowed view
  let mode := governingMode view
  if view.phase = .dark then
    match ch.talk with
    | .live | .grace => .leave .off
    | _ => .become .off
  else
    match ch.talk with
    | .live =>
      if !request then .leave .idle
      else if mode = some .muted then .leave .muted
      else if allowed then .stay
      else if 0 < ch.settings.grace then .grace
      else .leave .cut
    | .grace =>
      if !request then .leave .idle
      else if mode = some .muted then .leave .muted
      else if allowed then .become .live
      else .stay
    | .cut => if request then .stay else .become .idle
    | _ => idleVerdict request allowed mode

def verdictOf (s : State) (c : Fin 4) : Verdict :=
  let ch := channelOf s c
  verdict (s.description.view.get ch.settings.hall) (talkRequest s.description ch.settings) ch

/-- R161: one evaluation of a channel. -/
def evaluate (s : State) (c : Fin 4) : State :=
  let ch := channelOf s c
  match verdictOf s c with
  | .stay => s
  | .become t => enter c t none s
  | .leave t => enter c t none (withdraw c s)
  | .grace => enter c .grace (some (laterBy s.clock (ds ch.settings.grace))) s
  | .tryPush =>
    match ch.settings.input with
    | some d =>
      let a := push (channelPush c ch.settings d) s
      enter c (if a.1 then .live else .wait) none a.2
    | none => s

/-- R161: some channels evaluated in channel-number order, on a stack report too (log 35). -/
def evaluateAll (which : ChannelSettings → Bool) (s : State) : State :=
  ((finUpTo 4).filter fun c => which (channelOf s c).settings).foldl evaluate s

/-- R156, R161: a describer's inputs after an event; a change is a request change for its channels. -/
def changeDescriber (d : Fin 4) (r : Describer) (s : State) : State :=
  if r = s.description.describers.get d then s
  else evaluateAll (fun ch => ch.input = some d) (setDescription { s.description with describers := s.description.describers.set d r } s)

/-! ## Requests -/

/-- R159: a channel names the describer. -/
def describerNamed (channels : Table Channel 4) (d : Fin 4) : Bool := channels.any fun c => c.settings.input = some d

/-- R159: the latches of describers that no channel names are clear. -/
def clearLatches (u : Description) : Description :=
  { u with describers := u.describers.mapIdx fun d r => { r with latch := r.latch && describerNamed u.channels d } }

/-- R159: a change of zone or hall reported to the Zone unit. -/
def reportChannel (old new : ChannelSettings) (s : State) : State :=
  if old.zone = new.zone ∧ old.hall = new.hall then s
  else { s with mail := { s.mail with channelChanges := s.mail.channelChanges ++ [⟨old.zone, new.zone⟩] } }

/-- R159: an accepted DESC_SET. -/
def setChannelSettings (c : Fin 4) (new : ChannelSettings) (s : State) : State :=
  let ch := channelOf s c
  let t := setChannel c { ch with settings := new } s
  handTallies (reportChannel ch.settings new (setDescription (clearLatches t.description) t))

/-- R159, test 3: the present hall and the assigned one are DARK in the unit's view. -/
def channelDark (s : State) (c : Fin 4) (ps : List Byte) : Bool :=
  ((channelOf s c).settings.hall :: (nameAt hallNames ps 2).toList).all fun h =>
    (s.description.view.get h).phase = .dark

/-- R159. -/
def descSet (ps : List Byte) (s : State) : Answer :=
  match (finUpTo 4)[natAt ps 0]? with
  | none => refuse .range s
  | some c =>
    if saving s then refuse .busy s
    else if !channelDark s c ps then refuse .state s
    else
      match readChannelSettings (ps.drop 1) with
      | some v => accept v.2 [] (setChannelSettings c v.1 s)
      | none => refuse .range s

/-- R170, Control Ports: the ten bytes of a channel. -/
def channelBytes (now : Clock) (ch : Channel) : List Byte :=
  writeChannelSettings ch.settings ++ [nameByte talkStateNames ch.talk] ++
    (match ch.expiry with
      | some t => bytes2 (leftUntil now t)
      | none => [0xFF, 0xFF])

/-- R170, Control Ports: the four bytes of a describer. -/
def describerBytes (r : Describer) : List Byte :=
  [byteOf r.keys, flagByte r.latch, flagByte (r.voice = .sound), nameByte talkStateNames r.tally]

/-- R170. -/
def descStatus (_ : List Byte) (s : State) : Answer :=
  accept false
    (s.description.channels.toList.flatMap (channelBytes s.clock) ++ s.description.describers.toList.flatMap describerBytes) s

/-- R160: the latch of a named describer set or cleared. -/
def talkLatch (flag : Bool) (ps : List Byte) (s : State) : Answer :=
  match (finUpTo 4)[natAt ps 0]? with
  | none => refuse .range s
  | some d =>
    if describerNamed s.description.channels d then
      accept false [] (changeDescriber d { s.description.describers.get d with latch := flag } s)
    else refuse .range s

/-! ## The commands -/

/-- DESC_SET. -/
def execDescSet (p : Port) (s : State) : Step := takeRequest 0x58 p s descSet

/-- DESC_STATUS. -/
def execDescStatus (p : Port) (s : State) : Step := takeRequest 0x59 p s descStatus

/-- TALK_OPEN. -/
def execTalkOpen (p : Port) (s : State) : Step := takeRequest 0x5A p s (talkLatch true)

/-- TALK_CLOSE. -/
def execTalkClose (p : Port) (s : State) : Step := takeRequest 0x5B p s (talkLatch false)

def takeTalkKey (rest : List TalkKey) (s : State) : State := { s with mail := { s.mail with talkKeys := rest } }

/-- TALK_KEY_PRESS (R156). -/
def execTalkKeyPress (s : State) : Step :=
  match s.mail.talkKeys with
  | k :: rest =>
    if k.event = .press then
      let r := s.description.describers.get k.describer
      .next (changeDescriber k.describer { r with keys := min 64 (r.keys + 1) } (takeTalkKey rest s))
    else .next s
  | [] => .next s

/-- TALK_KEY_RELEASE (R156): a RELEASE or a STUCK of a talk key. -/
def execTalkKeyRelease (s : State) : Step :=
  match s.mail.talkKeys with
  | k :: rest =>
    if k.event = .release ∨ k.event = .stuck then
      let r := s.description.describers.get k.describer
      .next (changeDescriber k.describer { r with keys := r.keys - 1 } (takeTalkKey rest s))
    else .next s
  | [] => .next s

/-- DESCRIBER_LEVEL_EVENT (R73, R156). -/
def execDescriberLevelEvent (d : Fin 4) (s : State) : Step :=
  match s.mail.describerLevels.get d with
  | v :: rest =>
    let t : State := { s with mail := { s.mail with describerLevels := s.mail.describerLevels.set d rest } }
    .next (changeDescriber d { s.description.describers.get d with voice := v } t)
  | [] => .next s

/-- DESC_PHASE_EVENT (R157, R161): the view, then every channel of the hall. -/
def execDescPhaseEvent (s : State) : Step :=
  match s.mail.toDescription with
  | ev :: rest =>
    let view := s.description.view.set ev.hall ⟨ev.new, ev.segment.map fun g => g.2.2⟩
    let t : State := { s with mail := { s.mail with toDescription := rest } }
    .next (evaluateAll (fun ch => ch.hall = ev.hall) (setDescription { t.description with view := view } t))
  | [] => .next s

/-- DESC_STACK_REPORT (R161): every channel whose zone the report lists as changed. -/
def execDescStackReport (s : State) : Step :=
  match s.mail.zoneToDescription with
  | r :: rest =>
    let t : State := { s with mail := { s.mail with zoneToDescription := rest } }
    .next (evaluateAll (fun ch => zoneIn (descZone ch.zone) r.zones) t)
  | [] => .next s

/-- GRACE_EXPIRY (R165). -/
def execGraceExpiry (c : Fin 4) (s : State) : Step :=
  let ch := channelOf s c
  match ch.talk, ch.expiry with
  | .grace, some t => if reached s.clock t then .next (enter c .cut none (withdraw c s)) else .next s
  | _, _ => .next s

end Sys2Proof.Machine
end

