-- ==== Sys2Proof/Machine/Overlays.lean ====
section
/-! DEFINITION. OVERLAY_PUSH and OVERLAY_REMOVAL: a push or a removal that a unit sends the Zone unit, taken there as
a step of its own (spec/02, R38, R39; log 9). Only the Call unit and the Description unit send them, so the step
comes about where the owner named would send just that push or removal now; otherwise nothing is sent. -/

namespace Sys2Proof.Machine

/-- R139: an earlier QUEUED call names one of the call's zones. -/
def heldOff (queue : List Call) (c : Call) : Bool :=
  (queue.takeWhile fun d => d.id != c.id).any fun d => isQueued d && d.targets &&& c.targets != 0

/-- R140: the push is the one that starts the call, from a free resource, with no earlier call in the way. -/
def isCallPush (s : State) (c : Call) (q : PushRequest) : Bool :=
  isQueued c && !heldOff s.call.queue c &&
    (match freeResource s.call c.content with
     | some r => q = callPush c r
     | none => false)

/-- R161: the push is the one that the channel's evaluation sends. -/
def isChannelPush (s : State) (c : Fin 4) (q : PushRequest) : Bool :=
  verdictOf s c = .tryPush &&
    (match (channelOf s c).settings.input with
     | some d => q = channelPush c (channelOf s c).settings d
     | none => false)

/-- OVERLAY_PUSH (R38, R140, R161). -/
def execOverlayPush (q : PushRequest) (s : State) : Step :=
  match q.owner with
  | .call id =>
    match findCall s id with
    | some c => if isCallPush s c q then .next (startCall c q.source s).2 else .next s
    | none => .next s
  | .channel c => if isChannelPush s c q then .next (evaluate s c) else .next s

/-- R147: the content of a started call has ended: its player has given the last phrase of the last pass, or the
generator the last strike. -/
def contentEnded (s : State) (c : Call) : Bool :=
  match c.state with
  | .started (.player n) _ _ =>
    match s.call.players.get n with
    | some p => p.stage = .ended && (phraseTaken s p).isNone
    | none => false
  | .started .chime _ _ =>
    match s.call.chime with
    | some g => strikeOver g && g.afterStrike.isNone
    | none => false
  | _ => false

/-- R162, R164: the channel's evaluation removes its overlay. A grace that runs out removes it in GRACE_EXPIRY (R165). -/
def wouldWithdraw (s : State) (c : Fin 4) : Bool :=
  match verdictOf s c with
  | .leave _ => true
  | _ => false

/-- An owner holds no entry on any of some zones. -/
def absentFrom (u : ZoneUnit) (owner : Owner) (zones : ZoneSet) : Bool := (zonesOf zones).all fun z => !holdsOn u owner z

/-- OVERLAY_REMOVAL (R39, R147, R162–R164). A removal that finds no entry of its owner is answered NOT_PRESENT. -/
def execOverlayRemoval (owner : Owner) (zones : ZoneSet) (s : State) : Step :=
  if absentFrom s.zoneUnit owner zones then .next (remove owner zones s)
  else
    match owner with
    | .call id =>
      match findCall s id with
      | some c => if contentEnded s c && zones = c.targets then .next (endWithPass .done c s) else .next s
      | none => .next s
    | .channel c =>
      if wouldWithdraw s c && zones = oneZone (descZone (channelOf s c).settings.zone) then .next (evaluate s c)
      else .next s

end Sys2Proof.Machine
end

