-- ==== Sys2Proof/Machine/Panel.lean ====
section
/-! DEFINITION. The Panel unit: the key scanner, the delivery of key events, the lamp drivers, and the meanings of its
requests, sweeps and frames (spec/06, R111–R128). -/

namespace Sys2Proof.Machine

def setPanel (u : Panel) (s : State) : State := { s with panel := u }

def keyOf (s : State) (k : Fin 64) : KeyRecord := s.panel.keys.get k

def setKey (k : Fin 64) (r : KeyRecord) (s : State) : State :=
  setPanel { s.panel with keys := s.panel.keys.set k r } s

/-! ## Delivery of key events (R118) -/

/-- R85, R118: the kinds that an entrance role's rules take; the others do nothing and are not kept. -/
def entranceTakes : Role → KeyEvent → Bool
  | .add _, .press | .add _, .again => true
  | .remove _, .press | .remove _, .long => true
  | .done _, .press => true
  | .usher _, .press | .usher _, .long => true
  | _, _ => false

/-- R118: an event of the key at a position, delivered under a role. -/
def deliver (k : Fin 64) (role : Role) (event : KeyEvent) (s : State) : State :=
  match role with
  | .none => s
  | .talk d =>
    match event with
    | .press | .release | .stuck => { s with mail := { s.mail with talkKeys := s.mail.talkKeys ++ [⟨d, event⟩] } }
    | _ => s
  | .portKey p =>
    match event with
    | .press | .long | .release =>
      offerTo (onlyPort p) kindKey (byteOf k.val) (nameByte keyEventNames event) none s
    | _ => s
  | _ =>
    if entranceTakes role event then { s with mail := { s.mail with entranceKeys := s.mail.entranceKeys ++ [⟨k, role, event⟩] } }
    else s

/-! ## The scanner (R111–R116) -/

/-- R113: a key that counts as held. -/
def heldKey (r : KeyRecord) : Bool := r.state = .down || r.state = .longHeld || r.state = .stuck

/-- The key at a row and a column. -/
def keyAt (r c : Fin 8) : Fin 64 := ⟨8 * r.val + c.val, by omega⟩

def rowOf (k : Fin 64) : Fin 8 := ⟨k.val / 8, by omega⟩
def columnOf (k : Fin 64) : Fin 8 := ⟨k.val % 8, by omega⟩

/-- R113: the key would complete a rectangle of held keys. -/
def completesRectangle (keys : Table KeyRecord 64) (k : Fin 64) : Bool :=
  let r := rowOf k
  let c := columnOf k
  (finUpTo 8).any fun r2 => r2 != r && heldKey (keys.get (keyAt r2 c)) &&
    (finUpTo 8).any fun c2 => c2 != c && heldKey (keys.get (keyAt r c2)) && heldKey (keys.get (keyAt r2 c2))

/-- R121: the timings in ms. -/
def ScanTimings.longMs (t : ScanTimings) : Nat := 100 * t.long
def ScanTimings.stuckMs (t : ScanTimings) : Nat := 1000 * t.stuck

/-- R112–R116: a key in DOWN, LONG_HELD or STUCK at a sweep: its debounce and hold counts, then what is due. A release
accepted at a sweep is that sweep's one event (log 15); STUCK stands in place of a REPEAT (R115). -/
def sweepHeld (t : ScanTimings) (down : Bool) (r : KeyRecord) : KeyRecord :=
  let count := if down then 0 else r.count + 1
  let hold := if r.state = .stuck then r.hold else min t.stuckMs (r.hold + 1)
  let due : Option KeyDue :=
    if t.debounce ≤ count then some .release
    else if r.state = .stuck then none
    else if t.stuckMs ≤ hold then some .stuck
    else if r.state = .down then (if t.longMs ≤ hold then some .long else none)
    else if r.next ≤ hold then some .again
    else none
  { r with count := count, hold := hold, due := due }

/-- R112: a key in UP or ARMING at a sweep. -/
def sweepFree (t : ScanTimings) (down : Bool) (r : KeyRecord) : KeyRecord :=
  if down then
    let count := r.count + 1
    { r with state := .arming, count := count, due := if t.debounce ≤ count then some .debounced else none }
  else { r with state := .up, count := 0, due := none }

/-- R111: a key record brought up to date from a sweep. A GHOST key waits for the end of the sweep (R113). -/
def sweepKey (t : ScanTimings) (down : Bool) (r : KeyRecord) : KeyRecord :=
  match r.state with
  | .up => sweepFree t down { r with count := 0 }
  | .arming => sweepFree t down r
  | .ghost => r
  | _ => sweepHeld t down r

/-- R113: a GHOST key at the end of a sweep. -/
def recheckKey (keys : Table KeyRecord 64) (down : BitVec 64) (k : Fin 64) (r : KeyRecord) : KeyRecord :=
  if r.state = .ghost && !completesRectangle keys k then
    { r with state := if down.getLsbD k.val then .arming else .up, count := 0 }
  else r

/-- R113: the end of a sweep. -/
def endSweep (u : Panel) : Panel :=
  { u with keys := u.keys.mapIdx (recheckKey u.keys u.down), sweepOpen := false }

/-- R115: the STUCK_KEY notice. -/
def stuckNotice (k : Fin 64) (role : Role) (s : State) : State := offer kindStuckKey (byteOf k.val) (writeRole role) s

/-- A key in UP with its counts at 0. -/
def upKey : KeyRecord := ⟨.up, 0, 0, 0, none⟩

/-- R112–R116: what a sweep made due on a key comes about. -/
def performDue (s : State) (k : Fin 64) : State :=
  let r := keyOf s k
  let t := s.panel.timings
  let role := s.panel.roles.get k
  match r.due with
  | none => s
  | some .debounced =>
    if completesRectangle s.panel.keys k then setKey k { r with state := .ghost, count := 0, due := none } s
    else deliver k role .press (setKey k { r with state := .down, count := 0, hold := 0, due := none } s)
  | some .long =>
    deliver k role .long (setKey k { r with state := .longHeld, next := t.longMs + t.again, due := none } s)
  | some .again => deliver k role .again (setKey k { r with next := r.next + t.again, due := none } s)
  | some .stuck =>
    stuckNotice k role (deliver k role .stuck (setKey k { r with state := .stuck, due := none } s))
  | some .release =>
    let v := setKey k upKey s
    if r.state = .stuck then v else deliver k role .release v

/-- Nothing that the sweep made due is left: the sweep ends. -/
def closeSweep (s : State) : State :=
  if s.panel.sweepOpen && s.panel.keys.all (fun r => r.due.isNone) then setPanel (endSweep s.panel) s else s

/-- R111: the events of a sweep come in position order, up to a position. -/
def performUpTo (k : Fin 64) (s : State) : State :=
  closeSweep (((finUpTo 64).filter fun j => decide (j.val ≤ k.val)).foldl performDue s)

/-- The rest of a sweep, before the next one begins (log 8). -/
def finishSweep (s : State) : State := closeSweep ((finUpTo 64).foldl performDue s)

/-- A step of a key comes about when the sweep made just that due. -/
def keyStep (due : KeyDue) (k : Fin 64) (s : State) : Step :=
  if (keyOf s k).due = some due then .next (performUpTo k s) else .next s

/-- KEY_SCAN_SWEEP (R111–R116): the first follows the first block mixed. -/
def execKeyScanSweep (down : BitVec 64) (s : State) : Step :=
  if s.engine.started then
    let t := finishSweep s
    let u := t.panel
    let keys := u.keys.mapIdx fun k r => sweepKey u.timings (down.getLsbD k.val) r
    .next (closeSweep (setPanel { u with keys := keys, down := down, sweepOpen := true } t))
  else .next s

/-- KEY_DEBOUNCE_DONE (R112, R113). -/
def execKeyDebounceDone (k : Fin 64) (s : State) : Step := keyStep .debounced k s

/-- KEY_LONG (R114). -/
def execKeyLong (k : Fin 64) (s : State) : Step := keyStep .long k s

/-- KEY_REPEAT (R114). -/
def execKeyRepeat (k : Fin 64) (s : State) : Step := keyStep .again k s

/-- KEY_STUCK (R115). -/
def execKeyStuck (k : Fin 64) (s : State) : Step := keyStep .stuck k s

/-- KEY_RELEASE (R116). -/
def execKeyRelease (k : Fin 64) (s : State) : Step := keyStep .release k s

/-! ## Requests (R119–R122, R128) -/

/-- R120: a position whose role changes. -/
def changeRole (k : Fin 64) (role : Role) (s : State) : State :=
  let old := s.panel.roles.get k
  let r := keyOf s k
  if role = old then s
  else
    let t := setPanel { s.panel with roles := s.panel.roles.set k role } s
    if r.state = .down ∨ r.state = .longHeld then
      let state : KeyState := if s.panel.down.getLsbD k.val then .arming else .up
      deliver k old .release (setKey k { upKey with state := state } t)
    else t

/-- R120: roles written from a position onward. The RELEASE events of several keys whose role changes are delivered in
position order, the model's choice: R120 gives no order among them (log 41). -/
def writeRoles (first : Nat) (roles : List Role) (s : State) : State :=
  (finUpTo 64).foldl (fun t k =>
    if first ≤ k.val then
      match roles[k.val - first]? with
      | some r => changeRole k r t
      | none => t
    else t) s

/-- R120. A length that disagrees with the count is refused with the tests of point 1 (R191; log 30). -/
def keymapSet (ps : List Byte) (s : State) : Answer :=
  let first := natAt ps 0
  let n := natAt ps 1
  if 63 < first ∨ n = 0 ∨ 32 < n ∨ 64 < first + n ∨ ps.length ≠ 2 + n then refuse .range s
  else if saving s then refuse .busy s
  else if !bothHallsDark s then refuse .state s
  else
    match readRoles (ps.drop 2) with
    | some roles => accept false [] (writeRoles first roles s)
    | none => refuse .range s

/-- R121. -/
def scanSet (ps : List Byte) (s : State) : Answer :=
  if saving s then refuse .busy s
  else if !bothHallsDark s then refuse .state s
  else
    let t := readTimings ps
    accept t.2 [] (setPanel { s.panel with timings := t.1 } s)

/-- R122. -/
def keyStatus (ps : List Byte) (s : State) : Answer :=
  let first := natAt ps 0
  let u := s.panel
  if 63 < first then refuse .range s
  else
    let shown := (finUpTo 64).filter fun k => first ≤ k.val && decide (k.val < first + 16)
    accept false
      ([byteOf first] ++ shown.flatMap (fun k => [nameByte keyStateNames (u.keys.get k).state, writeRole (u.roles.get k)]) ++
        [byteOf (u.keys.count fun r => r.state = .stuck), byteOf (u.keys.count fun r => r.state = .ghost)] ++
        writeTimings u.timings) s

def setLamp (l : Fin 16) (r : Lamp) (s : State) : State :=
  setPanel { s.panel with lamps := s.panel.lamps.set l r } s

/-- R128: the code of CANCEL in the list of lamp patterns. -/
def cancelCode : Nat := 5

/-- R128. -/
def lampTest (p : Port) (ps : List Byte) (s : State) : Answer :=
  match (finUpTo 16)[natAt ps 0]? with
  | none => refuse .range s
  | some l =>
    let code := natAt ps 1
    let r := s.panel.lamps.get l
    if cancelCode < code then refuse .range s
    else if p = .booth && decide (l.val < 12) then refuse .denied s
    else
      match nameAt patternNames ps 1 with
      | none => accept false [] (setLamp l { r with testNew := some none } s)
      | some pattern =>
        let n := clampNat 1 30 (natAt ps 2)
        accept n.2 [] (setLamp l { r with testNew := some (some ⟨pattern, 0, 8 * n.1⟩) } s)

/-- KEYMAP_SET. -/
def execKeymapSet (p : Port) (s : State) : Step := takeRequest 0x40 p s keymapSet

/-- SCAN_SET. -/
def execScanSet (p : Port) (s : State) : Step := takeRequest 0x41 p s scanSet

/-- KEY_STATUS. -/
def execKeyStatus (p : Port) (s : State) : Step := takeRequest 0x42 p s keyStatus

/-- LAMP_TEST. -/
def execLampTest (p : Port) (s : State) : Step := takeRequest 0x43 p s (lampTest p)

/-! ## The lamps (R123–R128) -/

/-- R125. -/
def entrancePattern : EntranceLamp → Pattern
  | .closing => .fast
  | .admitting => .full
  | .hold => .dim
  | .usher => .slow
  | .off => .off

/-- R126: the frames CUT flashes (log 24). -/
def cutFrames : Nat := 16

/-- R126. -/
def tallyPattern (t : TallyRecord) : Pattern :=
  match t.offered with
  | .live => .full
  | .grace => .fast
  | .wait => .slow
  | .cut => if t.cut < cutFrames then .fast else .dim
  | .muted => .dim
  | .idle | .off => .off

/-- R124: a pattern's brightness in a frame. -/
def patternLevel : Pattern → Nat → Nat
  | .off, _ => 0
  | .dim, _ => 64
  | .full, _ => 255
  | .slow, f => if f % 8 < 4 then 255 else 0
  | .fast, f => if f % 2 = 0 then 255 else 0

def lampOf (l : Fin 12) : Fin 16 := ⟨l.val, by omega⟩
def tallyLamp (d : Fin 4) : Fin 16 := ⟨d.val + 12, by omega⟩

/-- Which unit's state a lamp shows. -/
def lampOwner (l : Fin 16) : Fin 12 ⊕ Fin 4 :=
  if h : l.val < 12 then .inl ⟨l.val, h⟩ else .inr ⟨l.val - 12, by omega⟩

/-- R127: an overlay that has shown its eight frames is gone. -/
def Lamp.endRefuse (r : Lamp) : Lamp := if r.refuse = some 0 then { r with refuse := none } else r

/-- R128: a test that has shown its frames is gone. -/
def Lamp.endTest (r : Lamp) : Lamp :=
  match r.test with
  | some t => if t.left = 0 then { r with test := none } else r
  | none => r

/-- R125: a pattern that differs from the present one starts at frame 0. -/
def Lamp.take (p : Pattern) (r : Lamp) : Lamp := if p = r.pattern then r else { r with pattern := p, frame := 0 }

/-- R123, R127, R128: an overlay and a test that wait for the boundary begin. -/
def Lamp.begin (r : Lamp) : Lamp :=
  { r with
    refuse := if r.refuseNew then some 8 else r.refuse
    refuseNew := false
    test := r.testNew.getD r.test
    testNew := none }

/-- R124: the brightness a lamp shows. -/
def Lamp.shown (r : Lamp) : Nat :=
  match r.test, r.refuse with
  | some t, _ => patternLevel t.pattern t.frame
  | none, some (n + 1) => patternLevel .fast (7 - n)
  | none, _ => patternLevel r.pattern r.frame

/-- R124: the frame shown: the brightness set, and every count one frame on, seen or unseen. -/
def Lamp.show (r : Lamp) : Lamp :=
  { r with
    brightness := r.shown
    frame := (r.frame + 1) % 8
    refuse := r.refuse.map fun n => n - 1
    test := r.test.map fun t => ⟨t.pattern, (t.frame + 1) % 8, t.left - 1⟩ }

/-- R126: a tally lamp's record at a boundary: CUT offered anew starts again. -/
def TallyRecord.begin (t : TallyRecord) : TallyRecord := if t.cutNew then { t with cut := 0, cutNew := false } else t

/-- R126: a frame shown in CUT. -/
def TallyRecord.show (t : TallyRecord) : TallyRecord :=
  if t.offered = .cut then { t with cut := min cutFrames (t.cut + 1) } else { t with cut := 0 }

/-- R124, R126: a lamp at a frame boundary, with the records its offered state stands in. -/
def frameLamp (u : Panel) (l : Fin 16) (r : Lamp) : Lamp :=
  let q := r.endRefuse.endTest
  match lampOwner l with
  | .inl e => ((q.take (entrancePattern (u.entranceLamps.get e))).begin).show
  | .inr d =>
    let t := u.tallies.get d
    let fresh := if t.cutNew then { q with pattern := .fast, frame := 0 } else q.take (tallyPattern t)
    fresh.begin.show

/-- LAMP_FRAME (R123–R128): a frame boundary; the first comes with the first block mixed. -/
def execLampFrame (s : State) : Step :=
  if s.engine.started then
    .next (setPanel
      { s.panel with lamps := s.panel.lamps.mapIdx (frameLamp s.panel), tallies := s.panel.tallies.map fun t => t.begin.show } s)
  else .next s

/-- LAMP_STATE_OFFER (R125). -/
def execLampStateOffer (s : State) : Step :=
  match s.mail.lamps with
  | .offer l state :: rest =>
    .next { s with
      panel := { s.panel with entranceLamps := s.panel.entranceLamps.set l state }
      mail := { s.mail with lamps := rest } }
  | _ => .next s

/-- TALLY_STATE_OFFER (R126): a state other than CUT sets the cut count to 0. -/
def execTallyStateOffer (s : State) : Step :=
  match s.mail.tallies with
  | e :: rest =>
    let t := s.panel.tallies.get e.1
    let r : TallyRecord := ⟨e.2, if e.2 = .cut then t.cut else 0, e.2 = .cut⟩
    .next { s with
      panel := { s.panel with tallies := s.panel.tallies.set e.1 r }
      mail := { s.mail with tallies := rest } }
  | [] => .next s

/-- REFUSE_INDICATION (R127). -/
def execRefuseIndication (s : State) : Step :=
  match s.mail.lamps with
  | .refuse l :: rest =>
    .next (setLamp (lampOf l) { s.panel.lamps.get (lampOf l) with refuseNew := true } { s with mail := { s.mail with lamps := rest } })
  | _ => .next s

/-- REFUSE_OVERLAY_END (R127). -/
def execRefuseOverlayEnd (l : Fin 16) (s : State) : Step := .next (setLamp l (s.panel.lamps.get l).endRefuse s)

/-- LAMP_TEST_END (R128). -/
def execLampTestEnd (l : Fin 16) (s : State) : Step := .next (setLamp l (s.panel.lamps.get l).endTest s)

/-- CUT_FLASH_END (R126): sixteen frames shown FAST, and the lamp changes to DIM. -/
def execCutFlashEnd (d : Fin 4) (s : State) : Step :=
  let t := s.panel.tallies.get d
  let l := tallyLamp d
  if t.offered = .cut && cutFrames ≤ t.cut && !t.cutNew then .next (setLamp l ((s.panel.lamps.get l).take .dim) s)
  else .next s

end Sys2Proof.Machine
end

