-- ==== Sys2Proof/Machine/Ports.lean ====
section
/-! DEFINITION. The three control ports: the I2C target, the frame check, the router, and the meanings of the bus
commands (spec/10, R186–R194). -/

namespace Sys2Proof.Machine

/-- R186: a port acknowledges this address, once start-up is done. -/
def acknowledges (s : State) (addr : BitVec 7) : Bool :=
  s.engine.started && addr == 0x2C#7 + s.straps.setWidth 7

/-- R188: the most data bytes a write stores. -/
def bufferLimit : Nat := 63

/-- What the lines show when an address is not acknowledged. -/
def silentBus : Bus := ⟨false, 0, [], none⟩

def setPort (p : Port) (r : PortRecord) (s : State) : State := { s with ports := s.ports.set p r }

def setBus (p : Port) (b : Bus) (s : State) : State :=
  setPort p { s.ports.get p with bus := b } s

/-- R189: the frame check. -/
def goodFrame (r : PortRecord) : Bool :=
  !r.overflow && decide (3 ≤ r.buffer.length) && decide (natAt r.buffer 2 ≤ 60) &&
    decide (r.buffer.length = 3 + natAt r.buffer 2)

/-- R191: what the router makes of a good frame: the status of the first failed test, or the request. -/
def route (p : Port) (code : Byte) (ps : List Byte) : Except Status Request :=
  match requestRow code with
  | none => .error .unknown
  | some row =>
    if !row.permits p then .error .denied
    else match row.length with
      | some n => if ps.length = n then .ok ⟨code, ps⟩ else .error .range
      | none => .ok ⟨code, ps⟩

/-- The port back in its return state, its receive buffer emptied (R189, R190): a set-aside reply is given back. -/
def abandonWrite (r : PortRecord) : PortRecord :=
  { r with
    state := match r.ret with
      | .idle => .idle
      | .ready => .ready
    buffer := []
    overflow := false
    reply := r.setAside
    setAside := none }

/-- The port READY with a reply that the router has built at once. -/
def readyWith (r : PortRecord) (reply : Reply) : PortRecord :=
  { r with state := .ready, buffer := [], overflow := false, reply := some reply, setAside := none, tag := none }

/-- The port PENDING with a request handed to its unit. -/
def pendingWith (r : PortRecord) (tag : Byte) (request : Request) : PortRecord :=
  { r with state := .pending, buffer := [], overflow := false, reply := none, setAside := none, tag := some tag, request := some request }

/-- R189: the end of a write, on the port's record. -/
def endWrite (p : Port) (r : PortRecord) : PortRecord :=
  if r.state ≠ .receiving then r
  else if r.buffer = [] then abandonWrite r
  else
    let tag := byteAt r.buffer 1
    if goodFrame r then
      match route p (byteAt r.buffer 0) (r.buffer.drop 3) with
      | .ok request => pendingWith r tag request
      | .error status => readyWith r ⟨status, tag, []⟩
    else readyWith r ⟨.frame, tag, []⟩

/-- R188: a START in the write direction and the data bytes that follow it, on a port that is not RECEIVING. -/
def beginWrite (data : List Byte) (r : PortRecord) : PortRecord :=
  match r.state with
  | .pending => { r with bus := ⟨true, 0, [], none⟩ }
  | .ready =>
    { r with
      state := .receiving
      ret := .ready
      setAside := r.reply
      reply := none
      buffer := data.take bufferLimit
      overflow := decide (bufferLimit < data.length)
      bus := ⟨true, (data.take bufferLimit).length, [], none⟩ }
  | _ =>
    { r with
      state := .receiving
      ret := .idle
      setAside := none
      buffer := data.take bufferLimit
      overflow := decide (bufferLimit < data.length)
      bus := ⟨true, (data.take bufferLimit).length, [], none⟩ }

/-- R192: the reply that a port sends with no request since the reset, and the one it sends while it is PENDING (R193). -/
def noneReply : Reply := ⟨.noRequest, 0, []⟩
def notReady (r : PortRecord) : Reply := ⟨.notReady, r.tag.getD 0, []⟩

/-- R192, R193: a read that is acknowledged, on a port that is not RECEIVING. -/
def beginRead (count : Nat) (r : PortRecord) : Bus :=
  match r.state with
  | .ready => ⟨true, 0, sendBytes (r.reply.getD noneReply) count, none⟩
  | .pending =>
    match r.mode with
    | .noStretch => ⟨true, 0, sendBytes (notReady r) count, none⟩
    | .stretch => ⟨true, 0, [], some count⟩
  | _ => ⟨true, 0, sendBytes noneReply count, none⟩

/-- A START on a port: while start-up runs nothing is acknowledged and nothing changes; otherwise a repeated START
first ends a write in progress (R189, log 20). -/
def startOn (p : Port) (s : State) : PortRecord := endWrite p (s.ports.get p)

/-- I2C_WRITE_START (R186, R188). -/
def execI2cWriteStart (p : Port) (addr : BitVec 7) (data : List Byte) (s : State) : Step :=
  let r := startOn p s
  if acknowledges s addr then .next (setPort p (beginWrite data r) s)
  else .next (setPort p { r with bus := silentBus } s)

/-- I2C_WRITE_END (R189, R191). -/
def execI2cWriteEnd (p : Port) (s : State) : Step := .next (setPort p (endWrite p (s.ports.get p)) s)

/-- WRITE_TIMEOUT (R190). -/
def execWriteTimeout (p : Port) (s : State) : Step :=
  let r := s.ports.get p
  if r.state = .receiving then .next (setPort p (abandonWrite r) s) else .next s

/-- I2C_READ (R186, R192, R193). -/
def execI2cRead (p : Port) (addr : BitVec 7) (count : Nat) (s : State) : Step :=
  let r := startOn p s
  if acknowledges s addr then .next (setPort p { r with bus := beginRead count r } s)
  else .next (setPort p { r with bus := silentBus } s)

/-- STRETCH_LIMIT (R193). -/
def execStretchLimit (p : Port) (s : State) : Step :=
  let r := s.ports.get p
  match r.bus.stretch with
  | some count => .next (setBus p ⟨r.bus.addressAck, r.bus.dataAcks, sendBytes (notReady r) count, none⟩ s)
  | none => .next s

end Sys2Proof.Machine
end

