-- ==== Sys2Proof/Machine/Programme.lean ====
section
/-! DEFINITION. The Programme unit: the running orders, the phase machine, the call plans, and the meanings of its
requests and events (spec/01, R1–R28). -/

namespace Sys2Proof.Machine

def hallOf (s : State) (h : Hall) : HallRecord := s.programme.halls.get h

def setHall (h : Hall) (r : HallRecord) (s : State) : State :=
  { s with programme := { s.programme with halls := s.programme.halls.set h r } }

/-- The segment at a hall's position, when there is one. -/
def HallRecord.segment (r : HallRecord) : Option Segment := r.order[r.position]?

def hallByte (h : Hall) : Byte := nameByte hallNames h

/-! ## The phase event and what goes to the Call unit -/

/-- Something handed to the Call unit (R20, R24, R25). -/
def orderCall (o : ProgrammeOrder) (s : State) : State :=
  { s with mail := { s.mail with toCall := s.mail.toCall ++ [o] } }

/-- R7: the phase event of a change to a record. -/
def phaseEvent (h : Hall) (old : Phase) (r : HallRecord) (ended : Option Admission) (cause : Cause) : PhaseEvent where
  hall := h
  old := old
  new := r.phase
  position := r.position
  count := r.order.length
  segment := r.segment.map fun g => (g.kind, g.admission, g.desc)
  endedAdmission := ended
  cause := cause

/-- R7: a phase event handed to the four units, and its PHASE notice offered. -/
def handPhase (ev : PhaseEvent) (s : State) : State :=
  let m := s.mail
  offer kindPhase (hallByte ev.hall) (nameByte phaseNames ev.new)
    { s with mail :=
      { m with
        toAdmission := m.toAdmission ++ [ev]
        toDescription := m.toDescription ++ [ev]
        toZone := m.toZone ++ [ev]
        toCall := m.toCall ++ [.phase ev] } }

/-- A hall's record replaced by one of another phase (R7). -/
def changePhase (h : Hall) (r : HallRecord) (ended : Option Admission) (cause : Cause) (s : State) : State :=
  handPhase (phaseEvent h (hallOf s h).phase r ended cause) (setHall h r s)

/-! ## Call plans -/

/-- R25: the due span ends: the record's part, and the Call unit asked to cancel the hall's QUEUED PLAN calls. -/
def HallRecord.endSpan (r : HallRecord) : HallRecord := { r with due := none, steps := [], dueOffered := false }
def cancelPlanCalls (h : Hall) (s : State) : State := orderCall (.cancelPlan h) s

/-- R23: a plan's step entries against a due time, without those already past. -/
def planEntries (now due : Clock) (plan : Fin 8) (steps : List PlanStep) : List PendingStep :=
  let all := (List.range steps.length).zip steps |>.map fun e =>
    (⟨plan, e.1, earlierBy due (ds e.2.offset)⟩ : PendingStep)
  all.filter fun e => !reached now e.fire || e.fire = now

/-- R23: entries in order of fire time, then of step index: each goes before the first that fires later. -/
def insertStep (now : Clock) (e : PendingStep) : List PendingStep → List PendingStep
  | [] => [e]
  | x :: rest => if (e.fire - now).toNat < (x.fire - now).toNat then e :: x :: rest else x :: insertStep now e rest

def sortSteps (now : Clock) (l : List PendingStep) : List PendingStep := l.foldl (fun acc e => insertStep now e acc) []

/-- R24: the call of a plan step. -/
def planSubmission (h : Hall) (due : Clock) (e : PendingStep) (st : PlanStep) : Submission where
  origin := .plan e.plan e.step
  hall := h
  priority := st.priority
  content := st.content
  mode := st.mode
  targets := st.targets
  deadline := due

/-- R24: the entry leaves the pending step list and its step is submitted. -/
def fireStep (h : Hall) (s : State) : State :=
  let r := hallOf s h
  match r.steps, r.due with
  | e :: rest, some due =>
    let t := setHall h { r with steps := rest } s
    match (s.programme.plans.get e.plan)[e.step]? with
    | some st => orderCall (.submit (planSubmission h due e st)) t
    | none => t
  | _, _ => s

/-- The entry at the front of a hall's pending step list has come due. -/
def stepDue (h : Hall) (s : State) : Bool :=
  match (hallOf s h).steps with
  | e :: _ => reached s.clock e.fire
  | [] => false

/-- R23: entries whose fire time is the time of the scheduling fire at once; a plan holds at most six. -/
def fireAtOnce (h : Hall) : Nat → State → State
  | 0, s => s
  | n + 1, s => if stepDue h s then fireAtOnce h n (fireStep h s) else s

/-- R23: a plan scheduled against a due time, in the record. -/
def HallRecord.schedule (r : HallRecord) (plans : Table (List PlanStep) 8) (now due : Clock) : Option (Fin 8) → HallRecord
  | none => r
  | some plan => { r with steps := sortSteps now (planEntries now due plan (plans.get plan)) }

/-! ## The running order (R4–R6) -/

/-- R4. -/
def orderClear (ps : List Byte) (s : State) : Answer :=
  match nameAt hallNames ps 0 with
  | none => refuse .range s
  | some h =>
    let r := hallOf s h
    if r.phase ≠ .dark then refuse .state s
    else accept false [] (setHall h { r with order := [], position := 0 } s)

/-- R5: segments written at consecutive indexes, replacing what stood there. -/
def writeAt (order : List Segment) (first : Nat) (new : List Segment) : List Segment :=
  order.take first ++ new ++ order.drop (first + new.length)

/-- R1: the most segments of an order. -/
def orderLimit : Nat := 40

/-- R5. -/
def orderPut (ps : List Byte) (s : State) : Answer :=
  let first := natAt ps 1
  let n := natAt ps 2
  match nameAt hallNames ps 0 with
  | none => refuse .range s
  | some h =>
    let r := hallOf s h
    if n = 0 ∨ 8 < n ∨ ps.length ≠ 3 + 6 * n then refuse .range s
    else if r.phase ≠ .dark then refuse .state s
    else if r.order.length < first ∨ orderLimit < first + n then refuse .range s
    else
      match readSegments (ps.drop 3) n with
      | none => refuse .range s
      | some g => accept g.2 [] (setHall h { r with order := writeAt r.order first g.1 } s)

/-- R6. -/
def orderAppend (ps : List Byte) (s : State) : Answer :=
  match nameAt hallNames ps 0, readSegment (ps.drop 1) with
  | some h, some g =>
    let r := hallOf s h
    if g.1.kind = .interval then refuse .range s
    else if r.phase = .dark then refuse .state s
    else if orderLimit ≤ r.order.length then refuse .full s
    else
      let q := { r with order := r.order ++ [g.1] }
      if r.phase = .ended then
        accept g.2 [] (changePhase h { q with phase := .onBreak, position := r.order.length } none .orderAppend s)
      else accept g.2 [] (setHall h q s)
  | _, _ => refuse .range s

/-! ## The phase machine (R8–R20) -/

/-- The faults of HALL_OPEN that name a segment (R8), coded as Control Ports codes them. -/
def segmentFault (plans : Table (List PlanStep) 8) (order : List Segment) (i : Nat) (g : Segment) : Option Nat :=
  let isInterval := decide (g.kind = .interval)
  let afterInterval := i != 0 && (match order[i - 1]? with | some p => decide (p.kind = .interval) | none => false)
  if i = 0 && isInterval then some 3
  else if i + 1 = order.length && isInterval then some 4
  else if isInterval && afterInterval then some 5
  else if isInterval && g.length.isNone then some 6
  else match g.plan with
    | some p => if plans.get p = [] then some 7 else none
    | none => none

/-- R8, test 3: the first fault from index 0 upward, with its index. -/
def orderFault (plans : Table (List PlanStep) 8) (order : List Segment) : Option (Nat × Nat) :=
  if order = [] then some (2, 0)
  else ((List.range order.length).zip order).findSome? fun e =>
    (segmentFault plans order e.1 e.2).map fun f => (f, e.1)

/-- R8: the fault of a HALL_OPEN and the index byte of its payload. -/
def openFault (h : Hall) (s : State) : Option (List Byte) :=
  let r := hallOf s h
  if r.phase ≠ .dark then some [0, 0xFF]
  else if storeOpen s then some [1, 0xFF]
  else (orderFault s.programme.plans r.order).map fun f => [byteOf f.1, byteOf f.2]

/-- R8, R9: the due-in, clamped, when one is given. -/
def dueIn (ps : List Byte) : Option Nat × Bool :=
  if wordAt ps 1 = 0xFFFF then (none, false)
  else
    let d := clampNat 60 5400 (wordAt ps 1)
    (some d.1, d.2)

/-- R9: the record that an accepted HALL_OPEN leaves. -/
def openedHall (r : HallRecord) (plans : Table (List PlanStep) 8) (now : Clock) (seconds : Option Nat) : HallRecord :=
  let q : HallRecord := { r with phase := .opened, position := 0, due := none, steps := [], dueOffered := false }
  match seconds with
  | none => q
  | some d =>
    let due := laterBy now (ds d)
    { q with due := some due }.schedule plans now due r.settings.preshow

/-- R8, R9. -/
def hallOpen (ps : List Byte) (s : State) : Answer :=
  match nameAt hallNames ps 0 with
  | none => refuse .range s
  | some h =>
    match openFault h s with
    | some fault => ⟨s, some (.state, fault)⟩
    | none =>
      let d := dueIn ps
      let r := openedHall (hallOf s h) s.programme.plans s.clock d.1
      accept d.2 [] (fireAtOnce h 6 (changePhase h r none .hallOpen s))

/-- R11, R12: an expected position, when it is present, is the hall's position. -/
def expectedMatches (ps : List Byte) (r : HallRecord) : Bool :=
  byteAt ps 1 == 0xFF || natAt ps 1 == r.position

/-- R10: a segment starts in OPEN or BREAK; the due span of OPEN ends. -/
def startSegment (h : Hall) (r : HallRecord) (g : Segment) (s : State) : State :=
  let fromOpen := r.phase = .opened
  let q := if fromOpen then r.endSpan else r
  let t := if fromOpen then cancelPlanCalls h s else s
  if g.kind = .interval then
    let due := laterBy s.clock (ds (g.length.getD 0))
    let i := { q with phase := .interval, due := some due, dueOffered := false }.schedule s.programme.plans s.clock due g.plan
    fireAtOnce h 6 (changePhase h i none .segStart t)
  else changePhase h { q with phase := .playing } none .segStart t

/-- R10, R11. With no segment at the position, which R6 and R8 rule out, it is refused STATE (log 23). -/
def segStart (ps : List Byte) (s : State) : Answer :=
  match nameAt hallNames ps 0 with
  | none => refuse .range s
  | some h =>
    let r := hallOf s h
    if !expectedMatches ps r then refuse .state s
    else
      match r.phase with
      | .opened | .onBreak =>
        match r.segment with
        | some g => accept false [] (startSegment h r g s)
        | none => refuse .state s
      | .interval =>
        let q := { r.endSpan with phase := .playing, position := r.position + 1 }
        accept false [] (changePhase h q none .segStart (cancelPlanCalls h s))
      | _ => refuse .state s

/-- R12: the phase after the end of a segment. -/
def phaseAfterEnd (r : HallRecord) : Phase := if r.position + 1 = r.order.length then .ended else .onBreak

/-- R12. -/
def segEnd (ps : List Byte) (s : State) : Answer :=
  match nameAt hallNames ps 0 with
  | none => refuse .range s
  | some h =>
    let r := hallOf s h
    let q := { r with phase := phaseAfterEnd r, position := r.position + 1 }
    let ended := r.segment.map Segment.admission
    if !expectedMatches ps r then refuse .state s
    else
      match r.phase with
      | .playing | .gap => accept false [] (changePhase h q ended .segEnd s)
      | .interval => accept false [] (changePhase h q.endSpan ended .segEnd (cancelPlanCalls h s))
      | _ => refuse .state s

/-- R14, R16: the current segment admits at gaps. -/
def admitsAtGaps (r : HallRecord) : Bool :=
  match r.segment with
  | some g => g.admission = .atGaps
  | none => false

/-- R14. -/
def gapMark (ps : List Byte) (s : State) : Answer :=
  match nameAt hallNames ps 0 with
  | none => refuse .range s
  | some h =>
    let r := hallOf s h
    if r.phase = .playing && admitsAtGaps r then accept false [] (changePhase h { r with phase := .gap } none .gapMark s)
    else refuse .state s

/-- R15. -/
def gapEnd (ps : List Byte) (s : State) : Answer :=
  match nameAt hallNames ps 0 with
  | none => refuse .range s
  | some h =>
    let r := hallOf s h
    if r.phase = .gap then accept false [] (changePhase h { r with phase := .playing } none .gapEnd s)
    else refuse .state s

/-- R20: the Programme unit's part of a teardown. -/
def teardown (h : Hall) (s : State) : State :=
  let r := hallOf s h
  changePhase h { r.endSpan with phase := .dark, position := 0 } none .hallDark (orderCall (.cancelHall h) s)

/-- R19. -/
def hallDarkRequest (ps : List Byte) (s : State) : Answer :=
  match nameAt hallNames ps 0, nameAt flagNames ps 1 with
  | some h, some force =>
    match (hallOf s h).phase with
    | .dark => accept false [] s
    | .opened | .ended => accept false [] (teardown h s)
    | _ => if force then accept false [] (teardown h s) else refuse .state s
  | _, _ => refuse .range s

/-! ## Plans, settings and status (R21, R27, R28) -/

/-- R21: a hall that is not DARK names the plan in its running order or holds steps of it. -/
def planInUse (plan : Fin 8) (s : State) : Bool :=
  bothHalls.any fun h =>
    let r := hallOf s h
    (r.phase != .dark && r.order.any fun g => g.plan = some plan) || r.steps.any fun e => e.plan = plan

def setPlan (plan : Fin 8) (steps : List PlanStep) (s : State) : State :=
  { s with programme := { s.programme with plans := s.programme.plans.set plan steps } }

/-- R21: a step written at an index, at most the present count. -/
def writeStep (steps : List PlanStep) (i : Nat) (st : PlanStep) : List PlanStep :=
  steps.take i ++ st :: steps.drop (i + 1)

/-- R21. The step-present flag and the step index are read as log 12 says. -/
def planPut (ps : List Byte) (s : State) : Answer :=
  let i := natAt ps 1
  match (finUpTo 8)[natAt ps 0]?, nameAt flagNames ps 2 with
  | some plan, some present =>
    let steps := s.programme.plans.get plan
    if ps.length ≠ (if present then 18 else 3) then refuse .range s
    else if saving s then refuse .busy s
    else if planInUse plan s then refuse .state s
    else if 5 < i ∨ steps.length < i then refuse .range s
    else if present then
      match readPlanStep (ps.drop 3) with
      | some st => accept st.2 [] (setPlan plan (writeStep steps i st.1) s)
      | none => refuse .range s
    else accept false [] (setPlan plan (steps.take i) s)
  | _, _ => refuse .range s

/-- R27. -/
def hallSet (ps : List Byte) (s : State) : Answer :=
  match nameAt hallNames ps 0 with
  | none => refuse .range s
  | some h =>
    if saving s then refuse .busy s
    else
      match readHallSettings (ps.drop 1) with
      | some v => accept v.2 [] (setHall h { hallOf s h with settings := v.1 } s)
      | none => refuse .range s

/-- R28, Control Ports: the window's state and cause in a status. -/
def windowBytes : Option Window → List Byte
  | none => [0, 0xFF]
  | some w => [if w.closing then 2 else 1, nameByte windowCauseNames w.cause]

/-- R28: the parties of a hall in a state. -/
def partyCount (s : State) (h : Hall) (st : PartyState) : Nat :=
  (s.admission.parties.filter fun q => q.hall = h && q.state = st).length

/-- R28. -/
def hallStatus (ps : List Byte) (s : State) : Answer :=
  match nameAt hallNames ps 0 with
  | none => refuse .range s
  | some h =>
    let r := hallOf s h
    accept false
      ([nameByte phaseNames r.phase, byteOf r.position, byteOf r.order.length] ++
        windowBytes (s.admission.windows.get h) ++ bytes2 (s.admission.totals.get h) ++ clockBytes r.due ++
        [byteOf (partyCount s h .held), byteOf (partyCount s h .admitting)]) s

/-! ## The commands -/

/-- ORDER_CLEAR. -/
def execOrderClear (p : Port) (s : State) : Step := takeRequest 0x10 p s orderClear

/-- ORDER_PUT. -/
def execOrderPut (p : Port) (s : State) : Step := takeRequest 0x11 p s orderPut

/-- ORDER_APPEND. -/
def execOrderAppend (p : Port) (s : State) : Step := takeRequest 0x12 p s orderAppend

/-- HALL_OPEN. -/
def execHallOpen (p : Port) (s : State) : Step := takeRequest 0x13 p s hallOpen

/-- SEG_START. -/
def execSegStart (p : Port) (s : State) : Step := takeRequest 0x14 p s segStart

/-- SEG_END. -/
def execSegEnd (p : Port) (s : State) : Step := takeRequest 0x15 p s segEnd

/-- GAP_MARK. -/
def execGapMark (p : Port) (s : State) : Step := takeRequest 0x16 p s gapMark

/-- GAP_END. -/
def execGapEnd (p : Port) (s : State) : Step := takeRequest 0x17 p s gapEnd

/-- HALL_DARK. -/
def execHallDark (p : Port) (s : State) : Step := takeRequest 0x18 p s hallDarkRequest

/-- PLAN_PUT. -/
def execPlanPut (p : Port) (s : State) : Step := takeRequest 0x19 p s planPut

/-- HALL_SET. -/
def execHallSet (p : Port) (s : State) : Step := takeRequest 0x1A p s hallSet

/-- HALL_STATUS. -/
def execHallStatus (p : Port) (s : State) : Step := takeRequest 0x1B p s hallStatus

/-- The oldest level event of a hall that is not yet taken (R16, R17). -/
def takeHallLevel (h : Hall) (rest : List LevelState) (s : State) : State :=
  { s with mail := { s.mail with hallLevels := s.mail.hallLevels.set h rest } }

/-- HALL_QUIET_EVENT (R16, R18). -/
def execHallQuietEvent (h : Hall) (s : State) : Step :=
  match s.mail.hallLevels.get h with
  | .quiet :: rest =>
    let t := takeHallLevel h rest s
    let r := hallOf s h
    if r.phase = .playing && admitsAtGaps r && s.engine.lanes.lane0.locked then
      .next (changePhase h { r with phase := .gap } none .quietEvent t)
    else .next t
  | _ => .next s

/-- HALL_SOUND_EVENT (R17). While lane 0 is UNLOCKED no gap is ended by level, by an event handed before the lane was
lost no more than by another (R18; log 31). -/
def execHallSoundEvent (h : Hall) (s : State) : Step :=
  match s.mail.hallLevels.get h with
  | .sound :: rest =>
    let t := takeHallLevel h rest s
    let r := hallOf s h
    if r.phase = .gap && s.engine.lanes.lane0.locked then
      .next (changePhase h { r with phase := .playing } none .soundEvent t)
    else .next t
  | _ => .next s

/-- PLAN_STEP_FIRE (R24): the first entry of the hall's pending step list, once its fire time is reached. -/
def execPlanStepFire (h : Hall) (s : State) : Step := if stepDue h s then .next (fireStep h s) else .next s

/-- INTERVAL_DUE (R26): once, when the due time of a hall in INTERVAL is reached. -/
def execIntervalDue (h : Hall) (s : State) : Step :=
  let r := hallOf s h
  match r.due with
  | some due =>
    if r.phase = .interval && reached s.clock due && !r.dueOffered then
      .next (offer kindIntervalDue (hallByte h) (byteOf r.position) (setHall h { r with dueOffered := true } s))
    else .next s
  | none => .next s

end Sys2Proof.Machine
end

