-- ==== Sys2Proof/Machine/Store.lean ====
section
/-! DEFINITION. The Store unit: opening, filling, programming, erasing, reading and closing the phrase store, saving
the settings, restart and identity, and start-up (spec/09, R171–R185). -/

namespace Sys2Proof.Machine

def setStore (u : Store) (s : State) : State := { s with store := u }

/-- The store is busy with the flash (R174–R179). -/
def storeBusy (u : Store) : Bool :=
  match u.state with
  | .programming _ | .erasing _ | .saving _ => true
  | _ => false

/-- R173: the store has an owner that is another port. -/
def otherOwner (p : Port) (u : Store) : Bool := u.owner.any fun q => q != p

def emptyBuffer : Table Byte 256 := Table.fill 256 0xFF

/-- R173: STORE_FILL, STORE_PROGRAM, STORE_ERASE and STORE_CLOSE: the owner's test, then the request's own RANGE test,
then BUSY and STATE (log 30); what an open store does with it. -/
def ownerRequest (p : Port) (bad : Bool) (s : State) (act : State → State) : Answer :=
  if otherOwner p s.store then refuse .denied s
  else if bad then refuse .range s
  else if storeBusy s.store then refuse .busy s
  else if s.store.state = .locked then refuse .state s
  else accept false [] (act s)

/-- R174: the queue holds a PHRASES call. -/
def phrasesQueued (s : State) : Bool :=
  s.call.queue.any fun c =>
    match c.content with
    | .phrases _ => true
    | _ => false

/-- R174. -/
def storeOpenRequest (p : Port) (_ : List Byte) (s : State) : Answer :=
  let u := s.store
  if u.restartPending then refuse .busy s
  else if u.state = .locked && bothHallsDark s && !phrasesQueued s then
    accept false [] (setStore { u with state := .opened, owner := some p, buffer := emptyBuffer } s)
  else refuse .state s

/-- R175: the page buffer with bytes written from an offset onward. -/
def fillBuffer (b : Table Byte 256) (offset : Nat) (data : List Byte) : Table Byte 256 :=
  b.mapIdx fun i x => if i.val < offset then x else data.getD (i.val - offset) x

/-- R175. -/
def storeFill (p : Port) (ps : List Byte) (s : State) : Answer :=
  let offset := natAt ps 0
  let data := ps.drop 1
  ownerRequest p (data.length = 0 || decide (56 < data.length) || decide (256 < offset + data.length)) s fun t =>
    setStore { t.store with buffer := fillBuffer t.store.buffer offset data } t

/-- R176: the last page that may be programmed. -/
def lastPage : Nat := 65279

/-- R176. -/
def storeProgram (p : Port) (ps : List Byte) (s : State) : Answer :=
  let page := wordAt ps 0
  ownerRequest p (decide (lastPage < page)) s fun t => setStore { t.store with state := .programming page } t

/-- R177. -/
def storeErase (p : Port) (ps : List Byte) (s : State) : Answer :=
  let sector := natAt ps 0
  ownerRequest p (sector = 255) s fun t => setStore { t.store with state := .erasing sector } t

/-- R179. -/
def storeClose (p : Port) (_ : List Byte) (s : State) : Answer :=
  ownerRequest p false s fun t =>
    let u := t.store
    setStore { u with state := .locked, owner := none, buffer := emptyBuffer, directory := buildDirectory u.flash } t

/-! ## Completions (R176, R177, R182) -/

/-- R176, R177, R182: the STORE notice: operation (0, 1, 2), whether it came out OK, and the sector. -/
def storeNotice (operation : Nat) (ok : Bool) (sector : Nat) (s : State) : State :=
  offer kindStore (byteOf (2 * operation + if ok then 0 else 1)) (byteOf sector) s

/-- PROGRAM_COMPLETE (R176): the flash takes the page, which is then verified against the buffer. -/
def execProgramComplete (s : State) : Step :=
  let u := s.store
  match u.state with
  | .programming page =>
    let data := u.buffer.toList
    let m := u.flash.program (pageStart page) data
    .next (storeNotice 0 (verified m (pageStart page) data) (sectorOfPage page)
      (setStore { u with state := .opened, flash := m, buffer := emptyBuffer } s))
  | _ => .next s

/-- The cells that a flash operation left, inside a sector (log 21). -/
def inSector (sector : Nat) (left : List Host.Cell) : List Host.Cell := left.filter fun c => c.1 / 0x10000 == sector

/-- ERASE_COMPLETE (R177): the sector erased, but for the cells the flash left. -/
def execEraseComplete (left : List Host.Cell) (s : State) : Step :=
  let u := s.store
  match u.state with
  | .erasing sector =>
    let m := (u.flash.erase sector).putCells (inSector sector left)
    .next (storeNotice 1 (sectorErased m sector) sector (setStore { u with state := .opened, flash := m } s))
  | _ => .next s

/-- R182: the settings as their owning units hold them. -/
def currentSettings (s : State) : Settings where
  halls := ⟨s.programme.halls.a.settings, s.programme.halls.b.settings⟩
  entrances := s.admission.entrances.map Entrance.settings
  zones := s.zoneUnit.zones.map ZoneRecord.settings
  loops := s.zoneUnit.loops.map LoopRecord.settings
  foyers := s.zoneUnit.foyers.map FoyerRecord.settings
  sound := s.level.sound.map SoundChannel.settings
  sense := s.level.sense.map SenseChannel.settings
  roles := s.panel.roles
  timings := s.panel.timings
  channels := s.description.channels.map Channel.settings
  plans := s.programme.plans

/-- R182, R184: the tests of SETTINGS_SAVE and RESTART, in the order the rules name them (log 30). -/
def quietRefusal (s : State) : Option Status :=
  let u := s.store
  if !bothHallsDark s || u.state = .opened then some .state
  else if storeBusy u || u.restartPending then some .busy
  else none

/-- R182. -/
def settingsSave (_ : List Byte) (s : State) : Answer :=
  match quietRefusal s with
  | some status => refuse status s
  | none => accept false [] (setStore { s.store with state := .saving (buildImage (currentSettings s)), saveReach := 0 } s)

/-- R181: the sector of the settings image. -/
def imageSector : Nat := 255

/-- R182: the flash when sector 255 is erased and so many pages of the image are programmed. -/
def savedPages (m : Flash) (image : List Byte) (pages : Nat) : Flash :=
  (m.erase imageSector).putAll imageStart (image.take (256 * pages))

/-- The pages an image fills. -/
def imagePages (image : List Byte) : Nat := (image.length + 255) / 256

/-- SAVE_COMPLETE (R182): the image is in the flash but for the cells the flash left; it is read back and compared. -/
def execSaveComplete (left : List Host.Cell) (s : State) : Step :=
  let u := s.store
  match u.state with
  | .saving image =>
    let m := (savedPages u.flash image (imagePages image)).putCells (inSector imageSector left)
    .next (storeNotice 2 (m.readAll imageStart image.length == image) imageSector
      (setStore { u with state := .locked, flash := m, saveReach := 0 } s))
  | _ => .next s

/-! ## Reading (R178) -/

/-- R178. -/
def storeRead (p : Port) (ps : List Byte) (s : State) : Answer :=
  let start := natAt ps 0 * 65536 + wordAt ps 1
  let count := natAt ps 3
  match s.store.state with
  | .programming _ | .erasing _ => refuse .busy s
  | _ =>
    if count = 0 ∨ 56 < count ∨ flashSize < start + count then refuse .range s
    else ⟨setStore { s.store with reads := s.store.reads.set p (some ⟨start, count⟩) } s, none⟩

/-- R178: how far a save has come when a read looks: the operation of the moment has ended, so at least the erase; a
free value otherwise, never less than was seen before (log 5). -/
def reachNow (image : List Byte) (s : State) : Nat :=
  max s.store.saveReach (1 + Config.saveReach s.draws % (imagePages image + 1))

/-- R178: a waiting read ends with the bytes of a flash. -/
def finishRead (p : Port) (j : ReadJob) (m : Flash) (s : State) : State :=
  answer p .ok (m.readAll j.start j.count) (setStore { s.store with reads := s.store.reads.set p none } s)

/-- STORE_READ_DONE (R178, R191, R193): a waiting read ends; not while a program or an erase is in progress. -/
def execStoreReadDone (p : Port) (s : State) : Step :=
  match s.store.reads.get p with
  | none => .next s
  | some j =>
    match s.store.state with
    | .programming _ | .erasing _ => .next s
    | .saving image =>
      let k := reachNow image s
      let t : State := { s with draws := s.draws + 1, store := { s.store with saveReach := k } }
      .next (finishRead p j (savedPages s.store.flash image (k - 1)) t)
    | _ => .next (finishRead p j s.store.flash s)

/-! ## Restart and identity (R184, R185) -/

/-- R184: RESTART is never answered. -/
def restart (_ : List Byte) (s : State) : Answer :=
  match quietRefusal s with
  | some status => refuse status s
  | none => ⟨setStore { s.store with restartPending := true } s, none⟩

/-- R185, Control Ports: family code, part number, revision letter (log 4), strap value. -/
def partInfo (_ : List Byte) (s : State) : Answer :=
  accept false ([0x07] ++ bytes2 740 ++ [Config.revisionLetter, byteOf s.straps.toNat]) s

/-! ## The requests -/

/-- STORE_OPEN. -/
def execStoreOpen (p : Port) (s : State) : Step := takeRequest 0x60 p s (storeOpenRequest p)

/-- STORE_FILL. -/
def execStoreFill (p : Port) (s : State) : Step := takeRequest 0x61 p s (storeFill p)

/-- STORE_PROGRAM. -/
def execStoreProgram (p : Port) (s : State) : Step := takeRequest 0x62 p s (storeProgram p)

/-- STORE_ERASE. -/
def execStoreErase (p : Port) (s : State) : Step := takeRequest 0x63 p s (storeErase p)

/-- STORE_READ. -/
def execStoreRead (p : Port) (s : State) : Step := takeRequest 0x64 p s (storeRead p)

/-- STORE_CLOSE. -/
def execStoreClose (p : Port) (s : State) : Step := takeRequest 0x65 p s (storeClose p)

/-- SETTINGS_SAVE. -/
def execSettingsSave (p : Port) (s : State) : Step := takeRequest 0x66 p s settingsSave

/-- RESTART. -/
def execRestart (p : Port) (s : State) : Step := takeRequest 0x67 p s restart

/-- PART_INFO. -/
def execPartInfo (p : Port) (s : State) : Step := takeRequest 0x68 p s partInfo

/-! ## Start-up (R180, R183, R184) -/

/-- R180: an erase cut short: each byte of the sector at its former value or FFH. -/
def cutErase (draw : Nat) (m : Flash) (sector : Nat) : Flash :=
  m.filter fun c => c.1 / 0x10000 != sector || !Config.cutTakesNew draw c.1

/-- R180: bytes being programmed when they are cut short: each at its former value or the AND with its new one. -/
def cutProgram (draw : Nat) (m : Flash) (a : Nat) : List Byte → Flash
  | [] => m
  | b :: bs => cutProgram draw (if Config.cutTakesNew draw a then m.put a (m.read a &&& b) else m) (a + 1) bs

/-- R180: a save cut short, at a free place not before what was seen (log 5): in the erase, in a page, or past the last. -/
def cutSave (draw : Nat) (m : Flash) (image : List Byte) (seen : Nat) : Flash :=
  match max seen (Config.saveReach draw % (imagePages image + 2)) with
  | 0 => cutErase draw m imageSector
  | k + 1 => cutProgram draw (savedPages m image k) (imageStart + 256 * k) ((image.drop (256 * k)).take 256)

/-- R180: the flash as the loss of power or the reset line leaves it. -/
def cutFlash (s : State) : Flash :=
  let m := s.store.flash
  match s.store.state with
  | .programming page => cutProgram s.draws m (pageStart page) s.store.buffer.toList
  | .erasing sector => cutErase s.draws m sector
  | .saving image => cutSave s.draws m image s.store.saveReach
  | _ => m

/-- R183: every unit at its reset values and start-up done; the flash and the commands that wait stay. -/
def startUp (straps : BitVec 2) (s : State) : State := State.boot straps (cutFlash s) (s.draws + 1) s.pending

/-- POWER_ON (R183). -/
def execPowerOn (straps : BitVec 2) (s : State) : Step := .next (startUp straps s)

/-- RESET_LINE (R183). -/
def execResetLine (straps : BitVec 2) (s : State) : Step := .next (startUp straps s)

/-- RESTART_TAKES_EFFECT (R184): where a restart is pending. -/
def execRestartTakesEffect (straps : BitVec 2) (s : State) : Step :=
  if s.store.restartPending then .next (startUp straps s) else .next s

end Sys2Proof.Machine
end

