-- ==== Sys2Proof/Machine/Dispatch.lean ====
section
/-! DEFINITION. What each command does to everything but the queue: one arm for each row of the table. -/

namespace Sys2Proof.Machine

open Sys2Proof

def exec (i : Instr) (s : State) : Host.Outcome State Fault Refusal :=
  match i with
  | .powerOn straps => Sys2Proof.Machine.execPowerOn straps s
  | .resetLine straps => Sys2Proof.Machine.execResetLine straps s
  | .restartTakesEffect straps => Sys2Proof.Machine.execRestartTakesEffect straps s
  | .i2cWriteStart p addr data => Sys2Proof.Machine.execI2cWriteStart p addr data s
  | .i2cWriteEnd p => Sys2Proof.Machine.execI2cWriteEnd p s
  | .writeTimeout p => Sys2Proof.Machine.execWriteTimeout p s
  | .i2cRead p addr count => Sys2Proof.Machine.execI2cRead p addr count s
  | .stretchLimit p => Sys2Proof.Machine.execStretchLimit p s
  | .orderClear p => Sys2Proof.Machine.execOrderClear p s
  | .orderPut p => Sys2Proof.Machine.execOrderPut p s
  | .orderAppend p => Sys2Proof.Machine.execOrderAppend p s
  | .hallOpen p => Sys2Proof.Machine.execHallOpen p s
  | .segStart p => Sys2Proof.Machine.execSegStart p s
  | .segEnd p => Sys2Proof.Machine.execSegEnd p s
  | .gapMark p => Sys2Proof.Machine.execGapMark p s
  | .gapEnd p => Sys2Proof.Machine.execGapEnd p s
  | .hallDark p => Sys2Proof.Machine.execHallDark p s
  | .planPut p => Sys2Proof.Machine.execPlanPut p s
  | .hallSet p => Sys2Proof.Machine.execHallSet p s
  | .hallStatus p => Sys2Proof.Machine.execHallStatus p s
  | .hallQuietEvent h => Sys2Proof.Machine.execHallQuietEvent h s
  | .hallSoundEvent h => Sys2Proof.Machine.execHallSoundEvent h s
  | .planStepFire h => Sys2Proof.Machine.execPlanStepFire h s
  | .intervalDue h => Sys2Proof.Machine.execIntervalDue h s
  | .zoneSet p => Sys2Proof.Machine.execZoneSet p s
  | .zoneStatus p => Sys2Proof.Machine.execZoneStatus p s
  | .zonePhaseEvent => Sys2Proof.Machine.execZonePhaseEvent s
  | .relayRequest => Sys2Proof.Machine.execRelayRequest s
  | .channelChangeReport => Sys2Proof.Machine.execChannelChangeReport s
  | .overlayPush push => Sys2Proof.Machine.execOverlayPush push s
  | .overlayRemoval owner zones => Sys2Proof.Machine.execOverlayRemoval owner zones s
  | .overCurrentEvent l => Sys2Proof.Machine.execOverCurrentEvent l s
  | .foldBackRecovery l => Sys2Proof.Machine.execFoldBackRecovery l s
  | .openLoopBegin l => Sys2Proof.Machine.execOpenLoopBegin l s
  | .openLoopEnd l => Sys2Proof.Machine.execOpenLoopEnd l s
  | .loopReset p => Sys2Proof.Machine.execLoopReset p s
  | .inputFrame lane good slots => Sys2Proof.Machine.execInputFrame lane good slots s
  | .mixBlock sense => Sys2Proof.Machine.execMixBlock sense s
  | .rampStep z => Sys2Proof.Machine.execRampStep z s
  | .playerPhraseEnd n => Sys2Proof.Machine.execPlayerPhraseEnd n s
  | .repeatSilenceEnd n => Sys2Proof.Machine.execRepeatSilenceEnd n s
  | .chimeNoteEnd => Sys2Proof.Machine.execChimeNoteEnd s
  | .chimeStrikeEnd => Sys2Proof.Machine.execChimeStrikeEnd s
  | .levelPeriodEnd => Sys2Proof.Machine.execLevelPeriodEnd s
  | .levelSet p => Sys2Proof.Machine.execLevelSet p s
  | .levelRead p => Sys2Proof.Machine.execLevelRead p s
  | .doorSet p => Sys2Proof.Machine.execDoorSet p s
  | .partyAdd p => Sys2Proof.Machine.execPartyAdd p s
  | .partyRemove p => Sys2Proof.Machine.execPartyRemove p s
  | .partyMove p => Sys2Proof.Machine.execPartyMove p s
  | .partyList p => Sys2Proof.Machine.execPartyList p s
  | .admitNow p => Sys2Proof.Machine.execAdmitNow p s
  | .admitExtend p => Sys2Proof.Machine.execAdmitExtend p s
  | .admitClose p => Sys2Proof.Machine.execAdmitClose p s
  | .usherClear p => Sys2Proof.Machine.execUsherClear p s
  | .admissionPhaseEvent => Sys2Proof.Machine.execAdmissionPhaseEvent s
  | .windowWarn h => Sys2Proof.Machine.execWindowWarn h s
  | .windowDeadline h => Sys2Proof.Machine.execWindowDeadline h s
  | .addKeyPress => Sys2Proof.Machine.execAddKeyPress s
  | .addKeyRepeat => Sys2Proof.Machine.execAddKeyRepeat s
  | .removeKeyPress => Sys2Proof.Machine.execRemoveKeyPress s
  | .removeKeyLong => Sys2Proof.Machine.execRemoveKeyLong s
  | .doneKeyPress => Sys2Proof.Machine.execDoneKeyPress s
  | .usherKeyPress => Sys2Proof.Machine.execUsherKeyPress s
  | .usherKeyLong => Sys2Proof.Machine.execUsherKeyLong s
  | .keyScanSweep down => Sys2Proof.Machine.execKeyScanSweep down s
  | .keyDebounceDone k => Sys2Proof.Machine.execKeyDebounceDone k s
  | .keyLong k => Sys2Proof.Machine.execKeyLong k s
  | .keyRepeat k => Sys2Proof.Machine.execKeyRepeat k s
  | .keyStuck k => Sys2Proof.Machine.execKeyStuck k s
  | .keyRelease k => Sys2Proof.Machine.execKeyRelease k s
  | .keymapSet p => Sys2Proof.Machine.execKeymapSet p s
  | .scanSet p => Sys2Proof.Machine.execScanSet p s
  | .keyStatus p => Sys2Proof.Machine.execKeyStatus p s
  | .lampTest p => Sys2Proof.Machine.execLampTest p s
  | .lampStateOffer => Sys2Proof.Machine.execLampStateOffer s
  | .tallyStateOffer => Sys2Proof.Machine.execTallyStateOffer s
  | .refuseIndication => Sys2Proof.Machine.execRefuseIndication s
  | .lampFrame => Sys2Proof.Machine.execLampFrame s
  | .refuseOverlayEnd lamp => Sys2Proof.Machine.execRefuseOverlayEnd lamp s
  | .lampTestEnd lamp => Sys2Proof.Machine.execLampTestEnd lamp s
  | .cutFlashEnd d => Sys2Proof.Machine.execCutFlashEnd d s
  | .callSubmit p => Sys2Proof.Machine.execCallSubmit p s
  | .unitCallSubmission sender => Sys2Proof.Machine.execUnitCallSubmission sender s
  | .callCancel p => Sys2Proof.Machine.execCallCancel p s
  | .liveEnd p => Sys2Proof.Machine.execLiveEnd p s
  | .callList p => Sys2Proof.Machine.execCallList p s
  | .callStackReport => Sys2Proof.Machine.execCallStackReport s
  | .callHushChange => Sys2Proof.Machine.execCallHushChange s
  | .callPhaseEvent => Sys2Proof.Machine.execCallPhaseEvent s
  | .hallCallCancel => Sys2Proof.Machine.execHallCallCancel s
  | .planCallCancel => Sys2Proof.Machine.execPlanCallCancel s
  | .admissionCallCancel => Sys2Proof.Machine.execAdmissionCallCancel s
  | .callDeadlineExpiry id => Sys2Proof.Machine.execCallDeadlineExpiry id s
  | .liveTimeout id => Sys2Proof.Machine.execLiveTimeout id s
  | .descSet p => Sys2Proof.Machine.execDescSet p s
  | .descStatus p => Sys2Proof.Machine.execDescStatus p s
  | .talkOpen p => Sys2Proof.Machine.execTalkOpen p s
  | .talkClose p => Sys2Proof.Machine.execTalkClose p s
  | .talkKeyPress => Sys2Proof.Machine.execTalkKeyPress s
  | .talkKeyRelease => Sys2Proof.Machine.execTalkKeyRelease s
  | .describerLevelEvent d => Sys2Proof.Machine.execDescriberLevelEvent d s
  | .descPhaseEvent => Sys2Proof.Machine.execDescPhaseEvent s
  | .descStackReport => Sys2Proof.Machine.execDescStackReport s
  | .graceExpiry c => Sys2Proof.Machine.execGraceExpiry c s
  | .storeOpen p => Sys2Proof.Machine.execStoreOpen p s
  | .storeFill p => Sys2Proof.Machine.execStoreFill p s
  | .storeProgram p => Sys2Proof.Machine.execStoreProgram p s
  | .programComplete => Sys2Proof.Machine.execProgramComplete s
  | .storeErase p => Sys2Proof.Machine.execStoreErase p s
  | .eraseComplete left => Sys2Proof.Machine.execEraseComplete left s
  | .storeRead p => Sys2Proof.Machine.execStoreRead p s
  | .storeReadDone p => Sys2Proof.Machine.execStoreReadDone p s
  | .storeClose p => Sys2Proof.Machine.execStoreClose p s
  | .settingsSave p => Sys2Proof.Machine.execSettingsSave p s
  | .saveComplete left => Sys2Proof.Machine.execSaveComplete left s
  | .restart p => Sys2Proof.Machine.execRestart p s
  | .partInfo p => Sys2Proof.Machine.execPartInfo p s
  | .noticeOffer n => Sys2Proof.Machine.execNoticeOffer n s
  | .noticeRead p => Sys2Proof.Machine.execNoticeRead p s
  | .noticeAck p => Sys2Proof.Machine.execNoticeAck p s
  | .noticeSet p => Sys2Proof.Machine.execNoticeSet p s
  | .houseClockTick => Sys2Proof.Machine.execHouseClockTick s

end Sys2Proof.Machine
end

