-- ==== Sys2Proof/Safety.lean ====
section
/-! DEFINITION. What counts as a safe state and a safe run: the laws that the manual says its units keep, each on the
state alone, and the run that does not stop. -/

namespace Sys2Proof.Machine

/-- R38: at most three entries, priorities strictly rising from bottom to top (the list is top first), one entry an
owner. -/
abbrev StackLaw (stack : List Overlay) : Prop :=
  stack.length ≤ 3 ∧ stack.Pairwise (fun upper lower => lower.priority < upper.priority) ∧ (stack.map Overlay.owner).Nodup

abbrev StacksLaw (s : State) : Prop := ∀ z : ZoneNo, StackLaw (s.zoneUnit.zones.get z).stack

/-- R171: the flash is in its canonical form. -/
abbrev FlashLaw (s : State) : Prop := s.store.flash.wf = true

/-- R174: while the store is OPEN, PROGRAMMING or ERASING, both halls are DARK and no PHRASES call is queued. -/
abbrev StoreLaw (s : State) : Prop := storeOpen s = true → bothHallsDark s = true ∧ phrasesQueued s = false

/-- A hall where parties may wait and windows exist (R88, R96). -/
abbrev HallLive (u : AdmissionUnit) (h : Hall) : Prop := u.view.get h ≠ .dark ∧ u.view.get h ≠ .ended

/-- R88, R96, R105: parties and windows belong to halls that are neither DARK nor ENDED in the unit's view; a party is
ADMITTING only while its hall has a window; a party's hall is its entrance's; numbers are distinct and in range. -/
structure WaitingLaw (u : AdmissionUnit) : Prop where
  few : u.parties.length ≤ 64
  distinct : (u.parties.map Party.number).Nodup
  inRange : ∀ q ∈ u.parties, 1 ≤ q.number ∧ q.number ≤ 999
  counter : 1 ≤ u.counter ∧ u.counter ≤ 999
  live : ∀ q ∈ u.parties, HallLive u q.hall
  hall : ∀ q ∈ u.parties, q.hall = (u.entrances.get q.entrance).settings.hall
  window : ∀ h, (u.windows.get h).isSome → HallLive u h
  admitting : ∀ q ∈ u.parties, q.state = .admitting → (u.windows.get q.hall).isSome

/-- R7, R11, R12: a hall's phase events that wait for a unit lead from the unit's view of the hall to the phase of its record,
and out of INTERVAL no event leads but to PLAYING, BREAK, ENDED or DARK. -/
def Follows : Phase → List PhaseEvent → Phase → Prop
  | view, [], now => view = now
  | view, ev :: rest, now => ev.old = view ∧
      (view = .interval → ev.new = .playing ∨ ev.new = .onBreak ∨ ev.new = .ended ∨ ev.new = .dark) ∧ Follows ev.new rest now

/-- R86: the Admission unit's view of each hall, with the events it has not yet taken. -/
abbrev PhaseLaw (s : State) : Prop :=
  ∀ h, Follows (s.admission.view.get h) (s.mail.toAdmission.filter fun ev => ev.hall = h) (hallOf s h).phase

/-- R96, R99, R105: at every entrance the ADMITTING parties stand before the HELD ones; while the hall has a window that is
not INTERVAL, the seats of the ADMITTING parties and the seats admitted there stay within the quota; a window is INTERVAL
exactly when it has no deadline, and then its hall is INTERVAL in the unit's view. -/
structure AdmittingLaw (u : AdmissionUnit) : Prop where
  order : u.parties.Pairwise fun earlier later =>
    earlier.entrance = later.entrance → later.state = .admitting → earlier.state = .admitting
  quota : ∀ e w, u.windows.get (u.entrances.get e).settings.hall = some w → w.cause ≠ .interval →
    seats (admittingAt u e) + (u.entrances.get e).admitted ≤ (u.entrances.get e).settings.quota
  deadline : ∀ h w, u.windows.get h = some w → (w.deadline = none ↔ w.cause = .interval)
  interval : ∀ h w, u.windows.get h = some w → w.cause = .interval → u.view.get h = .interval

/-- R130: at most 16 calls with distinct ids 1–255, in order of priority. -/
structure QueueLaw (u : CallUnit) : Prop where
  few : u.queue.length ≤ 16
  distinct : (u.queue.map Call.id).Nodup
  inRange : ∀ c ∈ u.queue, 1 ≤ c.id ∧ c.id ≤ 255
  counter : 1 ≤ u.counter ∧ u.counter ≤ 255
  ordered : u.queue.Pairwise fun c d => d.priority ≤ c.priority

/-- R155: a channel holds an overlay, in its own zone alone, exactly while it is LIVE or GRACE; it has a grace expiry
exactly while it is GRACE; and it is OFF while its hall is DARK in the unit's view (R162). -/
structure ChannelLaw (s : State) (c : Fin 4) : Prop where
  overlay : ∀ z, holdsOn s.zoneUnit (.channel c) z =
    (z = descZone (channelOf s c).settings.zone && ((channelOf s c).talk = .live || (channelOf s c).talk = .grace))
  expiry : (channelOf s c).expiry.isSome = ((channelOf s c).talk = .grace : Bool)
  dark : (s.description.view.get (channelOf s c).settings.hall).phase = .dark → (channelOf s c).talk = .off

/-- R187: a port has a reply exactly while READY, a pending tag exactly while PENDING, a receive buffer of at most 63
bytes, and while RECEIVING a set-aside reply exactly when it came from READY. -/
structure PortLaw (r : PortRecord) : Prop where
  ready : r.reply.isSome = (r.state = .ready : Bool)
  pending : r.tag.isSome = (r.state = .pending : Bool)
  buffer : r.buffer.length ≤ 63
  setAside : r.state = .receiving → r.setAside.isSome = (r.ret = .ready : Bool)

/-- R59, R62: output samples lie within full scale, and duties within the PWM period, centre 2,048. -/
structure OutputLaw (s : State) : Prop where
  limit : ∀ l, (s.zoneUnit.loops.get l).settings.driveLimit ≤ 2047
  made : ∀ z, ∀ x ∈ s.engine.made.get z, sampleMin ≤ x ∧ x ≤ sampleMax
  sending : ∀ z, ∀ x ∈ s.engine.sending.get z, sampleMin ≤ x ∧ x ≤ sampleMax
  duties : ∀ l, ∀ d ∈ s.engine.dutyOut.get l, 0 ≤ d ∧ d ≤ 4095

/-! ## The settings (R1, R21, R29, R70, R74, R83, R117, R121, R155) -/

/-- R27: a hall's settings within their ranges; the image spells an absent phrase FFH. -/
abbrev HallInRange (v : HallSettings) : Prop :=
  10 ≤ v.breakWindow ∧ v.breakWindow ≤ 300 ∧ 5 ≤ v.gapWindow ∧ v.gapWindow ≤ 120 ∧ v.warnTime ≤ 30 ∧ ∀ n ∈ v.phrase, n ≤ 254

/-- R29, R31: the settings of every zone, of a foyer zone. -/
abbrev ZoneInRange (v : ZoneSettings) : Prop :=
  -24 ≤ v.trim ∧ v.trim ≤ 24 ∧ 1 ≤ v.rampDown ∧ v.rampDown ≤ 20 ∧ 1 ≤ v.rampUp ∧ v.rampUp ≤ 20 ∧
    -60 ≤ v.duckDepth ∧ v.duckDepth ≤ 0

abbrev FoyerInRange (v : FoyerSettings) : Prop :=
  -121 ≤ v.idleGain ∧ v.idleGain ≤ 24 ∧ -121 ≤ v.relayGain ∧ v.relayGain ≤ 24

/-- R70: the lower step of a sound channel is not above the upper one. -/
abbrev SoundInRange (v : SoundSettings) : Prop :=
  -120 ≤ v.lower ∧ v.lower ≤ v.upper ∧ v.upper ≤ 0 ∧ 1 ≤ v.soundHold ∧ v.soundHold ≤ 500 ∧ 1 ≤ v.quietHold ∧ v.quietHold ≤ 500

/-- R74. -/
abbrev SenseInRange (v : SenseSettings) : Prop :=
  (-120 ≤ v.overCurrent ∧ v.overCurrent ≤ 0) ∧ (-120 ≤ v.openStep ∧ v.openStep ≤ 0) ∧
    (-120 ≤ v.driveCheck ∧ v.driveCheck ≤ 0) ∧ 1 ≤ v.openHold ∧ v.openHold ≤ 500

/-- R121. -/
abbrev TimingsInRange (v : ScanTimings) : Prop :=
  5 ≤ v.debounce ∧ v.debounce ≤ 40 ∧ 5 ≤ v.long ∧ v.long ≤ 50 ∧ 100 ≤ v.again ∧ v.again ≤ 1000 ∧ 10 ≤ v.stuck ∧ v.stuck ≤ 120

/-- R155. -/
abbrev ChannelInRange (v : ChannelSettings) : Prop :=
  -60 ≤ v.depth ∧ v.depth ≤ 0 ∧ -24 ≤ v.gain ∧ v.gain ≤ 12 ∧ v.grace ≤ 10

/-- R21: what a plan step may play: 1 to 6 phrases, or a chime of 1 to 4 strikes. -/
def plannable : Content → Bool
  | .phrases list => decide (1 ≤ list.length ∧ list.length ≤ 6) && list.all fun n => decide (n ≤ 255)
  | .chime _ strikes => decide (1 ≤ strikes ∧ strikes ≤ 4)
  | .live _ => false

abbrev PlanStepInRange (v : PlanStep) : Prop :=
  v.offset ≤ 3600 ∧ v.priority ≤ 6 ∧ v.targets ≠ 0 ∧ v.targets &&& descZones = 0 ∧ plannable v.content = true

/-- All the settings within the ranges their tables give, no lamp named twice, and no foyer zone holding entrances of both
halls (R83, R84). -/
structure SettingsInRange (v : Settings) : Prop where
  halls : ∀ h, HallInRange (v.halls.get h)
  quotas : ∀ e, 1 ≤ (v.entrances.get e).quota ∧ (v.entrances.get e).quota ≤ 16
  lamps : ∀ e f, (v.entrances.get e).lamp ≠ none → (v.entrances.get e).lamp = (v.entrances.get f).lamp → e = f
  foyersOneHall : ∀ e f, (v.entrances.get e).zone ≠ none → (v.entrances.get e).zone = (v.entrances.get f).zone →
    (v.entrances.get e).hall = (v.entrances.get f).hall
  zones : ∀ z, ZoneInRange (v.zones.get z)
  loops : ∀ l, (v.loops.get l).driveLimit ≤ 2047
  foyers : ∀ f, FoyerInRange (v.foyers.get f)
  sound : ∀ c, SoundInRange (v.sound.get c)
  sense : ∀ c, SenseInRange (v.sense.get c)
  timings : TimingsInRange v.timings
  channels : ∀ c, ChannelInRange (v.channels.get c)
  plans : ∀ p, (v.plans.get p).length ≤ 6 ∧ ∀ st ∈ v.plans.get p, PlanStepInRange st

/-- The settings that the units hold are within their ranges. -/
abbrev SettingsLaw (s : State) : Prop := SettingsInRange (currentSettings s)

/-- A safe state: every law holds. -/
structure Safe (s : State) : Prop where
  overlays : StacksLaw s
  flash : FlashLaw s
  store : StoreLaw s
  waiting : WaitingLaw s.admission
  phases : PhaseLaw s
  admitting : AdmittingLaw s.admission
  queue : QueueLaw s.call
  channels : ∀ c, ChannelLaw s c
  ports : ∀ p, PortLaw (s.ports.get p)
  outputs : OutputLaw s
  settings : SettingsLaw s

/-- A run that does not stop: every step of it answers a next state. -/
def Runs : Nat → State → Prop
  | 0, _ => True
  | n + 1, s => ∃ t, step s = .next t ∧ Runs n t

end Sys2Proof.Machine
end

