-- ==== Sys2Proof/Certificates/Slice0/Obligations.lean ====
section
/-! DEFINITION. The obligations: what the rules of the manual say the commands and the part do, stated of `exec`, of
`step` and of the shared operations. A request command's statement is about a port at which that request waits; where it
is answered, the next state is written out whole, so each equation is the command's completion, its effect and its
frame. -/

namespace Sys2Proof.Machine

/-- A request waits for its unit at a port: its code and its parameter bytes. -/
abbrev Asks (s : State) (p : Port) (code : Byte) (ps : List Byte) : Prop := (s.ports.get p).request = some ⟨code, ps⟩

/-- The state in which the request of a port is taken and answered and nothing else has changed (R191). -/
def replied (p : Port) (st : Status) (pl : List Byte) (s : State) : State := answer p st pl (withoutRequest p s)

/-- OK, or ADJUSTED when a value was clamped (R194). -/
def done (adjusted : Bool) : Status := if adjusted then .adjusted else .ok

end Sys2Proof.Machine

open Sys2Proof Sys2Proof.Machine

/-! ## The block: the queue, the steps, the state after reset -/

/-- A step takes the command at the front of the queue and runs it with the queue's rest. -/
def Obligations.StepRunsFrontCommand : Prop :=
  ∀ (c : Instr) (rest : List Instr) (s : State), step { s with pending := c :: rest } = exec c { s with pending := rest }

/-- The model's choice (log 1): with no command waiting a step changes nothing. -/
def Sys2Proof.Rules.EmptyQueueIdles : Prop := ∀ s : State, s.pending = [] → step s = .next s

/-- No command faults or is refused by the model, in any state and with any operands. -/
def Sys2Proof.Rules.EveryCommandAnswersNext : Prop := ∀ (c : Instr) (s : State), ∃ t, exec c s = .next t

/-- No command touches the commands that wait behind it. -/
def Sys2Proof.Rules.CommandsLeaveQueue : Prop :=
  ∀ (c : Instr) (s t : State), exec c s = .next t → t.pending = s.pending

/-- Every law of the units holds in the state after reset. -/
def Sys2Proof.Rules.ResetIsSafe : Prop := Safe State.reset

/-- The reset values of every unit as its chapter gives them, whatever the settings, the straps and the flash: what a hall, a zone,
a loop, a foyer, a lane, the mix, a level channel, an entrance, the latecomer list, the call queue, a channel, a describer, a
key, a lamp, the store, a port and a notice set hold beside their settings (R1, R29, R33–R35, R45, R46, R63, R66, R67, R83, R87,
R88, R96, R108, R111, R123, R126, R129, R155–R157, R169, R173, R187, R195). The fields of the model's own among them stand as
log 25 says, and no raw key level was read (R111). -/
def Sys2Proof.Rules.AtResetValues (t : State) : Prop :=
  (∀ h, hallOf t h =
    { hallOf t h with phase := .dark, order := [], position := 0, due := none, steps := [], dueOffered := false }) ∧
  (let u := t.zoneUnit;
    let record := fun z => u.zones.get z;
    let silent := fun z => (record z).baseSource = .silence ∧ (record z).baseGain = -121;
    (∀ h, u.view.get h = .dark) ∧ u.pushAnswer = none ∧ u.removalAnswer = none ∧
    (∀ z, record z = { record z with
      stack := [], bgStep := (record z).baseGain, target := (record z).baseGain, rampCount := 0, rampDue := false, lastClip := none }) ∧
    (∀ l, silent (loopZone l) ∧ u.loops.get l =
      { u.loops.get l with foldBack := .none, shut := false, openFlag := false, recovery := 0, hushed := false }) ∧
    (∀ d, silent (descZone d)) ∧
    ∀ f, u.foyers.get f = { u.foyers.get f with relay := none, hushed := false } ∧
      ((u.foyers.get f).settings.idleSource = .silence → silent (foyerZone f)) ∧
      ((u.foyers.get f).settings.idleSource = .aux → (record (foyerZone f)).baseSource = .aux ∧
        (record (foyerZone f)).baseGain = (u.foyers.get f).settings.idleGain)) ∧
  (let u := t.engine;
    u.started = false ∧ (∀ l, u.lanes.get l = { locked := false, run := 0, missing := 0, received := [] }) ∧
    (∀ z, u.made.get z = [] ∧ u.sending.get z = []) ∧ ∀ l, u.dutyOut.get l = [] ∧ u.dutyNext.get l = 2048) ∧
  (∀ c, let r := t.level.sound.get c;
    r = { r with state := .quiet, run := 0, lastPeak := 0, peak := 0 }) ∧
  (∀ c, let r := t.level.sense.get c;
    r = { r with openRun := 0, lastPeak := 0, lastDrive := 0, peak := 0, drive := 0 }) ∧
  (let u := t.admission;
    u.parties = [] ∧ u.counter = 1 ∧
    (∀ h, u.view.get h = .dark ∧ u.windows.get h = none ∧ u.totals.get h = 0) ∧
    (∀ e, u.entrances.get e =
      { u.entrances.get e with admitted := 0, usherPending := false, usherUrgent := false, offered := .off }) ∧
    (∀ k, u.links.get k = none) ∧ ∀ f, u.relay.get f = none) ∧
  (let u := t.call;
    u.queue = [] ∧ u.counter = 1 ∧ u.chime = none ∧ u.submitted = none ∧ (∀ h, u.view.get h = .dark) ∧
    (∀ n, u.players.get n = none) ∧ ∀ n, u.mics.get n = none) ∧
  (let u := t.description;
    (∀ c, u.channels.get c = { u.channels.get c with talk := .off, expiry := none }) ∧
    (∀ d, u.describers.get d = { keys := 0, latch := false, voice := .quiet, tally := .off }) ∧
    ∀ h, u.view.get h = { phase := .dark, mode := none }) ∧
  (let u := t.panel;
    u.sweepOpen = false ∧ u.down = 0 ∧
    (∀ k, u.keys.get k = { state := .up, count := 0, hold := 0, next := 0, due := none }) ∧
    (∀ l, u.lamps.get l = { pattern := .off, frame := 0, refuse := none, refuseNew := false, test := none, testNew := none, brightness := 0 }) ∧
    (∀ e, u.entranceLamps.get e = .off) ∧ ∀ d, u.tallies.get d = { offered := .off, cut := 0, cutNew := false }) ∧
  (let u := t.store;
    u.state = .locked ∧ u.owner = none ∧ u.restartPending = false ∧ (∀ i, u.buffer.get i = 0xFF) ∧
    u.directory = buildDirectory u.flash ∧ (∀ p, u.reads.get p = none) ∧ u.saveReach = 0) ∧
  (∀ p, t.ports.get p =
    { state := .idle, buffer := [], overflow := false, ret := .idle, setAside := none, tag := none, reply := none, mode := .stretch,
      request := none, bus := { addressAck := false, dataAcks := 0, sent := [], stretch := none } }) ∧
  (∀ p, let n := t.notices.get p;
    n.hold = true ∧ n.edge = .both ∧ n.clear = .report ∧
    ∀ k, ((n.kinds.get k).masked = true ↔ k ≠ 0 ∧ k ≠ 15) ∧ ((n.kinds.get k).pending ≠ none ↔ k = 15)) ∧
  t.clock = 0 ∧ t.mail = noMail

/-- The values the rules give the state after reset: every unit at its reset values, START pending on every port with its
attention line asserted, and the settings the factory defaults (R183). The flash's contents, the straps and the queue are the
model's (log 3, 10, 1). -/
def Sys2Proof.Rules.ResetValues : Prop :=
  Rules.AtResetValues State.reset ∧ currentSettings State.reset = factorySettings ∧
  (∀ p, attention (State.reset.notices.get p) = true) ∧ State.reset.pending = [] ∧ State.reset.straps = 0

/-- The factory defaults, each from the table of its own chapter (R1, R21, R29, R70, R74, R83, R117, R121, R155): the settings
that start-up takes where the image is not used. -/
def Sys2Proof.Rules.FactoryDefaults : Prop :=
  let v := factorySettings;
  (∀ h, v.halls.get h = { breakWindow := 45, gapWindow := 20, warnTime := 10, phrase := some 1, preshow := none }) ∧
  (∀ p, v.plans.get p = []) ∧
  (∀ z, v.zones.get z = { trim := 0, rampDown := 2, rampUp := 10, duckDepth := -24 }) ∧
  (∀ l, v.loops.get l = { hall := if l.val ≤ 5 then .a else .b, driveLimit := 1800 }) ∧
  (∀ f, v.foyers.get f = { idleSource := .silence, idleGain := -24, relayGain := -12, quietHall := none }) ∧
  (∀ c, v.sound.get c =
    if c.val < 2 then { upper := -80, lower := -92, soundHold := 5, quietHold := 300 }
    else { upper := -72, lower := -84, soundHold := 3, quietHold := 80 }) ∧
  (∀ l, v.sense.get l = { overCurrent := -2, openStep := -100, driveCheck := -60, openHold := 200 }) ∧
  (∀ e, v.entrances.get e =
    { hall := if e.val ≤ 7 then .a else .b
      zone := some (if e.val ≤ 3 then 0 else if e.val ≤ 7 then 1 else 2)
      quota := 6
      stepFree := decide (e.val = 0 ∨ e.val = 4 ∨ e.val = 8)
      lamp := some e }) ∧
  (∀ (row : Fin 6) (column : Fin 8),
    let e : Fin 12 := ⟨2 * row.val + column.val / 4, by omega⟩
    v.roles.get ⟨8 * row.val + column.val, by omega⟩ =
      if column.val % 4 = 0 then .add e else if column.val % 4 = 1 then .remove e else if column.val % 4 = 2 then .done e
      else .usher e) ∧
  (∀ d : Fin 4, v.roles.get ⟨48 + d.val, by omega⟩ = .talk d) ∧ (∀ k : Fin 64, 52 ≤ k.val → v.roles.get k = .none) ∧
  v.timings = { debounce := 20, long := 15, again := 400, stuck := 30 } ∧
  ∀ c, v.channels.get c =
    { zone := c, hall := if c.val ≤ 1 then .a else .b, input := some c, talkMode := .key, depth := -24, gain := 0, grace := 3 }

/-! ## Programme unit -/

/-- R7: a phase change replaces the hall's record, hands one phase event to the four units and offers PHASE; nothing
else changes. -/
def Obligations.PhaseChangeIsHandedOn : Prop :=
  ∀ (h : Hall) (r : HallRecord) (ended : Option Admission) (cause : Cause) (s : State),
    let ev : PhaseEvent :=
      ⟨h, (hallOf s h).phase, r.phase, r.position, r.order.length,
        (r.order[r.position]?).map fun g => (g.kind, g.admission, g.desc), ended, cause⟩
    changePhase h r ended cause s =
      { s with
        programme := { s.programme with halls := s.programme.halls.set h r }
        mail := { s.mail with
          toAdmission := s.mail.toAdmission ++ [ev]
          toCall := s.mail.toCall ++ [.phase ev]
          toDescription := s.mail.toDescription ++ [ev]
          toZone := s.mail.toZone ++ [ev]
          offers := s.mail.offers ++ [⟨0, hallByte h, nameByte phaseNames r.phase, s.clock, ⟨true, true, true⟩, none⟩] } }

/-- R4, R2: ORDER_CLEAR, and a hall byte that names no hall. -/
def Obligations.OrderClear : Prop :=
  ∀ (s : State) (p : Port),
    (∀ h : Hall, Asks s p 0x10 [hallByte h] →
      ((hallOf s h).phase = .dark →
        exec (.orderClear p) s = .next (setHall h { hallOf s h with order := [], position := 0 } (replied p .ok [] s))) ∧
      ((hallOf s h).phase ≠ .dark → exec (.orderClear p) s = .next (replied p .state [] s))) ∧
    ∀ b : Byte, Asks s p 0x10 [b] → 1 < b.toNat → exec (.orderClear p) s = .next (replied p .range [] s)

/-- R5: ORDER_PUT: its tests in their order, and the order it leaves. -/
def Sys2Proof.Rules.OrderPut : Prop :=
  ∀ (s : State) (p : Port) (ps : List Byte), Asks s p 0x11 ps →
    let first := natAt ps 1
    let n := natAt ps 2
    (1 < natAt ps 0 ∨ n = 0 ∨ 8 < n ∨ ps.length ≠ 3 + 6 * n → exec (.orderPut p) s = .next (replied p .range [] s)) ∧
    ∀ h, byteAt ps 0 = hallByte h → 1 ≤ n → n ≤ 8 → ps.length = 3 + 6 * n →
      ((hallOf s h).phase ≠ .dark → exec (.orderPut p) s = .next (replied p .state [] s)) ∧
      ((hallOf s h).phase = .dark →
        ((hallOf s h).order.length < first ∨ 40 < first + n ∨ readSegments (ps.drop 3) n = none →
          exec (.orderPut p) s = .next (replied p .range [] s)) ∧
        ∀ new adjusted, first ≤ (hallOf s h).order.length → first + n ≤ 40 → readSegments (ps.drop 3) n = some (new, adjusted) →
          ∃ order, exec (.orderPut p) s = .next (setHall h { hallOf s h with order := order } (replied p (done adjusted) [] s)) ∧
            order.length = max (hallOf s h).order.length (first + n) ∧
            ∀ i, order[i]? = if first ≤ i ∧ i < first + n then new[i - first]? else (hallOf s h).order[i]?)

/-- R6, R2: ORDER_APPEND, by the hall's phase, and a hall byte that names no hall. -/
def Sys2Proof.Rules.OrderAppend : Prop :=
  ∀ (s : State) (p : Port) (ps : List Byte),
    (∀ b : Byte, Asks s p 0x12 (b :: ps) → 1 < b.toNat → exec (.orderAppend p) s = .next (replied p .range [] s)) ∧
    ∀ h : Hall, Asks s p 0x12 (hallByte h :: ps) →
    (readSegment ps = none → exec (.orderAppend p) s = .next (replied p .range [] s)) ∧
    ∀ g adjusted, readSegment ps = some (g, adjusted) →
      let r := hallOf s h
      (g.kind = .interval → exec (.orderAppend p) s = .next (replied p .range [] s)) ∧
      (g.kind ≠ .interval → r.phase = .dark → exec (.orderAppend p) s = .next (replied p .state [] s)) ∧
      (g.kind ≠ .interval → r.phase ≠ .dark → 40 ≤ r.order.length → exec (.orderAppend p) s = .next (replied p .full [] s)) ∧
      (g.kind ≠ .interval → r.order.length < 40 → r.phase ≠ .dark → r.phase ≠ .ended →
        exec (.orderAppend p) s = .next (setHall h { r with order := r.order ++ [g] } (replied p (done adjusted) [] s))) ∧
      (g.kind ≠ .interval → r.order.length < 40 → r.phase = .ended →
        exec (.orderAppend p) s =
          .next (changePhase h { r with order := r.order ++ [g], phase := .onBreak, position := r.order.length } none
            .orderAppend (replied p (done adjusted) [] s)))

/-- R2, R8, R9: HALL_OPEN: a hall byte that names no hall; the tests in their order, each fault named in the reply; and the
hall OPEN, its due-in clamped into 60–5400 s, its preshow plan scheduled. That the steps due at once are handed to the Call unit after the phase event is the
model's choice (log 18). -/
def Sys2Proof.Rules.HallOpen : Prop :=
  ∀ (s : State) (p : Port) (d1 d0 : Byte),
    (∀ b : Byte, Asks s p 0x13 [b, d1, d0] → 1 < b.toNat → exec (.hallOpen p) s = .next (replied p .range [] s)) ∧
    ∀ h : Hall, Asks s p 0x13 [hallByte h, d1, d0] →
    let r := hallOf s h
    let plans := s.programme.plans
    let seconds := d1.toNat * 256 + d0.toNat
    (r.phase ≠ .dark → exec (.hallOpen p) s = .next (replied p .state [0, 0xFF] s)) ∧
    (r.phase = .dark → storeOpen s = true → exec (.hallOpen p) s = .next (replied p .state [1, 0xFF] s)) ∧
    (r.phase = .dark → storeOpen s = false →
      (∀ fault i, orderFault plans r.order = some (fault, i) →
        exec (.hallOpen p) s = .next (replied p .state [byteOf fault, byteOf i] s)) ∧
      (orderFault plans r.order = none →
        (seconds = 0xFFFF →
          exec (.hallOpen p) s =
            .next (fireAtOnce h 6 (changePhase h
              { r with phase := .opened, position := 0, due := none, steps := [], dueOffered := false }
              none .hallOpen (replied p .ok [] s)))) ∧
        (seconds ≠ 0xFFFF →
          let due := s.clock + BitVec.ofNat 32 (10 * max 60 (min 5400 seconds))
          let steps := match r.settings.preshow with
            | some plan => sortSteps s.clock (planEntries s.clock due plan (plans.get plan))
            | none => []
          exec (.hallOpen p) s =
            .next (fireAtOnce h 6 (changePhase h
              { r with phase := .opened, position := 0, due := some due, steps := steps, dueOffered := false }
              none .hallOpen (replied p (done (decide (seconds < 60 ∨ 5400 < seconds))) [] s))))))

/-- R8, the table of test 3: an order is sound exactly when it meets the six conditions; with one that is not, the fault
reported is at the first index where a condition fails, and there it is the first that fails in the table's order, coded as
Control Ports codes it: INTERVAL_FIRST, INTERVAL_LAST, INTERVAL_ADJACENT, NO_LENGTH, EMPTY_PLAN as 3 to 7. -/
def Sys2Proof.Rules.RunningOrderCheck : Prop :=
  ∀ (plans : Table (List PlanStep) 8) (order : List Segment),
    (orderFault plans order = none ↔
      order ≠ [] ∧ ∀ i g, order[i]? = some g →
        (g.kind = .interval → i ≠ 0 ∧ i + 1 ≠ order.length ∧ g.length.isSome = true ∧
          ∀ q, order[i - 1]? = some q → q.kind ≠ .interval) ∧
        ∀ plan, g.plan = some plan → plans.get plan ≠ []) ∧
    (orderFault plans [] = some (2, 0)) ∧
    (∀ fault i, orderFault plans order = some (fault, i) → order ≠ [] →
      ∃ g, order[i]? = some g ∧ segmentFault plans order i g = some fault ∧
        ∀ j q, j < i → order[j]? = some q → segmentFault plans order j q = none) ∧
    ∀ i g,
      let interval := g.kind = .interval
      let first := interval ∧ i = 0
      let last := interval ∧ i + 1 = order.length
      let adjacent := interval ∧ i ≠ 0 ∧ ∃ q, order[i - 1]? = some q ∧ q.kind = .interval
      let noLength := interval ∧ g.length = none
      let emptyPlan := ∃ plan, g.plan = some plan ∧ plans.get plan = []
      let fault := segmentFault plans order i g
      (first → fault = some 3) ∧
      (¬first → last → fault = some 4) ∧
      (¬first → ¬last → adjacent → fault = some 5) ∧
      (¬first → ¬last → ¬adjacent → noLength → fault = some 6) ∧
      (¬first → ¬last → ¬adjacent → ¬noLength → emptyPlan → fault = some 7) ∧
      (¬first → ¬last → ¬adjacent → ¬noLength → ¬emptyPlan → fault = none)

/-- R2, R10, R11, R25: SEG_START: a hall byte that names no hall; an expected position that differs, and the phases it is refused in; from OPEN or BREAK the
segment at the position; from INTERVAL the one after it. That the QUEUED PLAN calls' cancellation is handed before the
phase event, and the steps due at once after it, is the model's choice (log 18). -/
def Sys2Proof.Rules.SegStart : Prop :=
  ∀ (s : State) (p : Port) (e : Byte),
    (∀ b : Byte, Asks s p 0x14 [b, e] → 1 < b.toNat → exec (.segStart p) s = .next (replied p .range [] s)) ∧
    ∀ h : Hall, Asks s p 0x14 [hallByte h, e] →
    let r := hallOf s h
    (e ≠ 0xFF → e.toNat ≠ r.position → exec (.segStart p) s = .next (replied p .state [] s)) ∧
    (r.phase = .playing ∨ r.phase = .gap ∨ r.phase = .dark ∨ r.phase = .ended →
      exec (.segStart p) s = .next (replied p .state [] s)) ∧
    (e = 0xFF ∨ e.toNat = r.position →
      (r.phase = .interval →
        exec (.segStart p) s =
          .next (changePhase h
            { r with phase := .playing, position := r.position + 1, due := none, steps := [], dueOffered := false }
            none .segStart (cancelPlanCalls h (replied p .ok [] s)))) ∧
      ∀ g, r.order[r.position]? = some g →
        (g.kind ≠ .interval →
          (r.phase = .onBreak →
            exec (.segStart p) s = .next (changePhase h { r with phase := .playing } none .segStart (replied p .ok [] s))) ∧
          (r.phase = .opened →
            exec (.segStart p) s =
              .next (changePhase h { r with phase := .playing, due := none, steps := [], dueOffered := false } none
                .segStart (cancelPlanCalls h (replied p .ok [] s))))) ∧
        (∀ seconds, g.kind = .interval → g.length = some seconds → r.phase = .onBreak →
          let due := s.clock + BitVec.ofNat 32 (10 * seconds)
          let steps := match g.plan with
            | some plan => sortSteps s.clock (planEntries s.clock due plan (s.programme.plans.get plan))
            | none => r.steps
          exec (.segStart p) s =
            .next (fireAtOnce h 6 (changePhase h
              { r with phase := .interval, due := some due, steps := steps, dueOffered := false }
              none .segStart (replied p .ok [] s)))))

/-- R2, R12, R25: SEG_END, and a hall byte that names no hall. That the QUEUED PLAN calls' cancellation is handed before the phase event is the model's choice
(log 18). -/
def Sys2Proof.Rules.SegEnd : Prop :=
  ∀ (s : State) (p : Port) (e : Byte),
    (∀ b : Byte, Asks s p 0x15 [b, e] → 1 < b.toNat → exec (.segEnd p) s = .next (replied p .range [] s)) ∧
    ∀ h : Hall, Asks s p 0x15 [hallByte h, e] →
    let r := hallOf s h
    let phase : Phase := if r.position + 1 = r.order.length then .ended else .onBreak
    let ended := (r.order[r.position]?).map Segment.admission
    (e ≠ 0xFF → e.toNat ≠ r.position → exec (.segEnd p) s = .next (replied p .state [] s)) ∧
    (r.phase = .opened ∨ r.phase = .onBreak ∨ r.phase = .dark ∨ r.phase = .ended →
      exec (.segEnd p) s = .next (replied p .state [] s)) ∧
    (e = 0xFF ∨ e.toNat = r.position →
      (r.phase = .playing ∨ r.phase = .gap →
        exec (.segEnd p) s =
          .next (changePhase h { r with phase := phase, position := r.position + 1 } ended .segEnd (replied p .ok [] s))) ∧
      (r.phase = .interval →
        exec (.segEnd p) s =
          .next (changePhase h
            { r with phase := phase, position := r.position + 1, due := none, steps := [], dueOffered := false }
            ended .segEnd (cancelPlanCalls h (replied p .ok [] s)))))

/-- R2, R14, R15: GAP_MARK and GAP_END, and a hall byte that names no hall. -/
def Sys2Proof.Rules.GapMarkAndEnd : Prop :=
  ∀ (s : State) (p : Port),
    (∀ b : Byte, 1 < b.toNat →
      (Asks s p 0x16 [b] → exec (.gapMark p) s = .next (replied p .range [] s)) ∧
      (Asks s p 0x17 [b] → exec (.gapEnd p) s = .next (replied p .range [] s))) ∧
    ∀ h : Hall,
    let r := hallOf s h
    let atGaps := ∃ g, r.order[r.position]? = some g ∧ g.admission = .atGaps
    (Asks s p 0x16 [hallByte h] →
      (r.phase = .playing ∧ atGaps →
        exec (.gapMark p) s = .next (changePhase h { r with phase := .gap } none .gapMark (replied p .ok [] s))) ∧
      (¬(r.phase = .playing ∧ atGaps) → exec (.gapMark p) s = .next (replied p .state [] s))) ∧
    (Asks s p 0x17 [hallByte h] →
      (r.phase = .gap →
        exec (.gapEnd p) s = .next (changePhase h { r with phase := .playing } none .gapEnd (replied p .ok [] s))) ∧
      (r.phase ≠ .gap → exec (.gapEnd p) s = .next (replied p .state [] s)))

/-- R16–R18: the QUIET and SOUND events of a hall feed, each the oldest one waiting for its hall. That a SOUND event handed
before lane 0 was lost ends no gap while the lane is UNLOCKED is the model's reading of R18 (log 31). -/
def Sys2Proof.Rules.HallLevelEvents : Prop :=
  ∀ (s : State) (h : Hall) (rest : List LevelState),
    let r := hallOf s h
    let t : State := { s with mail := { s.mail with hallLevels := s.mail.hallLevels.set h rest } }
    let taken := r.phase = .playing ∧ (∃ g, r.order[r.position]? = some g ∧ g.admission = .atGaps) ∧
      s.engine.lanes.lane0.locked = true
    (s.mail.hallLevels.get h = .quiet :: rest →
      (taken → exec (.hallQuietEvent h) s = .next (changePhase h { r with phase := .gap } none .quietEvent t)) ∧
      (¬taken → exec (.hallQuietEvent h) s = .next t)) ∧
    (s.mail.hallLevels.get h = .sound :: rest →
      (r.phase = .gap → s.engine.lanes.lane0.locked = true →
        exec (.hallSoundEvent h) s = .next (changePhase h { r with phase := .playing } none .soundEvent t)) ∧
      (r.phase ≠ .gap ∨ s.engine.lanes.lane0.locked = false → exec (.hallSoundEvent h) s = .next t))

/-- R2, R19, R20: HALL_DARK: in DARK nothing; without force a show goes on; otherwise the Programme unit's part of a
teardown; a hall byte that names no hall is refused RANGE. That a force byte which is no code is refused too is the model's
choice (log 22). -/
def Obligations.HallDark : Prop :=
  ∀ (s : State) (p : Port),
    (∀ b f : Byte, Asks s p 0x18 [b, f] → 1 < b.toNat ∨ 1 < f.toNat → exec (.hallDark p) s = .next (replied p .range [] s)) ∧
    ∀ (h : Hall) (force : Bool), Asks s p 0x18 [hallByte h, flagByte force] →
    let r := hallOf s h
    (r.phase = .dark → exec (.hallDark p) s = .next (replied p .ok [] s)) ∧
    (force = false → r.phase = .playing ∨ r.phase = .gap ∨ r.phase = .onBreak ∨ r.phase = .interval →
      exec (.hallDark p) s = .next (replied p .state [] s)) ∧
    (r.phase = .opened ∨ r.phase = .ended ∨ (force = true ∧ r.phase ≠ .dark) →
      exec (.hallDark p) s =
        .next (changePhase h { r with phase := .dark, position := 0, due := none, steps := [], dueOffered := false } none
          .hallDark (orderCall (.cancelHall h) (replied p .ok [] s))))

/-- R23: the pending steps that scheduling a plan gives: every step whose fire time is not earlier than the house clock,
in order of fire time, then of step index. -/
def Sys2Proof.Rules.PlanSchedule : Prop :=
  ∀ (now due : Clock) (plan : Fin 8) (steps : List PlanStep),
    let entries := sortSteps now (planEntries now due plan steps)
    (∀ e, e ∈ entries ↔ ∃ i st, steps[i]? = some st ∧ e = ⟨plan, i, due - BitVec.ofNat 32 (10 * st.offset)⟩ ∧
      (reached now e.fire = false ∨ e.fire = now)) ∧
    entries.Pairwise fun x y => (x.fire - now).toNat < (y.fire - now).toNat ∨ (x.fire = y.fire ∧ x.step < y.step)

/-- R24, R26: a plan step fires at its fire time, and INTERVAL_DUE is offered once at the due time of an interval. -/
def Sys2Proof.Rules.PlanStepAndIntervalDue : Prop :=
  ∀ (s : State) (h : Hall) (due : Clock),
    let r := hallOf s h
    (∀ e rest st, r.steps = e :: rest → r.due = some due → reached s.clock e.fire = true →
      (s.programme.plans.get e.plan)[e.step]? = some st →
      exec (.planStepFire h) s =
        .next (orderCall (.submit ⟨.plan e.plan e.step, h, st.priority, st.content, st.mode, st.targets, due⟩)
          (setHall h { r with steps := rest } s))) ∧
    (r.phase = .interval → r.due = some due → reached s.clock due = true →
      (r.dueOffered = false →
        exec (.intervalDue h) s =
          .next (offer 13 (hallByte h) (byteOf r.position) (setHall h { r with dueOffered := true } s))) ∧
      (r.dueOffered = true → exec (.intervalDue h) s = .next s))

/-- R21, R27: PLAN_PUT and HALL_SET where the tests pass. -/
def Sys2Proof.Rules.PlanPutAndHallSet : Prop :=
  ∀ (s : State) (p : Port), saving s = false →
    (∀ (h : Hall) (ps : List Byte) (v : HallSettings) (adjusted : Bool), Asks s p 0x1A (hallByte h :: ps) →
      readHallSettings ps = some (v, adjusted) →
      exec (.hallSet p) s = .next (setHall h { hallOf s h with settings := v } (replied p (done adjusted) [] s))) ∧
    ∀ (plan : Fin 8) (i : Byte) (ps : List Byte), planInUse plan s = false →
      let steps := s.programme.plans.get plan
      (Asks s p 0x19 [byteOf plan.val, i, 0] → i.toNat ≤ 5 → i.toNat ≤ steps.length →
        exec (.planPut p) s = .next (setPlan plan (steps.take i.toNat) (replied p .ok [] s))) ∧
      ∀ st adjusted, Asks s p 0x19 (byteOf plan.val :: i :: 1 :: ps) → ps.length = 15 → i.toNat ≤ 5 → i.toNat ≤ steps.length →
        readPlanStep ps = some (st, adjusted) →
        ∃ new, exec (.planPut p) s = .next (setPlan plan new (replied p (done adjusted) [] s)) ∧
          new.length = max steps.length (i.toNat + 1) ∧ ∀ j, new[j]? = if j = i.toNat then some st else steps[j]?

/-- R21, R27: PLAN_PUT and HALL_SET where a test fails: the tests in their order, when a plan is in use, and which records of
a step and of a hall's settings are refused. That a step-present byte above 1 and a step index above 5 are refused RANGE is
the model's choice (log 12). -/
def Sys2Proof.Rules.PlanPutAndHallSetRefused : Prop :=
  ∀ (s : State) (p : Port) (ps : List Byte),
    (Asks s p 0x1A ps →
      let refused := fun st => exec (.hallSet p) s = .next (replied p st [] s)
      (1 < natAt ps 0 → refused .range) ∧
      (natAt ps 0 ≤ 1 → saving s = true → refused .busy) ∧
      (natAt ps 0 ≤ 1 → saving s = false → readHallSettings (ps.drop 1) = none → refused .range)) ∧
    (Asks s p 0x19 ps →
      let refused := fun st => exec (.planPut p) s = .next (replied p st [] s)
      let badForm := 7 < natAt ps 0 ∨ 1 < natAt ps 2 ∨ (natAt ps 2 = 0 ∧ ps.length ≠ 3) ∨ (natAt ps 2 = 1 ∧ ps.length ≠ 18)
      (badForm → refused .range) ∧
      ∀ plan : Fin 8, natAt ps 0 = plan.val → ¬badForm →
        (saving s = true → refused .busy) ∧
        (saving s = false → planInUse plan s = true → refused .state) ∧
        (saving s = false → planInUse plan s = false →
          5 < natAt ps 1 ∨ (s.programme.plans.get plan).length < natAt ps 1 ∨
            (natAt ps 2 = 1 ∧ readPlanStep (ps.drop 3) = none) → refused .range)) ∧
    (∀ plan, planInUse plan s = true ↔ ∃ h,
      ((hallOf s h).phase ≠ .dark ∧ ∃ g ∈ (hallOf s h).order, g.plan = some plan) ∨ ∃ e ∈ (hallOf s h).steps, e.plan = plan) ∧
    (readHallSettings ps = none ↔ 7 < natAt ps 5 ∧ natAt ps 5 ≠ 255) ∧
    (readPlanStep ps = none ↔
      1 < natAt ps 2 ∨ (natAt ps 2 = 0 ∧ (natAt ps 3 = 0 ∨ 6 < natAt ps 3)) ∨ (natAt ps 2 = 1 ∧ 7 < natAt ps 3) ∨
        1 < natAt ps 14 ∨ ∀ zones, zoneSetAt ps 10 = some zones → zones = 0 ∨ ∃ z d, zoneIn z zones = true ∧ zoneKind z = .desc d)


/-- R3: a segment record of six bytes: which is refused, and the segment it gives: the length of an INTERVAL clamped into
60–3600 s, a length or a plan on any other segment dropped, and the request ADJUSTED exactly then; and records one after
another, refused whole when one is. -/
def Sys2Proof.Rules.SegmentRecords : Prop :=
  (∀ ps : List Byte,
    let length := natAt ps 3 * 256 + natAt ps 4
    let interval := natAt ps 0 = 2
    (readSegment ps = none ↔
      2 < natAt ps 0 ∨ 2 < natAt ps 1 ∨ 2 < natAt ps 2 ∨ (7 < natAt ps 5 ∧ natAt ps 5 ≠ 255)) ∧
    ∀ g adjusted, readSegment ps = some (g, adjusted) →
      g.kind = (match natAt ps 0 with | 0 => .music | 1 => .speech | _ => .interval) ∧
      g.admission = (match natAt ps 1 with | 0 => .never | 1 => .atEnd | _ => .atGaps) ∧
      g.desc = (match natAt ps 2 with | 0 => .free | 1 => .gapsOnly | _ => .muted) ∧
      (interval → g.length = (if length = 65535 then none else some (max 60 (min 3600 length))) ∧
        g.plan.map Fin.val = (if natAt ps 5 = 255 then none else some (natAt ps 5)) ∧
        (adjusted = true ↔ length ≠ 65535 ∧ (length < 60 ∨ 3600 < length))) ∧
      (¬interval → g.length = none ∧ g.plan = none ∧ (adjusted = true ↔ length ≠ 65535 ∨ natAt ps 5 ≠ 255))) ∧
  ∀ ps : List Byte, readSegments ps 0 = some ([], false) ∧
    ∀ n, readSegments ps (n + 1) = match readSegment ps, readSegments (ps.drop 6) n with
      | some g, some rest => some (g.1 :: rest.1, g.2 || rest.2)
      | _, _ => none

/-- R23–R25: the steps that are due when their plan is scheduled, six at most, are submitted in list order and leave the
pending step list, up to the first that is not due. -/
def Sys2Proof.Rules.FireAtOnce : Prop :=
  ∀ (h : Hall) (s : State),
    let r := hallOf s h
    (r.steps = [] → fireAtOnce h 6 s = s) ∧
    ∀ (due : Clock) (fired rest : List PendingStep), r.due = some due → r.steps = fired ++ rest → fired.length ≤ 6 →
      (∀ e ∈ fired, reached s.clock e.fire = true) →
      (fired.length < 6 → ∀ e, rest.head? = some e → reached s.clock e.fire = false) →
      let submitted := fired.filterMap fun e => ((s.programme.plans.get e.plan)[e.step]?).map fun st =>
        ProgrammeOrder.submit ⟨.plan e.plan e.step, h, st.priority, st.content, st.mode, st.targets, due⟩
      fireAtOnce h 6 s = setHall h { r with steps := rest }
        { s with mail := { s.mail with toCall := s.mail.toCall ++ submitted } }

/-- R21, R27: the plan step and the hall settings that a record gives, each value taken to the nearer end of its range, and
ADJUSTED exactly where one had to be. That every priority above 6 is taken as 6 is the model's choice (log 12). -/
def Sys2Proof.Rules.PlanStepAndHallRecords : Prop :=
  (∀ (ps : List Byte) (st : PlanStep) (adjusted : Bool), readPlanStep ps = some (st, adjusted) →
    let offset := natAt ps 0 * 256 + natAt ps 1
    let zones := natAt ps 10 * 65536 + natAt ps 11 * 256 + natAt ps 12
    let clamped := 3600 < offset ∨ 6 < natAt ps 13
    st.offset = min 3600 offset ∧ st.priority = min 6 (natAt ps 13) ∧
    st.mode = (if natAt ps 14 = 0 then .duck else .replace) ∧
    (∀ z : ZoneNo, zoneIn z st.targets = zones.testBit z.val) ∧
    (natAt ps 2 = 0 → st.content = .phrases (((ps.drop 4).take (natAt ps 3)).map BitVec.toNat) ∧ (adjusted = true ↔ clamped)) ∧
    (natAt ps 2 ≠ 0 →
      (∃ pattern : Fin 8, pattern.val = natAt ps 3 ∧ st.content = .chime pattern (max 1 (min 4 (natAt ps 4)))) ∧
      (adjusted = true ↔ clamped ∨ natAt ps 4 < 1 ∨ 4 < natAt ps 4))) ∧
  ∀ (ps : List Byte) (v : HallSettings) (adjusted : Bool), readHallSettings ps = some (v, adjusted) →
    let window := natAt ps 0 * 256 + natAt ps 1
    v.breakWindow = max 10 (min 300 window) ∧ v.gapWindow = max 5 (min 120 (natAt ps 2)) ∧ v.warnTime = min 30 (natAt ps 3) ∧
    v.phrase = (if natAt ps 4 = 255 then none else some (natAt ps 4)) ∧
    v.preshow.map Fin.val = (if natAt ps 5 = 255 then none else some (natAt ps 5)) ∧
    (adjusted = true ↔ window < 10 ∨ 300 < window ∨ natAt ps 2 < 5 ∨ 120 < natAt ps 2 ∨ 30 < natAt ps 3)

/-- R20, R24, R25: what the Programme unit hands the Call unit goes behind what it handed before; the end of a due span hands
the cancellation of the hall's QUEUED PLAN calls. -/
def Sys2Proof.Rules.OrdersToTheCallUnit : Prop :=
  ∀ (s : State), (∀ o, orderCall o s = { s with mail := { s.mail with toCall := s.mail.toCall ++ [o] } }) ∧
    ∀ h, cancelPlanCalls h s = orderCall (.cancelPlan h) s

/-! ## Zone unit -/

/-- R33, R34, R42, R44: the Zone unit takes a phase event: its view, every hushed flag, the loop bases of the hall and the
description bases when the hall opens or closes, and the hush change; stacks and settings stay. -/
def Obligations.ZonePhaseEvent : Prop :=
  ∀ (s : State) (ev : PhaseEvent) (rest : List PhaseEvent), s.mail.toZone = ev :: rest →
    let u := s.zoneUnit
    let view := u.view.set ev.hall ev.new
    let edge := ev.old = .dark ∨ ev.new = .dark
    ∃ v flags,
      exec .zonePhaseEvent s =
        .next { s with
          zoneUnit := v
          mail := { s.mail with toZone := rest, zoneToCall := s.mail.zoneToCall ++ if flags = [] then [] else [.hush flags] } } ∧
      (∀ z b, (z, b) ∈ flags ↔ hushedFlag u z ≠ hushedFlag v z ∧ b = hushedFlag v z) ∧
      v.view = view ∧ v.pushAnswer = u.pushAnswer ∧ v.removalAnswer = u.removalAnswer ∧
      (∀ l, v.loops.get l =
        { u.loops.get l with
          hushed := decide (view.get (u.loops.get l).settings.hall = .playing ∨ view.get (u.loops.get l).settings.hall = .gap) }) ∧
      (∀ f, v.foyers.get f =
        { u.foyers.get f with
          hushed := match (u.foyers.get f).settings.quietHall with
            | some h => decide (view.get h = .playing ∨ view.get h = .gap)
            | none => false }) ∧
      (∀ l, v.zones.get (loopZone l) =
        if edge ∧ (u.loops.get l).settings.hall = ev.hall then
          (u.zones.get (loopZone l)).withBase
            (if ev.new = .dark then (.silence, -121) else (match ev.hall with | .a => .hallA | .b => .hallB, 0))
        else u.zones.get (loopZone l)) ∧
      (∀ d, v.zones.get (descZone d) =
        if edge then (u.zones.get (descZone d)).withBase (descBase view s.description.channels d) else u.zones.get (descZone d)) ∧
      ∀ f, v.zones.get (foyerZone f) = u.zones.get (foyerZone f)

/-- R34: the base of a description zone is the feed of the hall of the lowest-numbered channel that names the zone and
whose hall is not DARK, and SILENCE when there is none. -/
def Sys2Proof.Rules.DescriptionBase : Prop :=
  ∀ (view : PerHall Phase) (channels : Table Channel 4) (d : Fin 4),
    let serves := fun c : Fin 4 =>
      (channels.get c).settings.zone = d ∧ view.get (channels.get c).settings.hall ≠ .dark
    (∀ c, serves c → (∀ c', c' < c → ¬serves c') →
      descBase view channels d = (match (channels.get c).settings.hall with | .a => .hallA | .b => .hallB, 0)) ∧
    ((∀ c, ¬serves c) → descBase view channels d = (.silence, -121))

/-- R34, R35: a relay request sets a foyer zone's request and its base; a channel's change chooses two description bases
again. -/
def Sys2Proof.Rules.RelayAndChannelChange : Prop :=
  ∀ (s : State),
    (∀ (f : Fin 6) (relay : Option Hall) (rest : List RelayRequest), s.mail.relays = ⟨f, relay⟩ :: rest →
      let set := (s.zoneUnit.foyers.get f).settings
      let base : BaseSource × Int := match relay with
        | some .a => (.relayA, set.relayGain)
        | some .b => (.relayB, set.relayGain)
        | none => match set.idleSource with
          | .aux => (.aux, set.idleGain)
          | .silence => (.silence, -121)
      exec .relayRequest s =
        .next { s with
          zoneUnit := { s.zoneUnit with
            foyers := s.zoneUnit.foyers.set f { s.zoneUnit.foyers.get f with relay := relay }
            zones := s.zoneUnit.zones.set (foyerZone f) ((s.zoneUnit.zones.get (foyerZone f)).withBase base) }
          mail := { s.mail with relays := rest } }) ∧
    ∀ (c : ChannelChange) (rest : List ChannelChange), s.mail.channelChanges = c :: rest →
      ∃ zones, exec .channelChangeReport s =
          .next { s with zoneUnit := { s.zoneUnit with zones := zones }, mail := { s.mail with channelChanges := rest } } ∧
        ∀ z, zones.get z = if z = descZone c.oldZone ∨ z = descZone c.newZone then
            (s.zoneUnit.zones.get z).withBase (match zoneKind z with
              | .desc d => descBase s.zoneUnit.view s.description.channels d
              | _ => (.silence, -121))
          else s.zoneUnit.zones.get z

/-- R38: a push is accepted exactly when every target zone passes the four tests; an accepted one goes on top of every
target stack and moves no other entry; a refused one changes no stack and names each failing zone with the first test it
failed, in the order FULL, PRIORITY, OWNER, HUSHED. -/
def Sys2Proof.Rules.PushIsAllOrNothing : Prop :=
  ∀ (q : PushRequest) (s : State),
    let u := s.zoneUnit
    let v := (push q s).2.zoneUnit
    let passes := fun z : ZoneNo =>
      let stack := (u.zones.get z).stack
      stack.length < 3 ∧ (∀ top, stack.head? = some top → top.priority < q.priority) ∧
        (∀ e ∈ stack, e.owner ≠ q.owner) ∧ (hushedFlag u z = false ∨ 6 ≤ q.priority ∨ q.exempt = true)
    let failed := fun (z : ZoneNo) (f : PushFailure) =>
      let stack := (u.zones.get z).stack
      let full := 3 ≤ stack.length
      let low := ∃ top, stack.head? = some top ∧ q.priority ≤ top.priority
      let owned := ∃ e ∈ stack, e.owner = q.owner
      let hushed := hushedFlag u z = true ∧ q.priority < 6 ∧ q.exempt = false
      match f with
      | .full => full
      | .priority => ¬full ∧ low
      | .owner => ¬full ∧ ¬low ∧ owned
      | .hushed => ¬full ∧ ¬low ∧ ¬owned ∧ hushed
    ((push q s).1 = true ↔ ∀ z, zoneIn z q.targets = true → passes z) ∧
    ((push q s).1 = true → v.pushAnswer = some .accepted ∧ ∀ z,
      v.zones.get z = if zoneIn z q.targets then
        { u.zones.get z with stack :=
          ⟨q.source, match q.mode with
            | .duck => .duck (q.depth.getD (u.zones.get z).settings.duckDepth)
            | .replace => .replace, q.priority, q.owner⟩ :: (u.zones.get z).stack }
      else u.zones.get z) ∧
    ((push q s).1 = false → ∃ failing,
      (push q s).2 = { s with zoneUnit := { u with pushAnswer := some (.refused failing) } } ∧
      ∀ z f, (z, f) ∈ failing ↔ zoneIn z q.targets = true ∧ failed z f)

/-- R39: a removal takes the owner's entry out of every named stack, wherever it stands, and the other entries keep their
order; where it finds none it is answered NOT_PRESENT and nothing else changes. -/
def Sys2Proof.Rules.RemovalTakesOwnersEntries : Prop :=
  ∀ (owner : Owner) (zones : ZoneSet) (s : State),
    let u := s.zoneUnit
    let t := remove owner zones s
    let found := ∃ z, zoneIn z zones = true ∧ ∃ e ∈ (u.zones.get z).stack, e.owner = owner
    (found → t.zoneUnit.removalAnswer = some .removed ∧ ∀ z, t.zoneUnit.zones.get z =
      if zoneIn z zones then { u.zones.get z with stack := (u.zones.get z).stack.filter fun e => e.owner ≠ owner }
      else u.zones.get z) ∧
    (¬found → t = { s with zoneUnit := { u with removalAnswer := some .notPresent } })

/-- R41: after an accepted push, and after a removal that took an entry out, one stack report to the Call unit and to the
Description unit: the zones whose stacks changed, and of every owner with an entry in one of them the zones, of all eighteen,
where its entry is on top; after a refused push and a removal that found nothing, none. -/
def Obligations.StackReportGivesCoverage : Prop :=
  ∀ (s : State),
    let reports := fun (changed : ZoneSet) (t : State) => ∃ cov, t.mail = { s.mail with
          zoneToCall := s.mail.zoneToCall ++ [.report ⟨changed, cov⟩]
          zoneToDescription := s.mail.zoneToDescription ++ [⟨changed, cov⟩] } ∧
        (∀ o zs, (o, zs) ∈ cov → ∀ z, zoneIn z zs = true ↔ ∃ e, (t.zoneUnit.zones.get z).stack.head? = some e ∧ e.owner = o) ∧
        ∀ o, (∃ zs, (o, zs) ∈ cov) ↔ ∃ z, zoneIn z changed = true ∧ ∃ e ∈ (t.zoneUnit.zones.get z).stack, e.owner = o
    (∀ q, (push q s).1 = true → reports q.targets (push q s).2) ∧
    (∀ q, (push q s).1 = false → (push q s).2.mail = s.mail) ∧
    ∀ (owner : Owner) (zones changed : ZoneSet),
      (∀ z, zoneIn z changed = true ↔ zoneIn z zones = true ∧ ∃ e ∈ (s.zoneUnit.zones.get z).stack, e.owner = owner) →
      (changed ≠ 0 → reports changed (remove owner zones s)) ∧ (changed = 0 → (remove owner zones s).mail = s.mail)

/-- R76: an over-current event lowers the fold-back by 12 steps, and the fourth shuts the loop; each restarts the recovery
count and offers LOOP_FAULT; on a SHUT loop nothing happens. -/
def Sys2Proof.Rules.OverCurrentFoldsBack : Prop :=
  ∀ (s : State) (l : Fin 8) (rest : List LoopEvent), s.mail.loopEvents.get l = .overCurrent :: rest →
    let r := s.zoneUnit.loops.get l
    let t : State := { s with mail := { s.mail with loopEvents := s.mail.loopEvents.set l rest } }
    let after := fun (q : LoopRecord) (code : Byte) =>
      exec (.overCurrentEvent l) s = .next (offer 7 (byteOf l.val) code (setLoop l { q with recovery := 0 } t))
    (r.shut = true → exec (.overCurrentEvent l) s = .next t) ∧
    (r.shut = false →
      (r.foldBack = .none → after { r with foldBack := .by12 } 0) ∧
      (r.foldBack = .by12 → after { r with foldBack := .by24 } 1) ∧
      (r.foldBack = .by24 → after { r with foldBack := .by36 } 2) ∧
      (r.foldBack = .by36 → after { r with shut := true } 3))

/-- R77–R80: the recovery step of a loop; the open-loop events, which change nothing on a SHUT loop, so that an open loop that
shuts is still shown open; and LOOP_RESET, which leaves the open flag. -/
def Sys2Proof.Rules.LoopRecoveryOpenAndReset : Prop :=
  ∀ (s : State) (l : Fin 8),
    let r := s.zoneUnit.loops.get l
    (1000 ≤ r.recovery → exec (.foldBackRecovery l) s = .next (setLoop l
      { r with recovery := 0, foldBack := match r.foldBack with
        | .by36 => .by24
        | .by24 => .by12
        | _ => .none } s)) ∧
    (r.recovery < 1000 → exec (.foldBackRecovery l) s = .next s) ∧
    (∀ rest, s.mail.loopEvents.get l = .openBegin :: rest →
      let t : State := { s with mail := { s.mail with loopEvents := s.mail.loopEvents.set l rest } }
      (r.shut = false → r.openFlag = false →
        exec (.openLoopBegin l) s = .next (offer 7 (byteOf l.val) 4 (setLoop l { r with openFlag := true } t))) ∧
      (r.shut = true ∨ r.openFlag = true → exec (.openLoopBegin l) s = .next t)) ∧
    (∀ rest, s.mail.loopEvents.get l = .openEnd :: rest →
      let t : State := { s with mail := { s.mail with loopEvents := s.mail.loopEvents.set l rest } }
      (r.shut = false → r.openFlag = true →
        exec (.openLoopEnd l) s = .next (offer 7 (byteOf l.val) 5 (setLoop l { r with openFlag := false } t))) ∧
      (r.shut = true ∨ r.openFlag = false → exec (.openLoopEnd l) s = .next t)) ∧
    ∀ p z, Asks s p 0x2A [z] →
      (7 < z.toNat → exec (.loopReset p) s = .next (replied p .range [] s)) ∧
      (z = byteOf l.val → exec (.loopReset p) s =
        .next (setLoop l { r with shut := false, foldBack := .none, recovery := 0 } (replied p .ok [] s)))

/-- R31: ZONE_SET: its tests in their order, and the settings it replaces, by the zone's kind. -/
def Sys2Proof.Rules.ZoneSetRequest : Prop :=
  ∀ (s : State) (p : Port) (ps : List Byte), Asks s p 0x20 ps →
    let u := s.zoneUnit
    let rest := ps.drop 1
    (17 < natAt ps 0 → exec (.zoneSet p) s = .next (replied p .range [] s)) ∧
    ∀ z : ZoneNo, natAt ps 0 = z.val →
      (saving s = true → exec (.zoneSet p) s = .next (replied p .busy [] s)) ∧
      (saving s = false → servedDark s z rest = false ∨ (u.zones.get z).stack ≠ [] →
        exec (.zoneSet p) s = .next (replied p .state [] s)) ∧
      (saving s = false → servedDark s z rest = true → (u.zones.get z).stack = [] →
        let common := readZoneCommon rest
        let zones := u.zones.modify z fun r => { r with settings := common.1 }
        (∀ d, zoneKind z = .desc d →
          exec (.zoneSet p) s = .next { replied p (done common.2) [] s with zoneUnit := { u with zones := zones } }) ∧
        (∀ l, zoneKind z = .loop l →
          (readLoopSettings rest = none → exec (.zoneSet p) s = .next (replied p .range [] s)) ∧
          ∀ set adjusted, readLoopSettings rest = some (set, adjusted) →
            exec (.zoneSet p) s = .next { replied p (done (common.2 || adjusted)) [] s with
              zoneUnit := { u with zones := zones, loops := u.loops.modify l fun r => { r with settings := set } } }) ∧
        (∀ f, zoneKind z = .foyer f →
          (readFoyerSettings rest = none → exec (.zoneSet p) s = .next (replied p .range [] s)) ∧
          ∀ set adjusted, readFoyerSettings rest = some (set, adjusted) →
            let r := { u.foyers.get f with settings := set }
            exec (.zoneSet p) s = .next { replied p (done (common.2 || adjusted)) [] s with
              zoneUnit := { u with
                zones := zones.modify z fun q => q.withBase (foyerBase r)
                foyers := u.foyers.set f r } }))

/-- R30, R31, R35: the records of ZONE_SET: which are refused, the settings they give, each number taken to the nearer end of
its range and ADJUSTED exactly where one had to be; and the base of a foyer zone. -/
def Sys2Proof.Rules.ZoneRecords : Prop :=
  ∀ (ps : List Byte),
    let step := fun i => (byteAt ps i).toInt
    let outside := fun (lo hi x : Int) => x < lo ∨ hi < x
    (readZoneCommon ps).1 =
      { trim := max (-24) (min 24 (step 1)), rampDown := max 1 (min 20 (natAt ps 2)), rampUp := max 1 (min 20 (natAt ps 3))
        duckDepth := max (-60) (min 0 (step 4)) } ∧
    ((readZoneCommon ps).2 = true ↔ outside (-24) 24 (step 1) ∨ natAt ps 2 < 1 ∨ 20 < natAt ps 2 ∨ natAt ps 3 < 1 ∨
      20 < natAt ps 3 ∨ outside (-60) 0 (step 4)) ∧
    (readLoopSettings ps = none ↔ 1 < natAt ps 0) ∧
    (∀ v adjusted, readLoopSettings ps = some (v, adjusted) →
      let limit := natAt ps 9 * 256 + natAt ps 10
      byteAt ps 0 = hallByte v.hall ∧ v.driveLimit = min 2047 limit ∧ (adjusted = true ↔ 2047 < limit)) ∧
    (readFoyerSettings ps = none ↔ 1 < natAt ps 5 ∨ (1 < natAt ps 8 ∧ natAt ps 8 ≠ 255)) ∧
    (∀ v adjusted, readFoyerSettings ps = some (v, adjusted) →
      v.idleSource = (if natAt ps 5 = 0 then .aux else .silence) ∧
      v.idleGain = max (-121) (min 24 (step 6)) ∧ v.relayGain = max (-121) (min 24 (step 7)) ∧
      v.quietHall = (match natAt ps 8 with | 0 => some .a | 1 => some .b | _ => none) ∧
      (adjusted = true ↔ outside (-121) 24 (step 6) ∨ outside (-121) 24 (step 7))) ∧
    ∀ r : FoyerRecord, foyerBase r = match r.relay with
      | some .a => (.relayA, r.settings.relayGain)
      | some .b => (.relayB, r.settings.relayGain)
      | none => match r.settings.idleSource with
        | .aux => (.aux, r.settings.idleGain)
        | .silence => (.silence, -121)

/-- R30: every hall a zone serves, before and after the change, is DARK in the Zone unit's view. -/
def Sys2Proof.Rules.ServedHallsDark : Prop :=
  ∀ (s : State) (z : ZoneNo) (ps : List Byte),
    let dark := fun h => s.zoneUnit.view.get h = .dark
    let test := servedDark s z ps = true
    (∀ l, zoneKind z = .loop l →
      (test ↔ dark (s.zoneUnit.loops.get l).settings.hall ∧ ∀ h, byteAt ps 0 = hallByte h → dark h)) ∧
    (∀ d, zoneKind z = .desc d → (test ↔ ∀ c, (channelOf s c).settings.zone = d → dark (channelOf s c).settings.hall)) ∧
    ∀ f, zoneKind z = .foyer f →
      (test ↔ (∀ e, (s.admission.entrances.get e).settings.zone = some f → dark (s.admission.entrances.get e).settings.hall) ∧
        (∀ h, (s.zoneUnit.foyers.get f).settings.quietHall = some h → dark h) ∧ ∀ h, byteAt ps 8 = hallByte h → dark h)

/-- R81: the records of LEVEL_SET: the settings they give, each number taken to the nearer end of its range and the lower step
of a sound channel not above the upper one, ADJUSTED exactly where a value had to change; and the halls a channel serves. -/
def Sys2Proof.Rules.LevelRecords : Prop :=
  (∀ (ps : List Byte),
    let step := fun i => max (-120) (min 0 (byteAt ps i).toInt)
    let word := fun i => natAt ps i * 256 + natAt ps (i + 1)
    let hold := fun i => max 1 (min 500 (word i))
    let moved := fun i => step i ≠ (byteAt ps i).toInt
    (readSoundSettings ps).1 = { upper := step 0, lower := min (step 0) (step 1), soundHold := hold 2, quietHold := hold 4 } ∧
    ((readSoundSettings ps).2 = true ↔ moved 0 ∨ moved 1 ∨ step 0 < step 1 ∨ hold 2 ≠ word 2 ∨ hold 4 ≠ word 4) ∧
    (readSenseSettings ps).1 = { overCurrent := step 0, openStep := step 1, driveCheck := step 2, openHold := hold 3 } ∧
    ((readSenseSettings ps).2 = true ↔ moved 0 ∨ moved 1 ∨ moved 2 ∨ hold 3 ≠ word 3)) ∧
  ∀ s : State, channelHalls s 0 = [.a] ∧ channelHalls s 1 = [.b] ∧
    (∀ (d : Fin 4) h, h ∈ channelHalls s (d.val + 2) ↔
      ∃ c, (channelOf s c).settings.input = some d ∧ (channelOf s c).settings.hall = h) ∧
    ∀ l : Fin 8, channelHalls s (l.val + 6) = [(s.zoneUnit.loops.get l).settings.hall]

/-! ## Lanes, mix and outputs -/

/-- R46, R47: an input lane takes a frame: its lock, its counts, the samples every reader sees, and the INPUT_LOCK notice
of a change. -/
def Sys2Proof.Rules.InputFrame : Prop :=
  ∀ (s : State) (lane : Lane) (good : Bool) (slots : List Sample),
    let r := s.engine.lanes.get lane
    let locked := if r.locked then good || decide (r.missing + 1 < 2) else good && decide (8 ≤ r.run + 1)
    ∃ t, exec (.inputFrame lane good slots) s = .next t ∧
      (t.engine.lanes.get lane).locked = locked ∧
      (t.engine.lanes.get lane).run = (if r.locked then (if locked then r.run else 0)
        else if good then (if locked then 0 else r.run + 1) else 0) ∧
      (t.engine.lanes.get lane).missing = (if r.locked then (if good then 0 else if locked then r.missing + 1 else 0)
        else if locked then 0 else r.missing) ∧
      (t.engine.lanes.get lane).received =
        r.received ++ [(List.range 8).map fun i => if locked && good then (slots.getD i 0).toInt else 0] ∧
      (∀ other, other ≠ lane → t.engine.lanes.get other = s.engine.lanes.get other) ∧
      t.mail = { s.mail with offers := s.mail.offers ++ if locked = r.locked then [] else
        [⟨10, byteOf (match lane with | .lane0 => 0 | .lane1 => 1), flagByte locked, s.clock, ⟨true, true, true⟩,
          some (if locked then .rise else .fall)⟩] } ∧
      t = { s with level := t.level, engine := { s.engine with lanes := t.engine.lanes }, mail := t.mail }

/-- R72, R68: a frame's samples enter the peaks of its lane's sound channels, once the first block is mixed; a lane that
becomes UNLOCKED sets their run counts to 0; and a lane that is or was UNLOCKED spoils the period. That a sample counts at
its frame's receipt, and that UNLOCKED before or after a frame spoils the period, is the model's choice (log 14). -/
def Sys2Proof.Rules.FrameReachesLevelMonitor : Prop :=
  ∀ (s t : State) (lane : Lane) (good : Bool) (slots : List Sample), exec (.inputFrame lane good slots) s = .next t →
    let before := (s.engine.lanes.get lane).locked
    let after := (t.engine.lanes.get lane).locked
    t.level.sense = s.level.sense ∧
    (t.level.unlocked.get lane = (s.level.unlocked.get lane || !before || !after)) ∧
    (∀ other, other ≠ lane → t.level.unlocked.get other = s.level.unlocked.get other) ∧
    ∀ c : Fin 6,
      let r := s.level.sound.get c
      let slot := if c.val < 2 then c.val else c.val - 2
      t.level.sound.get c = if (if c.val < 2 then Lane.lane0 else Lane.lane1) = lane then
        { r with
          run := if before = true ∧ after = false then 0 else r.run
          peak := if s.engine.started = true ∧ after = true ∧ good = true then max r.peak (slots.getD slot 0).toInt.natAbs
            else r.peak }
        else r

/-- R53: the 145 coefficients: C(s) is 2^20 × 10^(s/40) rounded, halves up; mute is 0. -/
def Sys2Proof.Rules.CoefficientTable : Prop :=
  coefficient (-121) = 0 ∧
  ∀ k : Fin 145,
    let c := coefficient ((k.val : Int) - 120)
    (2 * c - 1) ^ 40 * 10 ^ 120 ≤ (2 ^ 21) ^ 40 * 10 ^ k.val ∧ (2 ^ 21) ^ 40 * 10 ^ k.val < (2 * c + 1) ^ 40 * 10 ^ 120

/-- R69: the 121 thresholds: T(t) is 8,388,607 × 10^(t/40) rounded, halves up. -/
def Sys2Proof.Rules.ThresholdTable : Prop :=
  ∀ k : Fin 121,
    let t := threshold ((k.val : Int) - 120)
    (2 * t - 1) ^ 40 * 10 ^ 120 ≤ 16777214 ^ 40 * 10 ^ k.val ∧ 16777214 ^ 40 * 10 ^ k.val < (2 * t + 1) ^ 40 * 10 ^ 120

/-- R54, R58, R59, R62: the effective step, the accumulator, the rounding, the saturation and the loop duty. -/
def Sys2Proof.Rules.MixArithmetic : Prop :=
  (∀ own trim fold : Int,
    let sum := own + trim + fold
    (own = -121 → effectiveStep own trim fold = -121) ∧
    (own ≠ -121 → 24 < sum → effectiveStep own trim fold = 24) ∧
    (own ≠ -121 → -120 ≤ sum → sum ≤ 24 → effectiveStep own trim fold = sum) ∧
    (own ≠ -121 → sum < -120 → effectiveStep own trim fold = -121)) ∧
  (∀ fg fgStep bg bgStep : Int,
    accumulator fg fgStep bg bgStep = fg * coefficient fgStep + bg * coefficient bgStep) ∧
  (∀ acc : Int, 1048576 * rounded acc ≤ acc + 524288 ∧ acc + 524288 < 1048576 * (rounded acc + 1)) ∧
  (∀ x : Int, (8388607 < x → saturated x = 8388607) ∧ (x < -8388608 → saturated x = -8388608) ∧
    (-8388608 ≤ x → x ≤ 8388607 → saturated x = x)) ∧
  ∀ (l : LoopRecord) (x : Int),
    let limit : Int := l.settings.driveLimit
    (l.shut = true → loopDuty l x = 2048) ∧
    (l.shut = false → (limit < x / 4096 → loopDuty l x = 2048 + limit) ∧ (x / 4096 < -limit → loopDuty l x = 2048 - limit) ∧
      (-limit ≤ x / 4096 → x / 4096 ≤ limit → loopDuty l x = 2048 + x / 4096))

/-- R55, R58, R59: the sum of a zone at a sample of a block, rounded and not yet saturated: the top overlay's sample and the
base's, at the effective steps of the block's start. `a` is the state at that start. -/
def Sys2Proof.Rules.zoneSum (a : State) (z : ZoneNo) (i : Nat) : Int :=
  let r := a.zoneUnit.zones.get z
  let fold := foldBackOf a.zoneUnit z
  let bg := (baseSamples a.engine r.baseSource).getD i 0
  let bgStep := effectiveStep r.bgStep r.settings.trim fold
  rounded (match r.stack.head? with
    | none => accumulator 0 (-121) bg bgStep
    | some o => accumulator ((sourceSamples a o.source).getD i 0)
        (effectiveStep (foregroundStep a o) r.settings.trim fold) bg bgStep)

/-- R55, R58, R59: every zone's output of a block: 48 samples, each the saturated sum. That the block takes its lanes' first
48 frames, 0 where one is missing (log 13), and that what the block before left due comes about first (log 8), are the
model's choices. -/
def Sys2Proof.Rules.MixBlockOutputs : Prop :=
  ∀ (s : State) (sense : List (List Sample)),
    let a := aimZones (settleBlock s)
    ∃ t, exec (.mixBlock sense) s = .next t ∧ ∀ z, (t.engine.made.get z).length = 48 ∧
      ∀ i, i < 48 → (t.engine.made.get z)[i]? = some (saturated (Rules.zoneSum a z i))

/-- R60: a zone whose sums leave full scale in a block takes the house clock as its last clip time, and offers CLIP with the
sign of the first such sum where the last clip lies more than 10 ds back or there was none. And what a block leaves
unchanged. That several zones' offers are made in zone order is the model's choice (log 41). -/
def Sys2Proof.Rules.MixBlockClips : Prop :=
  ∀ (s : State) (sense : List (List Sample)),
    let a := aimZones (settleBlock s)
    let first := fun z => ((List.range 48).map (Rules.zoneSum a z)).find? fun x => decide (8388607 < x ∨ x < -8388608)
    let last := fun z => (a.zoneUnit.zones.get z).lastClip
    let told := fun z : ZoneNo => match first z with
      | some x => if (last z).all (fun t => 10 < (s.clock - t).toNat) then
          [(⟨14, byteOf z.val, if x < 0 then 1 else 0, s.clock, ⟨true, true, true⟩, none⟩ : Offer)] else []
      | none => []
    ∃ t, exec (.mixBlock sense) s = .next t ∧
      (∀ z, (t.zoneUnit.zones.get z).lastClip = if first z = none then last z else some s.clock) ∧
      t = { a with
        engine := t.engine, call := { a.call with players := t.call.players, chime := t.call.chime }, level := t.level
        zoneUnit := { a.zoneUnit with zones := t.zoneUnit.zones }
        mail := { a.mail with offers := a.mail.offers ++ (finUpTo 18).flatMap told } }

/-- The model's choice (log 8): before a block, what the block before brought to its end and was not taken comes about as its
commands would bring it about: every ramp step, then the ends of phrases, of silences (PLAYER0's first), of the note and of the strike. -/
def Sys2Proof.Rules.MixBlockSettles : Prop :=
  ∀ s : State,
    let runs := fun (cs : List Instr) => cs.foldl (fun (r : Step) c => match r with
      | .next t => exec c t
      | r => r) (.next s)
    runs ((finUpTo 18).map Instr.rampStep ++ (finUpTo 3).map Instr.playerPhraseEnd ++ (finUpTo 3).map Instr.repeatSilenceEnd ++
      [.chimeNoteEnd, .chimeStrikeEnd]) = .next (settleBlock s)

/-- R49, R50: the phrase players and the chime generator over a block: a held one and one whose item is complete stay; the
others go one block on. -/
def Sys2Proof.Rules.MixBlockResources : Prop :=
  ∀ (s : State) (sense : List (List Sample)),
    let u := (settleBlock s).call
    ∃ t, exec (.mixBlock sense) s = .next t ∧
      (∀ n,
        (u.players.get n = none → t.call.players.get n = none) ∧
        ∀ p, u.players.get n = some p →
          let becomes := fun stage : PlayStage => t.call.players.get n = some { p with stage := stage }
          (p.held = true ∨ p.stage = .ended → becomes p.stage) ∧
          (p.held = false →
            (∀ k, p.stage = .phrase k →
              becomes (if k + 1 < max 1 ((p.clip.length + 15) / 16) then .phrase (k + 1) else .ended)) ∧
            ∀ k, p.stage = .silence k → becomes (.silence (min 1000 (k + 1))))) ∧
      (u.chime = none → t.call.chime = none) ∧
      ∀ g, u.chime = some g →
        (g.held = true ∨ 1200 ≤ g.strikeBlocks → t.call.chime = some g) ∧
        (g.held = false → g.strikeBlocks < 1200 →
          t.call.chime = some { g with noteBlocks := g.noteBlocks + 1, strikeBlocks := g.strikeBlocks + 1 })

/-- R143: a resource told to hold keeps its place; on resumption a phrase, a silence or a strike begins again, and one that
is complete stays so (log 16). -/
def Sys2Proof.Rules.HoldAndResume : Prop :=
  (∀ p : Player, p.hold = { p with held := true } ∧
    (∀ k, p.stage = .phrase k → p.resume = { p with held := false, stage := .phrase 0 }) ∧
    (∀ k, p.stage = .silence k → k < 1000 → p.resume = { p with held := false, stage := .silence 0 }) ∧
    (p.stage = .ended ∨ (∃ k, p.stage = .silence k ∧ 1000 ≤ k) → p.resume = { p with held := false })) ∧
  ∀ g : ChimeGenerator, g.hold = { g with held := true } ∧
    (g.strikeBlocks < 1200 → g.resume = { g with held := false, note := 0, noteBlocks := 0, strikeBlocks := 0 }) ∧
    (1200 ≤ g.strikeBlocks → g.resume = { g with held := false }) ∧
    ∀ u : CallUnit,
      (∀ n, holdResource (.player n) u = { u with players := u.players.modify n (·.map Player.hold) } ∧
        resumeResource (.player n) u = { u with players := u.players.modify n (·.map Player.resume) }) ∧
      (∀ mic, holdResource (.mic mic) u = u ∧ resumeResource (.mic mic) u = u) ∧
      holdResource .chime u = { u with chime := u.chime.map ChimeGenerator.hold } ∧
      resumeResource .chime u = { u with chime := u.chime.map ChimeGenerator.resume }

/-- R49, R50: a block's 48 samples: a player's are its clip's, each three times and times 256, and 0 past the clip's end;
the generator's are the square wave of its note, 2 × C(−k) high in decay step k; a held one, and one between items, gives 0. -/
def Sys2Proof.Rules.PlayerAndChimeSamples : Prop :=
  ∀ (m : Flash) (p : Player) (g : ChimeGenerator) (i : Nat), i < 48 →
    (∀ k, p.held = false → p.stage = .phrase k →
      let n := 16 * k + i / 3
      (p.samples m)[i]? = some (if n < p.clip.length then clipSample m (p.clip.start + 2 * n) * 256 else 0)) ∧
    (p.held = true ∨ p.stage = .ended ∨ (∃ k, p.stage = .silence k) → (p.samples m)[i]? = some 0) ∧
    (∀ note, g.held = false → g.strikeBlocks < 1200 → (chimeNotes g.pattern)[g.note]? = some note →
      let j := 48 * g.noteBlocks + i
      let high : Int := 2 * (coefficient (-((j / 960 : Nat) : Int)) : Int)
      g.samples[i]? = some (if (j / note.half) % 2 = 0 then high else -high)) ∧
    (g.held = true ∨ 1200 ≤ g.strikeBlocks ∨ (chimeNotes g.pattern)[g.note]? = none → g.samples[i]? = some 0)

/-- R67, R68: over a block the peak and the drive peak of every sense channel rise to the largest absolute value of the
loop's current samples and of its drive samples; the first block begins the first period, spoilt only by a lane that is
UNLOCKED then (R72). That the current samples are the first 48 of the command's operand (log 13), that the sound channels
take theirs with the frames and not with the block, and when a period counts as spoilt (log 14), are the model's choices. -/
def Sys2Proof.Rules.MixBlockPeaks : Prop :=
  ∀ (s : State) (sense : List (List Sample)),
    ∃ t, exec (.mixBlock sense) s = .next t ∧ t.level.sound = s.level.sound ∧
      t.level.unlocked = (if s.engine.started then s.level.unlocked
        else ⟨!s.engine.lanes.lane0.locked, !s.engine.lanes.lane1.locked⟩) ∧
      ∀ l : Fin 8,
        let r := s.level.sense.get l
        let q := t.level.sense.get l
        let rises := fun (old new : Nat) (samples : List Int) =>
          old ≤ new ∧ (∀ x ∈ samples, x.natAbs ≤ new) ∧ (new = old ∨ ∃ x ∈ samples, new = x.natAbs)
        q = { r with peak := q.peak, drive := q.drive } ∧
        rises r.peak q.peak (((sense.getD l.val []).take 48).map BitVec.toInt) ∧
        rises r.drive q.drive ((t.engine.dutyOut.get l).map fun d => (d - 2048) * 4096)

/-- R61, R63: what the outputs carry: D0–D3 and F0–F5 in the slots of output lanes 0 and 1 and 0 in the others; a loop driver
high for the first duty counts of a PWM period, duty 2,048 before any was made. That an output is a function of a count
within its period is the model's choice (log 26). -/
def Sys2Proof.Rules.OutputsCarry : Prop :=
  ∀ (s : State) (i count : Nat),
    let slot := fun z : ZoneNo => (s.engine.sending.get z).getD i 0
    (List.ofFn fun k : Fin 8 => outputSample s 0 k i) = [slot 8, slot 9, slot 10, slot 11, 0, 0, 0, 0] ∧
    (List.ofFn fun k : Fin 8 => outputSample s 1 k i) = [slot 12, slot 13, slot 14, slot 15, slot 16, slot 17, 0, 0] ∧
    (∀ l d, (s.engine.dutyOut.get l)[i]? = some d → (loopOutput s l i count = true ↔ (count : Int) < d)) ∧
    ∀ l, s.engine.dutyOut.get l = [] → (loopOutput s l i count = true ↔ count < 2048)

/-- R45, R59, R61–R64: a block's outputs: every sample within full scale; what the block before made goes out; a loop's
duties are those of its 48 samples going out, each in effect one PWM period after it is made: first the last duty of the
block before, then the first 47, and the 48th stays for the next block; every duty in effect within 2048 ± the drive limit,
and 2048 on a SHUT loop. That the duty made before is brought within the limit of now is the model's choice (log 37). -/
def Sys2Proof.Rules.MixBlockSends : Prop :=
  ∀ (s : State) (sense : List (List Sample)),
    ∃ t, exec (.mixBlock sense) s = .next t ∧ t.engine.started = true ∧ t.engine.sending = s.engine.made ∧
      (∀ lane, (t.engine.lanes.get lane).received = []) ∧
      (∀ z, ∀ x ∈ t.engine.made.get z, -8388608 ≤ x ∧ x ≤ 8388607) ∧
      ∀ l,
        let r := s.zoneUnit.loops.get l
        let limit : Int := r.settings.driveLimit
        let before := s.engine.dutyNext.get l
        let duty := fun i => loopDuty r ((s.engine.made.get (loopZone l)).getD i 0)
        t.engine.dutyOut.get l =
          (if r.shut then 2048 else max (2048 - limit) (min (2048 + limit) before)) :: (List.range 47).map duty ∧
        t.engine.dutyNext.get l = duty 47 ∧
        ∀ d ∈ t.engine.dutyOut.get l, 2048 - limit ≤ d ∧ d ≤ 2048 + limit ∧ (r.shut = true → d = 2048)

/-- R57: the ramp of every zone over a block, and R60's last clip time; a block changes no stack, base or setting but by what
the block before left to be settled (log 8). -/
def Sys2Proof.Rules.MixBlockRamps : Prop :=
  ∀ (s : State) (sense : List (List Sample)),
    ∃ t, exec (.mixBlock sense) s = .next t ∧ ∀ z,
      let r := (settleBlock s).zoneUnit.zones.get z
      let goal := backgroundTarget r.baseGain r.stack.head?
      let count := if goal = r.target then r.rampCount else 0
      let interval := if goal < r.bgStep then r.settings.rampDown else r.settings.rampUp
      let q := t.zoneUnit.zones.get z
      q = { r with
        target := goal
        rampCount := if r.bgStep = goal then count else min 20 (count + 1)
        rampDue := if r.bgStep = goal then r.rampDue else decide (interval ≤ count + 1)
        lastClip := q.lastClip } ∧
      (q.lastClip = r.lastClip ∨ q.lastClip = some s.clock)

/-- R57: RAMP_STEP moves the background's step by one toward the target, when the ramp count has reached the interval. -/
def Sys2Proof.Rules.RampStep : Prop :=
  ∀ (s : State) (z : ZoneNo),
    let r := s.zoneUnit.zones.get z
    let moved := fun step : Int => exec (.rampStep z) s = .next { s with zoneUnit := { s.zoneUnit with
      zones := s.zoneUnit.zones.set z { r with bgStep := step, rampCount := 0, rampDue := false } } }
    (r.rampDue = false → exec (.rampStep z) s = .next s) ∧
    (r.rampDue = true → r.target < r.bgStep → moved (r.bgStep - 1)) ∧
    (r.rampDue = true → r.bgStep < r.target → moved (r.bgStep + 1))

/-- R56: the background target of a base gain under a top overlay. -/
def Sys2Proof.Rules.BackgroundTarget : Prop :=
  ∀ (gain : Int) (o : Overlay),
    backgroundTarget gain none = gain ∧
    (o.mode = .replace → backgroundTarget gain (some o) = -121) ∧
    ∀ q, o.mode = .duck q →
      (gain = -121 ∨ gain + q < -120 → backgroundTarget gain (some o) = -121) ∧
      (gain ≠ -121 → -120 ≤ gain + q → backgroundTarget gain (some o) = gain + q)

/-! ## Level monitor -/

/-- R68, R71–R73: every sound channel at the end of a period: its last peak, its run and its state, and a turn handed to
its unit and offered as a LEVEL notice, to SOUND as a rise and to QUIET as a fall; and the mark with which the next period
begins, spoilt from its start by a lane that is UNLOCKED (the model's choice: log 14). Before the first block there is no
period (R67). -/
def Sys2Proof.Rules.LevelPeriodSoundChannels : Prop :=
  (∀ s : State, s.engine.started = false → exec .levelPeriodEnd s = .next s) ∧
  ∀ (s : State), s.engine.started = true →
    ∃ t, exec .levelPeriodEnd s = .next t ∧
      t.level.unlocked = ⟨!s.engine.lanes.lane0.locked, !s.engine.lanes.lane1.locked⟩ ∧
      t = { s with
        level := t.level
        zoneUnit := { s.zoneUnit with loops := t.zoneUnit.loops }
        mail := { s.mail with
          hallLevels := t.mail.hallLevels, describerLevels := t.mail.describerLevels
          loopEvents := t.mail.loopEvents, offers := t.mail.offers } } ∧
      (∀ c : Fin 6,
        let r := s.level.sound.get c
        let lane := if c.val < 2 then Lane.lane0 else Lane.lane1
        let q := fun (state : LevelState) (run : Nat) =>
          t.level.sound.get c = { r with state := state, run := run, lastPeak := r.peak, peak := 0 }
        ((s.engine.lanes.get lane).locked = false ∨ s.level.unlocked.get lane = true → q r.state r.run) ∧
        ((s.engine.lanes.get lane).locked = true → s.level.unlocked.get lane = false →
          (r.state = .quiet →
            (r.peak < threshold r.settings.upper → q .quiet 0) ∧
            (threshold r.settings.upper ≤ r.peak → r.run + 1 < r.settings.soundHold → q .quiet (r.run + 1)) ∧
            (threshold r.settings.upper ≤ r.peak → r.settings.soundHold ≤ r.run + 1 → q .sound 0)) ∧
          (r.state = .sound →
            (threshold r.settings.lower ≤ r.peak → q .sound 0) ∧
            (r.peak < threshold r.settings.lower → r.run + 1 < r.settings.quietHold → q .sound (r.run + 1)) ∧
            (r.peak < threshold r.settings.lower → r.settings.quietHold ≤ r.run + 1 → q .quiet 0)))) ∧
      (let turn := fun c : Fin 6 => if (t.level.sound.get c).state = (s.level.sound.get c).state then []
          else [(t.level.sound.get c).state];
        t.mail.offers = s.mail.offers ++ ((finUpTo 6).flatMap fun c => (turn c).map fun state =>
          ⟨6, byteOf c.val, if state = .sound then 1 else 0, s.clock, ⟨true, true, true⟩,
            some (if state = .sound then .rise else .fall)⟩) ∧
        t.mail.hallLevels.a = s.mail.hallLevels.a ++ turn 0 ∧ t.mail.hallLevels.b = s.mail.hallLevels.b ++ turn 1 ∧
        ∀ d : Fin 4, t.mail.describerLevels.get d = s.mail.describerLevels.get d ++ turn ⟨d.val + 2, by omega⟩)

/-- R74, R75, R77–R79: every sense channel and every loop's recovery count at the end of a period, and the events handed
to the Zone unit. That an over-current goes before an open-loop event of the same period (log 33), and that a recovery step
left due comes about before the next period's count (log 8), are the model's choices. -/
def Sys2Proof.Rules.LevelPeriodSenseChannels : Prop :=
  ∀ (s : State), s.engine.started = true →
    ∃ t, exec .levelPeriodEnd s = .next t ∧ ∀ l : Fin 8,
      let r := s.level.sense.get l
      let zone := s.zoneUnit.loops.get l
      let after := fun (run : Nat) (events : List LoopEvent) =>
        t.level.sense.get l = { r with openRun := run, lastPeak := r.peak, lastDrive := r.drive, peak := 0, drive := 0 } ∧
        t.mail.loopEvents.get l = s.mail.loopEvents.get l ++ events
      let high : List LoopEvent := if threshold r.settings.overCurrent ≤ r.peak then [.overCurrent] else []
      let silent := r.peak < threshold r.settings.openStep
      let driven := threshold r.settings.driveCheck ≤ r.drive
      (zone.shut = true → after 0 []) ∧
      (zone.shut = false → zone.openFlag = true → (silent → after r.openRun high) ∧ (¬silent → after 0 (high ++ [.openEnd]))) ∧
      (zone.shut = false → zone.openFlag = false →
        (¬(silent ∧ driven) → after 0 high) ∧
        (silent ∧ driven → r.openRun + 1 < r.settings.openHold → after (r.openRun + 1) high) ∧
        (silent ∧ driven → r.settings.openHold ≤ r.openRun + 1 → after 0 (high ++ [.openBegin]))) ∧
      let counted := fun z : LoopRecord =>
        t.zoneUnit.loops.get l = if z.shut = true ∨ z.foldBack = .none then z else { z with recovery := z.recovery + 1 }
      (zone.recovery < 1000 → counted zone) ∧
      (1000 ≤ zone.recovery → counted { zone with recovery := 0, foldBack := match zone.foldBack with
        | .by36 => .by24
        | .by24 => .by12
        | _ => .none })

/-- R81: LEVEL_SET on a sound channel and on a sense channel, where its tests pass, and its refusals. -/
def Sys2Proof.Rules.LevelSetRequest : Prop :=
  ∀ (s : State) (p : Port) (n : Byte) (ps : List Byte), Asks s p 0x28 (n :: ps) →
    (13 < n.toNat ∨ (n.toNat < 6 ∧ ps.length ≠ 6) ∨ (6 ≤ n.toNat ∧ ps.length ≠ 5) →
      exec (.levelSet p) s = .next (replied p .range [] s)) ∧
    (n.toNat ≤ 13 → ps.length = (if n.toNat < 6 then 6 else 5) →
      (saving s = true → exec (.levelSet p) s = .next (replied p .busy [] s)) ∧
      (saving s = false → (∃ h ∈ channelHalls s n.toNat, hallDark s h = false) →
        exec (.levelSet p) s = .next (replied p .state [] s)) ∧
      (saving s = false → (∀ h ∈ channelHalls s n.toNat, hallDark s h = true) →
        (∀ c : Fin 6, n.toNat = c.val →
          let r := { s.level.sound.get c with settings := (readSoundSettings ps).1, run := 0 }
          exec (.levelSet p) s = .next { replied p (done (readSoundSettings ps).2) [] s with
            level := { s.level with sound := s.level.sound.set c r } }) ∧
        ∀ l : Fin 8, n.toNat = l.val + 6 →
          let r := { s.level.sense.get l with settings := (readSenseSettings ps).1, openRun := 0 }
          exec (.levelSet p) s = .next { replied p (done (readSenseSettings ps).2) [] s with
            level := { s.level with sense := s.level.sense.set l r } }))

/-- R47, R48, R52: the samples a block takes: a hall base and its relay the hall's feed slot of lane 0; AUX, the live mics and
the describers their slots of lane 1; SILENCE 0; a phrase player's and the chime generator's, 0 where no call holds it. Sample i
is that of the lane's frame i since the last block, 0 where it is missing: the model's choice (log 13). -/
def Sys2Proof.Rules.SourceSamples : Prop :=
  ∀ (s : State) (i : Nat), i < 48 →
    let slot := fun (lane : Lane) (k : Nat) => match (s.engine.lanes.get lane).received[i]? with
      | some frame => some (frame.getD k 0)
      | none => some 0
    let base := fun b => (baseSamples s.engine b)[i]?
    let source := fun o => (sourceSamples s o)[i]?
    base .hallA = slot .lane0 0 ∧ base .relayA = slot .lane0 0 ∧ base .hallB = slot .lane0 1 ∧ base .relayB = slot .lane0 1 ∧
    base .aux = slot .lane1 4 ∧ base .silence = some 0 ∧
    source (.mic 0) = slot .lane1 5 ∧ source (.mic 1) = slot .lane1 6 ∧ (∀ d, source (.desc d) = slot .lane1 d.val) ∧
    (∀ n, (s.call.players.get n = none → source (.player n) = some 0) ∧
      ∀ p, s.call.players.get n = some p → source (.player n) = (p.samples s.store.flash)[i]?) ∧
    (s.call.chime = none → source .chime = some 0) ∧ ∀ g, s.call.chime = some g → source .chime = g.samples[i]?

/-- R51, R55: the foreground's own step: the owning call's level with its player's phrase gain, or the owning channel's describer
gain; the notes of the eight chime patterns; a clip sample's two bytes, the low one first (R171). -/
def Sys2Proof.Rules.ForegroundStepsAndChimes : Prop :=
  (∀ (s : State) (o : Overlay),
    (∀ id c, o.owner = .call id → findCall s id = some c →
      (∀ n p, o.source = .player n → s.call.players.get n = some p → foregroundStep s o = c.level + p.clip.gain) ∧
      ((∀ n, o.source ≠ .player n) → foregroundStep s o = c.level)) ∧
    ∀ c, o.owner = .channel c → (∀ n, o.source ≠ .player n) → foregroundStep s o = (channelOf s c).settings.gain) ∧
  (finUpTo 8).map chimeNotes =
    [[⟨24, 1200⟩], [⟨30, 600⟩, ⟨40, 600⟩], [⟨30, 400⟩, ⟨36, 400⟩, ⟨48, 400⟩],
     [⟨24, 300⟩, ⟨30, 300⟩, ⟨36, 300⟩, ⟨48, 300⟩], [⟨48, 600⟩, ⟨32, 600⟩], [⟨40, 300⟩, ⟨30, 300⟩, ⟨24, 600⟩],
     [⟨60, 800⟩], [⟨24, 200⟩, ⟨40, 200⟩, ⟨24, 200⟩, ⟨40, 600⟩]] ∧
  ∀ (m : Flash) (a : Nat), clipSample m a = (m.read (a + 1)).toInt * 256 + ((m.read a).toNat : Int)

/-- R54, R56, R57, R77: a block's start: every zone's target worked out from its base gain and its top overlay, a new one setting
the ramp count to 0; nothing else changes. The fold-back that a path takes is the loop's, and 0 on any other zone. -/
def Sys2Proof.Rules.BlockStart : Prop :=
  (∀ s : State, aimZones s = { s with zoneUnit := { s.zoneUnit with zones := (aimZones s).zoneUnit.zones } } ∧ ∀ z,
    let r := s.zoneUnit.zones.get z
    let goal := backgroundTarget r.baseGain r.stack.head?
    (aimZones s).zoneUnit.zones.get z = { r with target := goal, rampCount := if goal = r.target then r.rampCount else 0 }) ∧
  ∀ (u : ZoneUnit) (z : ZoneNo), foldBackOf u z = match zoneKind z with
    | .loop l => (match (u.loops.get l).foldBack with | .none => 0 | .by12 => -12 | .by24 => -24 | .by36 => -36)
    | _ => 0

/-! ## Call unit -/

/-- R132, R133: CALL_SUBMIT: the refusals in their order, and a taken call: clamped, given a free id, put at its place in
the queue, a scheduling pass run, and the reply with its id and its state after that pass: ADJUSTED exactly when a value was
clamped. That a CHIME call's repeat is clamped too is the model's choice (log 28). -/
def Sys2Proof.Rules.CallSubmit : Prop :=
  ∀ (s : State) (p : Port) (ps : List Byte), Asks s p 0x50 ps →
    (readCall ps = none → exec (.callSubmit p) s = .next (replied p .range [] s)) ∧
    ∀ f, readCall ps = some f →
      let live := ∃ mic, f.content = .live mic
      let phrases := ∃ list, f.content = .phrases list
      let refused := fun st => exec (.callSubmit p) s = .next (replied p st [] s)
      let denied := p = .booth ∧ (live ∨ ∃ z, zoneIn z f.targets = true ∧ ∀ d, zoneKind z ≠ .desc d)
      let range := p ≠ .booth ∧ ∃ z d, zoneIn z f.targets = true ∧ zoneKind z = .desc d
      let dark := ∃ h, f.link = some h ∧ s.call.view.get h = .dark
      let busy := phrases ∧ storeOpen s = true
      let absent := ∃ list n, f.content = .phrases list ∧ n ∈ list ∧ phraseEntry s.store.directory n = none
      (denied → refused .denied) ∧
      (range → refused .range) ∧
      (¬denied → ¬range → dark → refused .state) ∧
      (¬denied → ¬range → ¬dark → busy → refused .busy) ∧
      (¬denied → ¬range → ¬dark → ¬busy → absent → refused .notFound) ∧
      (¬denied → ¬range → ¬dark → ¬busy → ¬absent → 16 ≤ s.call.queue.length → refused .full) ∧
      (¬denied → ¬range → ¬dark → ¬busy → ¬absent → s.call.queue.length < 16 →
        let id := freeId s.call.queue 255 s.call.counter
        let call : Call :=
          { id := id
            origin := match p with | .stage => .stage | .house => .house | .booth => .booth
            priority := if p = .booth then min 5 f.priority else f.priority
            content := match f.content with | .chime pattern strikes => .chime pattern (max 1 (min 4 strikes)) | c => c
            level := max (-24) (min 12 f.level)
            mode := f.mode
            targets := f.targets
            repeats := match f.content with | .phrases _ => some (max 1 (min 3 f.repeats)) | _ => none
            deadline := f.deadline.map fun t => s.clock + BitVec.ofNat 32 (10 * max 5 (min 900 t))
            link := f.link
            state := .queued
            liveStart := none }
        let t := pass { withoutRequest p s with
          call := { s.call with queue := insertCall call s.call.queue, counter := if id = 255 then 1 else id + 1 } }
        let clamped := (p = .booth ∧ 5 < f.priority) ∨ f.level < -24 ∨ 12 < f.level ∨
          (∃ pattern strikes, f.content = .chime pattern strikes ∧ (strikes = 0 ∨ 4 < strikes)) ∨
          (¬live ∧ (f.repeats = 0 ∨ 3 < f.repeats)) ∨ ∃ n, f.deadline = some n ∧ (n < 5 ∨ 900 < n)
        ∃ adjusted state, exec (.callSubmit p) s = .next (answer p (done adjusted) [byteOf id, state] t) ∧
          (adjusted = true ↔ clamped) ∧
          (∀ c, findCall t id = some c →
            (c.state = .queued → state = 0) ∧ (∀ r z, c.state = .started r z false → state = 1)))

/-- R130: a call goes after every call of its priority or a higher one and before the lower ones, and its id is the first
from the counter on that no call in the queue holds. -/
def Obligations.QueueOrderAndFreeIds : Prop :=
  (∀ (c : Call) (queue : List Call), (queue.Pairwise fun a b => b.priority ≤ a.priority) →
    ∃ before after, queue = before ++ after ∧ insertCall c queue = before ++ c :: after ∧
      (∀ d ∈ before, c.priority ≤ d.priority) ∧ ∀ d ∈ after, d.priority < c.priority) ∧
  ∀ (queue : List Call) (n : Nat), 1 ≤ n → n ≤ 255 → queue.length ≤ 16 →
    ∃ k, freeId queue 255 n = (n - 1 + k) % 255 + 1 ∧ (∀ c ∈ queue, c.id ≠ freeId queue 255 n) ∧
      ∀ j, j < k → ∃ c ∈ queue, c.id = (n - 1 + j) % 255 + 1

/-- R139: in a pass no QUEUED call starts ahead of an earlier QUEUED call that names one of its zones. -/
def Obligations.NoCallOvertakes : Prop :=
  ∀ (s : State) (before between after : List Call) (first second : Call), QueueLaw s.call →
    s.call.queue = before ++ first :: (between ++ second :: after) → first.state = .queued → second.state = .queued →
    first.targets &&& second.targets ≠ 0 →
    ∀ c ∈ (pass s).call.queue, c.id = second.id → c.state = .queued

/-- R139, R140: a call that its zones, the blocked set and its resource let through starts when its push is accepted: it is
PLAYING on its resource with its whole target set as coverage; otherwise it stays as it is. -/
def Sys2Proof.Rules.CallStart : Prop :=
  ∀ (blocked : ZoneSet) (c : Call) (r : Source) (s : State), freeResource s.call c.content = some r →
    (∀ z, zoneIn z c.targets = true → available s.zoneUnit c z = true) → c.targets &&& blocked = 0 →
    let a := push (callPush c r) s
    (a.1 = true → tryCall blocked c s = (true, { a.2 with
      call := takeResource s.store.directory c r { s.call with
        queue := s.call.queue.map fun d => if d.id = c.id then
          { d with
            state := .started r d.targets false
            liveStart := match d.content with | .live _ => some s.clock | _ => none } else d } })) ∧
    (a.1 = false → tryCall blocked c s = (false, a.2) ∧ a.2.call = s.call)

/-- R147: a started call's ending: its entries removed, its resource freed, the call gone, CALL_END offered to its port;
a QUEUED call leaves without the first two. -/
def Sys2Proof.Rules.CallEnding : Prop :=
  ∀ (outcome : CallOutcome) (s : State) (c : Call),
    let port : Port := match c.origin with | .stage => .stage | .booth => .booth | _ => .house
    let gone := fun (u : CallUnit) => { u with queue := u.queue.filter fun d => d.id ≠ c.id }
    let told := fun (t : State) => offerTo (onlyPort port) 4 (byteOf c.id) (nameByte outcomeNames outcome) none t
    (c.state = .queued → endCall outcome s c = told { s with call := gone s.call }) ∧
    ∀ r cov suspended, c.state = .started r cov suspended →
      let t := remove (.call c.id) c.targets s
      endCall outcome s c = told { t with call := gone (match r with
        | .player n => { s.call with players := s.call.players.set n none }
        | .chime => { s.call with chime := none }
        | .mic n => { s.call with mics := s.call.mics.set n none }
        | .desc _ => s.call) }

/-- R149, R150: CALL_CANCEL and LIVE_END. -/
def Sys2Proof.Rules.CallCancelAndLiveEnd : Prop :=
  ∀ (s : State) (p : Port) (id : Byte),
    (Asks s p 0x51 [id] →
      (findCall s id.toNat = none → exec (.callCancel p) s = .next (replied p .notFound [] s)) ∧
      ∀ c, findCall s id.toNat = some c →
        (p = .booth → c.origin ≠ .booth → exec (.callCancel p) s = .next (replied p .denied [] s)) ∧
        (p ≠ .booth ∨ c.origin = .booth →
          exec (.callCancel p) s = .next (answer p .ok [] (pass (endCall .cancelled (withoutRequest p s) c))))) ∧
    (Asks s p 0x52 [id] →
      (findCall s id.toNat = none → exec (.liveEnd p) s = .next (replied p .notFound [] s)) ∧
      ∀ c, findCall s id.toNat = some c →
        ((∀ mic, c.content ≠ .live mic) → exec (.liveEnd p) s = .next (replied p .state [] s)) ∧
        ∀ mic, c.content = .live mic →
          (c.origin ≠ originOf p → exec (.liveEnd p) s = .next (replied p .denied [] s)) ∧
          (c.origin = originOf p → exec (.liveEnd p) s = .next (answer p .ok []
            (pass (endCall (if c.state = .queued then .cancelled else .done) (withoutRequest p s) c)))))

/-- R146, R148: a QUEUED call expires at its deadline and a page times out after 1,200 ds; a started call has no deadline. -/
def Sys2Proof.Rules.CallExpiryAndTimeout : Prop :=
  ∀ (s : State) (c : Call), findCall s c.id = some c →
    (∀ deadline, c.state = .queued → c.deadline = some deadline → reached s.clock deadline = true →
      exec (.callDeadlineExpiry c.id) s = .next (pass (endCall .expired s c))) ∧
    (c.state ≠ .queued → exec (.callDeadlineExpiry c.id) s = .next s) ∧
    (∀ start, c.liveStart = some start → reached s.clock (start + 1200) = true →
      exec (.liveTimeout c.id) s = .next (pass (endCall .timeout s c)))

/-- R129, R138, R151–R153: what the Programme and Admission units hand the Call unit: a phase event, and the cancellation of
a hall's calls, of its QUEUED PLAN calls and of its ADMISSION call. That the QUEUED PLAN calls end in queue order is the model's
choice (log 41). -/
def Sys2Proof.Rules.CallPhaseAndCancels : Prop :=
  ∀ (s : State) (h : Hall),
    let ended := fun (which : Call → Bool) (t : State) =>
      let calls := t.call.queue.filter which
      if calls = [] then t else pass (calls.foldl (endCall .cancelled) t)
    (∀ ev rest, s.mail.toCall = .phase ev :: rest →
      let view := if s.call.view.get ev.hall = .dark ∧ ev.old ≠ .dark then .dark else ev.new
      exec .callPhaseEvent s = .next (pass { s with
        call := { s.call with view := s.call.view.set ev.hall view }, mail := { s.mail with toCall := rest } })) ∧
    (∀ rest, s.mail.toCall = .cancelHall h :: rest →
      exec .hallCallCancel s = .next (ended (fun c => c.link = some h) { s with
        call := { s.call with view := s.call.view.set h .dark }, mail := { s.mail with toCall := rest } })) ∧
    (∀ rest, s.mail.toCall = .cancelPlan h :: rest →
      exec .planCallCancel s = .next (ended (fun c => c.state = .queued && c.origin = .plan && c.link = some h)
        { s with mail := { s.mail with toCall := rest } })) ∧
    (∀ rest, s.mail.admissionToCall = .cancel h :: rest →
      exec .admissionCallCancel s = .next (ended (fun c => c.origin = .admission && c.link = some h)
        { s with mail := { s.mail with admissionToCall := rest } }))

/-- R142: a stack report: each listed call's coverage recorded; a covered PHRASES or CHIME call SUSPENDED and its resource
held, an uncovered one PLAYING and its resource resumed, a LIVE call always PLAYING; then a pass. A hush change starts a
pass. -/
def Sys2Proof.Rules.CallStackReport : Prop :=
  (∀ (s : State) (r : StackReport) (rest : List ZoneNews), s.mail.zoneToCall = .report r :: rest →
    exec .callStackReport s = .next (pass { s with
      call := r.coverage.foldl takeCoverage s.call, mail := { s.mail with zoneToCall := rest } })) ∧
  (∀ (s : State) (flags : List (ZoneNo × Bool)) (rest : List ZoneNews), s.mail.zoneToCall = .hush flags :: rest →
    exec .callHushChange s = .next (pass { s with mail := { s.mail with zoneToCall := rest } })) ∧
  ∀ (u : CallUnit) (c : Call) (r : Source) (old cov : ZoneSet) (suspended : Bool),
    u.queue.find? (fun d => d.id = c.id) = some c → c.state = .started r old suspended →
    let now := fun (hold : Bool) => u.update c.id fun d => { d with state := .started r cov hold }
    let after := takeCoverage u (.call c.id, cov)
    (∀ mic, c.content = .live mic → suspended = false → after = now false) ∧
    ((∀ mic, c.content ≠ .live mic) →
      (cov = 0 → suspended = false → after = holdResource r (now true)) ∧
      (cov = 0 → suspended = true → after = now true) ∧
      (cov ≠ 0 → suspended = true → after = resumeResource r (now false)) ∧
      (cov ≠ 0 → suspended = false → after = now false))

/-- R134, R136: a submission of the Programme or the Admission unit: refused, taken, displacing the newest QUEUED call of
the lowest lower priority, or dropped; and the answer that its submitter is given (kept in the record's `submitted`, log 25):
REFUSED with the status of the first failing test, ACCEPTED with the id, DROPPED. -/
def Sys2Proof.Rules.UnitCallSubmission : Prop :=
  ∀ (s : State) (sender : Submitter) (c : Submission) (t : State),
    (sender = .programme ∧ (∃ rest, s.mail.toCall = .submit c :: rest ∧ t = { s with mail := { s.mail with toCall := rest } }) ∨
      sender = .admission ∧ (∃ rest, s.mail.admissionToCall = .submit c :: rest ∧
        t = { s with mail := { s.mail with admissionToCall := rest } })) →
    let does := fun u : State => exec (.unitCallSubmission sender) s = .next u
    let answered := fun (a : SubmissionAnswer) (u : State) => { u with call := { u.call with submitted := some a } }
    let house := fun (d0 d1 : Byte) (u : State) => offerTo (onlyPort .house) 5 d0 d1 none u
    let dark := s.call.view.get c.hall = .dark
    let busy := (∃ list, c.content = .phrases list) ∧ storeOpen s = true
    let absent := ∃ list n, c.content = .phrases list ∧ n ∈ list ∧ phraseEntry s.store.directory n = none
    let call := submittedCall c s.clock
    let full := 16 ≤ s.call.queue.length
    let refused := fun st : Status =>
      (c.origin = .admission → does (answered (.refused st) t)) ∧
      ∀ plan step, c.origin = .plan plan step →
        does (house 0 (byteOf (128 + 64 * (match c.hall with | .a => 0 | .b => 1) + 8 * plan.val + step))
          (answered (.refused st) t))
    let dropped := does (house 0 (nameByte originNames call.origin) (answered .dropped t))
    let takenIn := fun u : State =>
      let q := enqueue call u
      does (pass (answered (.accepted q.1) q.2))
    (dark → refused .state) ∧
    (¬dark → busy → refused .busy) ∧
    (¬dark → ¬busy → absent → refused .notFound) ∧
    (¬dark → ¬busy → ¬absent →
      (¬full → takenIn t) ∧
      (full → (∀ d ∈ s.call.queue, d.state ≠ .queued) → dropped) ∧
      (full → ∀ before v after, s.call.queue = before ++ v :: after → v.state = .queued →
        (∀ d ∈ after, d.state ≠ .queued) →
        (v.priority < c.priority → takenIn (dropNotice v.id v.origin
          { t with call := { t.call with queue := t.call.queue.filter fun d => d.id ≠ v.id } })) ∧
        (c.priority ≤ v.priority → dropped)))

/-- R144, R145, R147: a phrase's end gives the next phrase, the silence before a repeat, or the call's end; the silence's
end the first phrase again; a note's end the next note; a strike's end the next strike or the call's end. -/
def Obligations.PlayersAndChime : Prop :=
  ∀ (s : State) (n : Fin 3) (c : Call),
    (∀ list repeats p, s.call.players.get n = some p → findCall s p.call = some c → c.content = .phrases list →
      c.repeats = some repeats →
      let first := clipOf s.store.directory (list.getD 0 0)
      let becomes := fun q : Player => .next { s with call := { s.call with players := s.call.players.set n (some q) } }
      (p.stage = .ended →
        (p.index + 1 < list.length → exec (.playerPhraseEnd n) s =
          becomes { p with index := p.index + 1, clip := clipOf s.store.directory (list.getD (p.index + 1) 0), stage := .phrase 0 }) ∧
        (list.length ≤ p.index + 1 → p.pass + 1 < repeats →
          exec (.playerPhraseEnd n) s = becomes { p with pass := p.pass + 1, stage := .silence 0 }) ∧
        (list.length ≤ p.index + 1 → repeats ≤ p.pass + 1 →
          exec (.playerPhraseEnd n) s = .next (pass (endCall .done s c)))) ∧
      (∀ k, p.stage = .silence k → 1000 ≤ k →
        exec (.repeatSilenceEnd n) s = becomes { p with index := 0, clip := first, stage := .phrase 0 })) ∧
    ∀ g, s.call.chime = some g → findCall s g.call = some c →
      let becomes := fun q : ChimeGenerator => .next { s with call := { s.call with chime := some q } }
      (∀ note, (chimeNotes g.pattern)[g.note]? = some note → note.blocks ≤ g.noteBlocks →
        exec .chimeNoteEnd s = becomes { g with note := g.note + 1, noteBlocks := 0 }) ∧
      (1200 ≤ g.strikeBlocks → g.done + 1 < g.strikes →
        exec .chimeStrikeEnd s = becomes { g with done := g.done + 1, note := 0, noteBlocks := 0, strikeBlocks := 0 }) ∧
      (1200 ≤ g.strikeBlocks → g.strikes ≤ g.done + 1 → exec .chimeStrikeEnd s = .next (pass (endCall .done s c)))

/-- R38, R39, R140, R147, R161–R164: OVERLAY_PUSH is the push that starts a QUEUED call or puts a channel on the air, and
its sender hears the answer; OVERLAY_REMOVAL the removal that ends a call or takes a channel off, or one that finds nothing.
A push for a call that an earlier QUEUED call holds off, and a push or a removal that no unit sends, change nothing (the
model's choice: log 9). -/
def Sys2Proof.Rules.OverlayPushAndRemoval : Prop :=
  ∀ (s : State),
    (∀ (c : Call) (r : Source), findCall s c.id = some c → c.state = .queued → freeResource s.call c.content = some r →
      let a := push (callPush c r) s
      let does := fun t : State => exec (.overlayPush (callPush c r)) s = .next t
      let heldOff := ∃ before d after, s.call.queue = before ++ d :: after ∧ (∀ x ∈ before, x.id ≠ c.id) ∧ d.id ≠ c.id ∧
        d.state = .queued ∧ d.targets &&& c.targets ≠ 0
      (heldOff → does s) ∧
      (¬heldOff → a.1 = false → does a.2) ∧
      (¬heldOff → a.1 = true → does { a.2 with
        call := takeResource s.store.directory c r { s.call with
          queue := s.call.queue.map fun d => if d.id = c.id then
            { d with
              state := .started r d.targets false
              liveStart := match d.content with | .live _ => some s.clock | _ => none } else d } })) ∧
    (∀ (q : PushRequest) (id : Nat), q.owner = .call id →
      (∀ c r, findCall s id = some c → c.state = .queued → freeResource s.call c.content = some r → q ≠ callPush c r) →
      exec (.overlayPush q) s = .next s) ∧
    (∀ (owner : Owner) (zones : ZoneSet), (∀ z, zoneIn z zones = true → holdsOn s.zoneUnit owner z = false) →
      exec (.overlayRemoval owner zones) s = .next { s with zoneUnit := { s.zoneUnit with removalAnswer := some .notPresent } }) ∧
    (∀ (id : Nat) (zones : ZoneSet) (z : ZoneNo), zoneIn z zones = true → holdsOn s.zoneUnit (.call id) z = true →
      let does := fun t : State => exec (.overlayRemoval (.call id) zones) s = .next t
      let ends := fun c : Call => findCall s id = some c ∧ contentEnded s c = true ∧ zones = c.targets
      (∀ c, ends c → does (pass (endCall .done s c))) ∧ ((∀ c, ¬ends c) → does s)) ∧
    ∀ (c : Fin 4),
      let ch := channelOf s c
      let zone := descZone ch.settings.zone
      let view := s.description.view.get ch.settings.hall
      let request := talkRequest s.description ch.settings
      let muted := governingMode view = some .muted
      let onAir := ch.talk = .live ∨ ch.talk = .grace
      let waiting := ch.talk = .off ∨ ch.talk = .idle ∨ ch.talk = .wait ∨ ch.talk = .muted
      let mayPush := view.phase ≠ .dark ∧ waiting ∧ request = true ∧ talkAllowed view = true
      let leaves := fun t : TalkState => onAir ∧
        ((t = .off ∧ view.phase = .dark) ∨ (t = .idle ∧ view.phase ≠ .dark ∧ request = false) ∨
          (t = .muted ∧ view.phase ≠ .dark ∧ request = true ∧ muted) ∨
          (t = .cut ∧ view.phase ≠ .dark ∧ request = true ∧ ¬muted ∧ ch.talk = .live ∧ talkAllowed view = false ∧
            ch.settings.grace = 0))
      (∀ d, mayPush → ch.settings.input = some d →
        let q : PushRequest := ⟨.desc d, .duck, some ch.settings.depth, 6, .channel c, oneZone zone, false⟩
        let a := push q s
        exec (.overlayPush q) s = .next (enter c (if a.1 then .live else .wait) none a.2)) ∧
      (∀ q : PushRequest, q.owner = .channel c →
        (∀ d, mayPush → ch.settings.input = some d → q ≠ ⟨.desc d, .duck, some ch.settings.depth, 6, .channel c, oneZone zone, false⟩) →
        exec (.overlayPush q) s = .next s) ∧
      ∀ (zones : ZoneSet) (z : ZoneNo), zoneIn z zones = true → holdsOn s.zoneUnit (.channel c) z = true →
        let does := fun t : State => exec (.overlayRemoval (.channel c) zones) s = .next t
        (∀ t, zones = oneZone zone → leaves t → does (enter c t none (remove (.channel c) zones s))) ∧
        (zones ≠ oneZone zone ∨ (∀ t, ¬leaves t) → does s)

/-- R132: the form of CALL_SUBMIT's nineteen bytes: when it is refused RANGE, and the fields it gives where it is not. That a
deadline flag which is no code is refused with the others is the model's choice (log 22). -/
def Sys2Proof.Rules.CallForms : Prop :=
  ∀ (ps : List Byte), ps.length = 19 →
    let kind := natAt ps 1
    let zones := natAt ps 11 * 65536 + natAt ps 12 * 256 + natAt ps 13
    let badContent := 2 < kind ∨
      (kind = 0 ∧ (natAt ps 2 = 0 ∨ 6 < natAt ps 2 ∨ ∃ i, i < natAt ps 2 ∧ 127 < natAt ps (3 + i))) ∨
      (kind = 1 ∧ 7 < natAt ps 2) ∨ (kind = 2 ∧ 1 < natAt ps 2)
    (readCall ps = none ↔ badContent ∨ zones = 0 ∨ 2 ^ 18 ≤ zones ∨ 1 < natAt ps 10 ∨ 7 < natAt ps 0 ∨
      (1 < natAt ps 18 ∧ natAt ps 18 ≠ 255) ∨ 1 < natAt ps 15) ∧
    ∀ f, readCall ps = some f →
      f.priority = natAt ps 0 ∧
      (kind = 0 → f.content = .phrases ((List.range (natAt ps 2)).map fun i => natAt ps (3 + i))) ∧
      (kind = 1 → ∃ pattern : Fin 8, pattern.val = natAt ps 2 ∧ f.content = .chime pattern (natAt ps 3)) ∧
      (kind = 2 → ∃ mic : Fin 2, mic.val = natAt ps 2 ∧ f.content = .live mic) ∧
      f.level = (byteAt ps 9).toInt ∧ f.mode = (if natAt ps 10 = 0 then .duck else .replace) ∧
      (∀ z : ZoneNo, zoneIn z f.targets = zones.testBit z.val) ∧ f.repeats = natAt ps 14 ∧
      f.deadline = (if natAt ps 15 = 1 then some (natAt ps 16 * 256 + natAt ps 17) else none) ∧
      f.link = (match natAt ps 18 with | 0 => some .a | 1 => some .b | _ => none)

/-- R137–R139: a scheduling pass: the QUEUED calls in queue order, each tried against the zones blocked so far, which grow by the
targets of every call that does not start; when a zone is available to a call; and the calls that are not started: one that a
zone, the blocked set or its resource holds back leaves everything as it was, one whose push is refused leaves what the push
left. -/
def Sys2Proof.Rules.SchedulingPass : Prop :=
  (∀ s : State, pass s = ((s.call.queue.filter fun c => decide (c.state = .queued)).foldl (fun (a : ZoneSet × State) c =>
    let t := tryCall a.1 c a.2
    (if t.1 = true then a.1 else a.1 ||| c.targets, t.2)) (0, s)).2) ∧
  (∀ (u : ZoneUnit) (c : Call) (z : ZoneNo), available u c z = true ↔
    (u.zones.get z).stack.length < 3 ∧ (∀ top, (u.zones.get z).stack.head? = some top → top.priority < c.priority) ∧
      (hushedFlag u z = false ∨ 6 ≤ c.priority ∨ c.origin = .admission)) ∧
  (∀ (u : ZoneUnit) (z : ZoneNo), hushedFlag u z = match zoneKind z with
    | .loop l => (u.loops.get l).hushed
    | .desc _ => false
    | .foyer f => (u.foyers.get f).hushed) ∧
  ∀ (blocked : ZoneSet) (c : Call) (s : State),
    let held := (∃ z, zoneIn z c.targets = true ∧ available s.zoneUnit c z = false) ∨ c.targets &&& blocked ≠ 0
    (held ∨ freeResource s.call c.content = none → tryCall blocked c s = (false, s)) ∧
    ∀ r, ¬held → freeResource s.call c.content = some r → (push (callPush c r) s).1 = false →
      tryCall blocked c s = (false, (push (callPush c r) s).2)

/-- R135, R139–R141, R144, R172: the free resource of a content, the lowest-numbered player first; what a started call makes of
its resource; the push it sends, with the hush exemption exactly for ADMISSION; and the clip of a phrase number. -/
def Sys2Proof.Rules.CallResources : Prop :=
  (∀ (u : CallUnit) (r : Source),
    (∀ list, freeResource u (.phrases list) = some r ↔
      ∃ n : Fin 3, r = .player n ∧ u.players.get n = none ∧ ∀ m, m < n → u.players.get m ≠ none) ∧
    (∀ pattern strikes, freeResource u (.chime pattern strikes) = some r ↔ r = .chime ∧ u.chime = none) ∧
    ∀ mic, freeResource u (.live mic) = some r ↔ r = .mic mic ∧ u.mics.get mic = none) ∧
  (∀ (directory : Table (Option Clip) 128) (c : Call) (u : CallUnit),
    (∀ n list, c.content = .phrases list →
      let begins : Player := ⟨c.id, false, 0, 0, clipOf directory (list.getD 0 0), .phrase 0⟩
      takeResource directory c (.player n) u = { u with players := u.players.set n (some begins) }) ∧
    (∀ pattern strikes, c.content = .chime pattern strikes →
      let begins : ChimeGenerator := ⟨c.id, false, pattern, strikes, 0, 0, 0, 0⟩
      takeResource directory c .chime u = { u with chime := some begins }) ∧
    ∀ mic, c.content = .live mic → takeResource directory c (.mic mic) u = { u with mics := u.mics.set mic (some c.id) }) ∧
  (∀ (c : Call) (r : Source), callPush c r =
    { source := r, mode := c.mode, depth := none, priority := c.priority, owner := .call c.id, targets := c.targets
      exempt := decide (c.origin = .admission) }) ∧
  ∀ (directory : Table (Option Clip) 128) (n : Nat),
    (∀ h : n < 128, phraseEntry directory n = directory.get ⟨n, h⟩) ∧ (128 ≤ n → phraseEntry directory n = none) ∧
    ∀ clip, phraseEntry directory n = some clip → clipOf directory n = clip

/-- R24, R107, R134, R136, R196: the call that a unit's submission becomes: the fields it carries, level 0, one pass through its
phrases, its hall as the link, and its deadline clamped into 50 to 9,000 ds after the taking; and the notice of a displaced
call, for HOUSE and for the port it came from. That a deadline already passed counts as 0 ds left is the model's choice
(log 17). -/
def Sys2Proof.Rules.SubmittedCall : Prop :=
  (∀ (c : Submission) (now : Clock),
    let left := if reached now c.deadline then 0 else (c.deadline - now).toNat
    submittedCall c now =
      { id := 0
        origin := match c.origin with | .plan _ _ => .plan | .admission => .admission
        priority := c.priority
        content := c.content
        level := 0
        mode := c.mode
        targets := c.targets
        repeats := match c.content with | .phrases _ => some 1 | _ => none
        deadline := some (now + BitVec.ofNat 32 (max 50 (min 9000 left)))
        link := some c.hall
        state := .queued
        liveStart := none }) ∧
  ∀ (id : Nat) (origin : Origin) (s : State),
    let code : Byte := match origin with | .stage => 0 | .house => 1 | .booth => 2 | .plan => 3 | .admission => 4
    let ports : PerPort Bool := ⟨decide (origin = .stage), true, decide (origin = .booth)⟩
    dropNotice id origin s =
      { s with mail := { s.mail with offers := s.mail.offers ++ [⟨5, byteOf id, code, s.clock, ports, none⟩] } }

/-- R130: a call taken into the queue: its id, and the queue and the counter it leaves. -/
def Sys2Proof.Rules.CallTakenIn : Prop :=
  ∀ (c : Call) (s : State),
    let id := freeId s.call.queue 255 s.call.counter
    enqueue c s = (id, { s with call := { s.call with
      queue := insertCall { c with id := id } s.call.queue, counter := if id = 255 then 1 else id + 1 } })

/-- R39, R145, R147: when the content of a started call has ended: its player has given the last phrase of its last pass, or the
generator its last strike; the content of a page or of a QUEUED call never ends so. An owner holds an entry on a zone when one of
its stack is the owner's. -/
def Sys2Proof.Rules.ContentEnds : Prop :=
  (∀ (u : ZoneUnit) (owner : Owner) (z : ZoneNo),
    holdsOn u owner z = true ↔ ∃ e ∈ (u.zones.get z).stack, e.owner = owner) ∧
  ∀ (s : State) (c : Call), findCall s c.id = some c →
    (∀ n cov suspended list repeats p, c.state = .started (.player n) cov suspended → c.content = .phrases list →
      c.repeats = some repeats → s.call.players.get n = some p → p.call = c.id →
      (contentEnded s c = true ↔ p.stage = .ended ∧ list.length ≤ p.index + 1 ∧ repeats ≤ p.pass + 1)) ∧
    (∀ cov suspended g, c.state = .started .chime cov suspended → s.call.chime = some g →
      (contentEnded s c = true ↔ 1200 ≤ g.strikeBlocks ∧ g.strikes ≤ g.done + 1)) ∧
    (c.state = .queued ∨ (∃ mic cov suspended, c.state = .started (.mic mic) cov suspended) → contentEnded s c = false)

/-! ## Description unit -/

/-- R157: the governing mode, and when talk is allowed. -/
def Sys2Proof.Rules.TalkAllowed : Prop :=
  ∀ (v : DescView),
    (governingMode v = match v.phase with
      | .playing => v.mode
      | .gap => v.mode
      | .interval => v.mode
      | .opened => some .free
      | .onBreak => some .free
      | .ended => some .free
      | .dark => none) ∧
    (talkAllowed v = true ↔ v.phase ≠ .dark ∧
      (governingMode v = some .free ∨ (governingMode v = some .gapsOnly ∧ (v.phase = .gap ∨ v.phase = .interval))))

/-- R162–R166: one evaluation of a channel, by its hall, its request and its talk state: the state it enters, its grace
expiry, and the push or the removal it sends. -/
def Sys2Proof.Rules.TalkStateMachine : Prop :=
  ∀ (s : State) (c : Fin 4),
    let ch := channelOf s c
    let view := s.description.view.get ch.settings.hall
    let request := talkRequest s.description ch.settings
    let allowed := talkAllowed view
    let muted := governingMode view = some .muted
    let holds := ch.talk = .live ∨ ch.talk = .grace
    let waiting := ch.talk = .off ∨ ch.talk = .idle ∨ ch.talk = .wait ∨ ch.talk = .muted
    (view.phase = .dark → evaluate s c = enter c .off none (if holds then withdraw c s else s)) ∧
    (view.phase ≠ .dark →
      (holds → request = false → evaluate s c = enter c .idle none (withdraw c s)) ∧
      (holds → request = true → muted → evaluate s c = enter c .muted none (withdraw c s)) ∧
      (ch.talk = .live → request = true → ¬muted → allowed = true → evaluate s c = s) ∧
      (ch.talk = .live → request = true → ¬muted → allowed = false → 0 < ch.settings.grace →
        evaluate s c = enter c .grace (some (s.clock + BitVec.ofNat 32 (10 * ch.settings.grace))) s) ∧
      (ch.talk = .live → request = true → ¬muted → allowed = false → ch.settings.grace = 0 →
        evaluate s c = enter c .cut none (withdraw c s)) ∧
      (ch.talk = .grace → request = true → ¬muted → allowed = true → evaluate s c = enter c .live none s) ∧
      (ch.talk = .grace → request = true → ¬muted → allowed = false → evaluate s c = s) ∧
      (ch.talk = .cut → request = false → evaluate s c = enter c .idle none s) ∧
      (ch.talk = .cut → request = true → evaluate s c = s) ∧
      (waiting → request = false → evaluate s c = enter c .idle none s) ∧
      (waiting → request = true → allowed = false → muted → evaluate s c = enter c .muted none s) ∧
      (waiting → request = true → allowed = false → ¬muted → evaluate s c = enter c .wait none s) ∧
      (waiting → request = true → allowed = true → ∀ d, ch.settings.input = some d →
        let a := push ⟨.desc d, .duck, some ch.settings.depth, 6, .channel c, oneZone (descZone ch.settings.zone), false⟩ s
        evaluate s c = enter c (if a.1 then .live else .wait) none a.2))

/-- R167, R169: entering a talk state: the record; a TALK notice on each entry to LIVE, WAIT or CUT; and the tally state of
every describer handed to the Panel unit where it differs from the one last handed; nothing else changes. That several tally
states are handed in describer order is the model's choice (log 41). -/
def Sys2Proof.Rules.TalkStateEntry : Prop :=
  ∀ (c : Fin 4) (talk : TalkState) (expiry : Option Clock) (s : State),
    let old := channelOf s c
    let t := enter c talk expiry s
    let entered := talk ≠ old.talk
    let tally := fun d => tallyState { s.description with
      channels := s.description.channels.set c { old with talk := talk, expiry := expiry } } d
    let changed := (finUpTo 4).filter fun d => tally d ≠ (s.description.describers.get d).tally
    (∀ q, channelOf t q = if q = c then { old with talk := talk, expiry := expiry } else channelOf s q) ∧
    (∀ d, t.description.describers.get d =
      if entered then { s.description.describers.get d with tally := tally d } else s.description.describers.get d) ∧
    t.mail = { s.mail with
      offers := s.mail.offers ++ (if entered ∧ (talk = .live ∨ talk = .wait ∨ talk = .cut) then
        [⟨8, byteOf c.val, nameByte talkStateNames talk, s.clock, ⟨true, true, true⟩, none⟩] else [])
      tallies := s.mail.tallies ++ (if entered then changed.map fun d => (d, tally d) else []) } ∧
    t = { s with mail := t.mail, description := { s.description with
      channels := t.description.channels, describers := t.description.describers } }

/-- R169: the tally state of a describer is the most urgent talk state among the channels that name it, and OFF when none
does. -/
def Sys2Proof.Rules.TallyState : Prop :=
  ∀ (u : Description) (d : Fin 4),
    let rank := fun t : TalkState => match t with
      | .live => 0 | .grace => 1 | .wait => 2 | .cut => 3 | .muted => 4 | .idle => 5 | .off => 6
    ((∀ c, (u.channels.get c).settings.input ≠ some d) → tallyState u d = .off) ∧
    ∀ c, (u.channels.get c).settings.input = some d →
      rank (tallyState u d) ≤ rank (u.channels.get c).talk ∧
      ∃ c', (u.channels.get c').settings.input = some d ∧ tallyState u d = (u.channels.get c').talk

/-- R156, R157, R160, R161, R165: what makes the unit evaluate: talk keys, latches, voices, phase events, stack reports and
the end of a grace; and that an input that does not change evaluates nothing. That a stack report evaluates its channels in
channel-number order is the model's choice (log 35). -/
def Sys2Proof.Rules.DescriptionEvents : Prop :=
  ∀ (s : State),
    let changed := fun (d : Fin 4) (r : Describer) (t : State) =>
      if r = s.description.describers.get d then t
      else ((finUpTo 4).filter fun c => (channelOf s c).settings.input = some d).foldl evaluate
        { t with description := { t.description with describers := t.description.describers.set d r } }
    (∀ (d : Fin 4) (rest : List TalkKey), s.mail.talkKeys = ⟨d, .press⟩ :: rest →
      let r := s.description.describers.get d
      exec .talkKeyPress s = .next (changed d { r with keys := min 64 (r.keys + 1) }
        { s with mail := { s.mail with talkKeys := rest } })) ∧
    (∀ (d : Fin 4) (event : KeyEvent) (rest : List TalkKey), s.mail.talkKeys = ⟨d, event⟩ :: rest →
      event = .release ∨ event = .stuck →
      let r := s.description.describers.get d
      exec .talkKeyRelease s = .next (changed d { r with keys := r.keys - 1 }
        { s with mail := { s.mail with talkKeys := rest } })) ∧
    (∀ (d : Fin 4) (v : LevelState) (rest : List LevelState), s.mail.describerLevels.get d = v :: rest →
      exec (.describerLevelEvent d) s = .next (changed d { s.description.describers.get d with voice := v }
        { s with mail := { s.mail with describerLevels := s.mail.describerLevels.set d rest } })) ∧
    (∀ (p : Port) (d : Byte) (set : Bool), Asks s p (if set then 0x5A else 0x5B) [d] →
      let named := ∃ e c : Fin 4, e.val = d.toNat ∧ (channelOf s c).settings.input = some e
      let cmd : Instr := if set then .talkOpen p else .talkClose p
      (¬named → exec cmd s = .next (replied p .range [] s)) ∧
      (named → ∀ e : Fin 4, e.val = d.toNat → exec cmd s = .next (answer p .ok []
        (changed e { s.description.describers.get e with latch := set } (withoutRequest p s))))) ∧
    (∀ (ev : PhaseEvent) (rest : List PhaseEvent), s.mail.toDescription = ev :: rest →
      let view := s.description.view.set ev.hall ⟨ev.new, ev.segment.map fun g => g.2.2⟩
      exec .descPhaseEvent s = .next (((finUpTo 4).filter fun c => (channelOf s c).settings.hall = ev.hall).foldl evaluate
        { s with description := { s.description with view := view }, mail := { s.mail with toDescription := rest } })) ∧
    (∀ (r : StackReport) (rest : List StackReport), s.mail.zoneToDescription = r :: rest →
      exec .descStackReport s =
        .next (((finUpTo 4).filter fun c => zoneIn (descZone (channelOf s c).settings.zone) r.zones).foldl evaluate
          { s with mail := { s.mail with zoneToDescription := rest } })) ∧
    ∀ (c : Fin 4) (expiry : Clock), (channelOf s c).talk = .grace → (channelOf s c).expiry = some expiry →
      (reached s.clock expiry = true → exec (.graceExpiry c) s = .next (enter c .cut none (withdraw c s))) ∧
      (reached s.clock expiry = false → exec (.graceExpiry c) s = .next s)

/-- R159, R169: DESC_SET: its tests in their order; accepted, the channel's settings replaced, a changed zone or hall reported
to the Zone unit, the latches of describers no channel names cleared, and the tally states worked out again: each that differs
from the one last handed is handed to the Panel unit; nothing else changes. That several are handed in describer order is the
model's choice (log 41). -/
def Sys2Proof.Rules.DescSet : Prop :=
  ∀ (s : State) (p : Port) (ps : List Byte), Asks s p 0x58 ps →
    (3 < natAt ps 0 → exec (.descSet p) s = .next (replied p .range [] s)) ∧
    ∀ c : Fin 4, natAt ps 0 = c.val →
      (saving s = true → exec (.descSet p) s = .next (replied p .busy [] s)) ∧
      (saving s = false → channelDark s c ps = false → exec (.descSet p) s = .next (replied p .state [] s)) ∧
      (saving s = false → channelDark s c ps = true →
        (readChannelSettings (ps.drop 1) = none → exec (.descSet p) s = .next (replied p .range [] s)) ∧
        ∀ new adjusted, readChannelSettings (ps.drop 1) = some (new, adjusted) →
          let old := channelOf s c
          let channels := s.description.channels.set c { old with settings := new }
          let tally := fun d => tallyState { s.description with channels := channels } d
          let named := fun d => ∃ q, (channels.get q).settings.input = some d
          let changed := (finUpTo 4).filter fun d => tally d ≠ (s.description.describers.get d).tally
          let moved := old.settings.zone ≠ new.zone ∨ old.settings.hall ≠ new.hall
          ∃ t, exec (.descSet p) s = .next (answer p (done adjusted) [] t) ∧
            (∀ d, let r := s.description.describers.get d
              (named d → t.description.describers.get d = { r with tally := tally d }) ∧
              (¬named d → t.description.describers.get d = { r with latch := false, tally := tally d })) ∧
            t = { withoutRequest p s with
              description := { s.description with channels := channels, describers := t.description.describers }
              mail := { s.mail with
                channelChanges := s.mail.channelChanges ++ if moved then [⟨old.settings.zone, new.zone⟩] else []
                tallies := s.mail.tallies ++ changed.map fun d => (d, tally d) } })

/-- R156, R162: a channel has a talk request while its describer holds a key, has its latch set, or, in VOICE mode, is SOUND; and
what the channel sends when it leaves the air. -/
def Sys2Proof.Rules.TalkRequestAndWithdrawal : Prop :=
  (∀ (u : Description) (c : ChannelSettings), talkRequest u c = true ↔ ∃ d, c.input = some d ∧
    (0 < (u.describers.get d).keys ∨ (u.describers.get d).latch = true ∨
      (c.talkMode = .voice ∧ (u.describers.get d).voice = .sound))) ∧
  ∀ (s : State) (c : Fin 4), withdraw c s = remove (.channel c) (oneZone (descZone (channelOf s c).settings.zone)) s ∧
    ∀ z, zoneIn z (oneZone (descZone (channelOf s c).settings.zone)) = true ↔ z = descZone (channelOf s c).settings.zone

/-- R159: the record of DESC_SET: which is refused, the settings it gives, each number taken to the nearer end of its range and
ADJUSTED exactly where one had to be; and the test that the channel's hall and the one assigned are DARK in the unit's view. -/
def Sys2Proof.Rules.ChannelRecords : Prop :=
  (∀ (ps : List Byte),
    let step := fun i => (byteAt ps i).toInt
    (readChannelSettings ps = none ↔ natAt ps 0 < 8 ∨ 11 < natAt ps 0 ∨ 1 < natAt ps 1 ∨
      (3 < natAt ps 2 ∧ natAt ps 2 ≠ 255) ∨ 1 < natAt ps 3) ∧
    ∀ v adjusted, readChannelSettings ps = some (v, adjusted) →
      v.zone.val + 8 = natAt ps 0 ∧ byteAt ps 1 = hallByte v.hall ∧
      v.input.map Fin.val = (if natAt ps 2 = 255 then none else some (natAt ps 2)) ∧
      v.talkMode = (if natAt ps 3 = 0 then .key else .voice) ∧
      v.depth = max (-60) (min 0 (step 4)) ∧ v.gain = max (-24) (min 12 (step 5)) ∧ v.grace = min 10 (natAt ps 6) ∧
      (adjusted = true ↔ step 4 < -60 ∨ 0 < step 4 ∨ step 5 < -24 ∨ 12 < step 5 ∨ 10 < natAt ps 6)) ∧
  ∀ (s : State) (c : Fin 4) (ps : List Byte),
    let dark := fun h => (s.description.view.get h).phase = .dark
    channelDark s c ps = true ↔ dark (channelOf s c).settings.hall ∧ ∀ h, byteAt ps 2 = hallByte h → dark h

/-! ## Admission unit -/

/-- R109: the lamp states worked out: every entrance's offered state becomes the first that applies, and is handed to the Panel
unit for its lamp where it differs from the one last handed and the entrance has a lamp; nothing else changes. That several
are handed in entrance order (log 40), and that the offered state of an entrance without a lamp is worked out too (log 39),
are the model's choices. -/
def Sys2Proof.Rules.LampsWorkedOut : Prop :=
  ∀ (s : State),
    let t := workLamps s
    let offered := fun e => (t.admission.entrances.get e).offered
    let record := fun e => s.admission.entrances.get e
    let told := fun e : Fin 12 => match (record e).settings.lamp with
      | some l => if offered e = (record e).offered then [] else [LampMessage.offer l (offered e)]
      | none => []
    t = { s with
      admission := { s.admission with entrances := t.admission.entrances }
      mail := { s.mail with lamps := s.mail.lamps ++ (finUpTo 12).flatMap told } } ∧
    ∀ e,
      let r := record e
      let here := fun st : PartyState => ∃ q ∈ s.admission.parties, q.entrance = e ∧ q.state = st
      let closing := ∃ w, s.admission.windows.get r.settings.hall = some w ∧ w.closing = true
      t.admission.entrances.get e = { r with offered := offered e } ∧
      (here .admitting → closing → offered e = .closing) ∧
      (here .admitting → ¬closing → offered e = .admitting) ∧
      (¬here .admitting → here .held → offered e = .hold) ∧
      (¬here .admitting → ¬here .held → offered e = if r.usherPending then .usher else .off)

/-- R108, R109: after each change to the list every relay copy is the hall with a party waiting for that foyer zone, and NONE
where no party waits for it; each difference is handed to the Zone unit; then the lamp states are worked out. That several
differences are handed in zone order is the model's choice (log 38). -/
def Sys2Proof.Rules.ListChangeWorksRelaysAndLamps : Prop :=
  ∀ (s : State),
    let t := listChanged s
    let waits := fun (f : Fin 6) (q : Party) => (s.admission.entrances.get q.entrance).settings.zone = some f
    t.admission.parties = s.admission.parties ∧ t.admission.windows = s.admission.windows ∧
    (∀ f, t.admission.relay.get f = waitingHall s.admission f) ∧
    (∀ f, ((∀ q ∈ s.admission.parties, ¬waits f q) → waitingHall s.admission f = none) ∧
      ∀ h, (∃ q ∈ s.admission.parties, waits f q) → (∀ q ∈ s.admission.parties, waits f q → q.hall = h) →
        waitingHall s.admission f = some h) ∧
    t.mail.relays = s.mail.relays ++ ((finUpTo 6).filter fun f => waitingHall s.admission f ≠ s.admission.relay.get f).map
      (fun f => ⟨f, waitingHall s.admission f⟩) ∧
    t = workLamps { s with
      admission := { s.admission with relay := t.admission.relay }, mail := { s.mail with relays := t.mail.relays } }

/-- R105: the walk of a selection pass with room: the HELD parties of the entrance that fit, in list order, up to the first
that does not. -/
def Sys2Proof.Rules.SelectionStopsAtFirstMisfit : Prop :=
  ∀ (e : Fin 12) (room : Nat) (l : List Party), (l.map Party.number).Nodup →
    let held := l.filter fun q => q.entrance = e && q.state = .held
    ∃ chosen rest, held = chosen ++ rest ∧ seats chosen ≤ room ∧
      (∀ q, rest.head? = some q → room < seats chosen + q.size) ∧
      selectByRoom e room l = l.map fun q => if q ∈ chosen then { q with state := .admitting } else q

/-- R96, R97, R105, R107: a window opened: its record; the counts of the hall's entrances at 0; a pass at every entrance of the
hall in entrance order, each with its whole quota as room less the seats that are ADMITTING there; one admission call, exactly
when the window has a deadline, the hall has a phrase and an entrance with a holding zone gained an ADMITTING party, for the
zones of those entrances; WINDOW OPENED offered, and WINDOW CLOSING after it where the window opens CLOSING; then relay
requests and lamps. That CLOSING is offered only by a change that makes the window enter it is the model's choice (log 29). -/
def Sys2Proof.Rules.WindowOpens : Prop :=
  ∀ (s : State) (h : Hall) (cause : WindowCause) (length : Option Nat),
    let u := s.admission
    let set := (s.programme.halls.get h).settings
    let entrance := fun e => (u.entrances.get e).settings
    let passed := ((finUpTo 12).filter fun e => (entrance e).hall = h).foldl (fun l e =>
      if cause = .interval then l.map fun q => if q.entrance = e then { q with state := PartyState.admitting } else q
      else selectByRoom e ((entrance e).quota - seats (l.filter fun q => q.entrance = e && q.state = .admitting)) l) u.parties
    let gained := fun e => ∃ (i : Nat) (q : Party), u.parties[i]? = some q ∧ q.entrance = e ∧ q.state = .held ∧
      (passed[i]?).map Party.state = some .admitting
    let notice := fun change : Nat =>
      (⟨1, hallByte h, byteOf (8 * nameCode windowCauseNames cause + change), s.clock, ⟨true, true, true⟩, none⟩ : Offer)
    ∃ (w : Window) (targets : ZoneSet) (calls : List AdmissionOrder),
      w.cause = cause ∧ w.opened = s.clock ∧ w.extended = false ∧
      (length = none → w.deadline = none ∧ w.closing = false) ∧
      (∀ n, length = some n →
        let close := s.clock + BitVec.ofNat 32 (10 * n)
        let warn := close - BitVec.ofNat 32 (10 * set.warnTime)
        w.deadline = some ⟨close, warn⟩ ∧ (w.closing = true ↔ reached s.clock warn = true ∧ warn ≠ close)) ∧
      (∀ z, zoneIn z targets = true ↔ ∃ e f, (entrance e).hall = h ∧ (entrance e).zone = some f ∧ z = foyerZone f ∧ gained e) ∧
      (∀ d n, w.deadline = some d → set.phrase = some n → targets ≠ 0 →
        calls = [.submit ⟨.admission, h, 4, .phrases [n], .duck, targets, d.close⟩]) ∧
      (w.deadline = none ∨ set.phrase = none ∨ targets = 0 → calls = []) ∧
      openWindow h cause length s = listChanged { s with
        admission := { u with
          windows := u.windows.set h (some w)
          entrances := u.entrances.map fun x => if x.settings.hall = h then { x with admitted := 0 } else x
          parties := passed }
        mail := { s.mail with
          admissionToCall := s.mail.admissionToCall ++ calls
          offers := s.mail.offers ++ notice 0 :: if w.closing then [notice 2] else [] } }

/-- R98: a window closed: every ADMITTING party of the hall HELD again in its place, the window gone, the Call unit asked to
cancel the admission call, WINDOW CLOSED offered, and the lamps worked out; a close that finds none does nothing. -/
def Sys2Proof.Rules.WindowCloses : Prop :=
  ∀ (s : State) (h : Hall),
    (s.admission.windows.get h = none → closeWindow h s = s) ∧
    ∀ w, s.admission.windows.get h = some w →
      closeWindow h s = workLamps { s with
        admission := { s.admission with
          windows := s.admission.windows.set h none
          parties := s.admission.parties.map fun q => if q.hall = h then { q with state := .held } else q }
        mail := { s.mail with
          admissionToCall := s.mail.admissionToCall ++ [.cancel h]
          offers := s.mail.offers ++ [⟨1, hallByte h, byteOf (8 * nameCode windowCauseNames w.cause + 4), s.clock,
            ⟨true, true, true⟩, none⟩] } }

/-- R99, R100: what the Admission unit does on a phase event, row by row. That a hall's parties are discarded in list order at
ENDED and DARK is the model's choice (log 34). -/
def Sys2Proof.Rules.AdmissionPhaseEvent : Prop :=
  ∀ (s : State) (ev : PhaseEvent) (rest : List PhaseEvent), s.mail.toAdmission = ev :: rest →
    let h := ev.hall
    let t : State := { s with
      admission := { s.admission with view := s.admission.view.set h ev.new }, mail := { s.mail with toAdmission := rest } }
    let set := (s.programme.halls.get h).settings
    let is := fun old new : Phase => ev.old = old ∧ ev.new = new
    let does := fun u : State => exec .admissionPhaseEvent s = .next u
    let admits := ∃ a, ev.endedAdmission = some a ∧ a ≠ .never
    let window := s.admission.windows.get h
    (is .dark .opened → does { t with admission := { t.admission with totals := t.admission.totals.set h 0 } }) ∧
    (is .opened .playing ∨ is .onBreak .playing ∨ is .interval .playing ∨ is .gap .playing → does (closeWindow h t)) ∧
    (is .opened .interval ∨ is .onBreak .interval → does (openWindow h .interval none (closeWindow h t))) ∧
    (is .interval .onBreak →
      (admits → does (openWindow h .brk (some set.breakWindow) (closeWindow h t))) ∧ (¬admits → does (closeWindow h t))) ∧
    (is .playing .gap →
      (window = none → does (openWindow h .gap (some set.gapWindow) t)) ∧ (window ≠ none → does t)) ∧
    (is .playing .onBreak ∨ is .gap .onBreak →
      (¬admits → does t) ∧
      (admits → window = none → does (openWindow h .brk (some set.breakWindow) t)) ∧
      (admits → ∀ w, window = some w → does (retimeWindow h w t))) ∧
    (is .ended .onBreak → does t) ∧
    (ev.new = .ended ∨ ev.new = .dark →
      does ((((closeWindow h t).admission.parties.filter fun q => q.hall = h)).foldl discard (closeWindow h t)))

/-- R96, R100: a window re-timed as a BREAK window keeps its opened time, its extended flag, the parties and the counts; WINDOW
RETIMED is offered, WINDOW CLOSING after it where the window enters CLOSING, and the lamps are worked out. That a window
which was CLOSING before offers it no second time is the model's choice (log 29). -/
def Sys2Proof.Rules.WindowRetimes : Prop :=
  ∀ (s : State) (h : Hall) (w : Window), s.admission.windows.get h = some w →
    let close := s.clock + BitVec.ofNat 32 (10 * (s.programme.halls.get h).settings.breakWindow)
    let warn := close - BitVec.ofNat 32 (10 * (s.programme.halls.get h).settings.warnTime)
    let closing := reached s.clock warn && warn != close
    let notice := fun change : Nat =>
      (⟨1, hallByte h, byteOf (8 * nameCode windowCauseNames .brk + change), s.clock, ⟨true, true, true⟩, none⟩ : Offer)
    retimeWindow h w s = workLamps { s with
      admission := { s.admission with
        windows := s.admission.windows.set h (some ⟨.brk, w.opened, some ⟨close, warn⟩, w.extended, closing⟩) }
      mail := { s.mail with offers := s.mail.offers ++ notice 1 :: if closing ∧ w.closing = false then [notice 2] else [] } }

/-- R85, R101–R104: the warn point, the deadline, ADMIT_NOW, ADMIT_EXTEND and ADMIT_CLOSE, and a hall byte that names no hall.
That an extension offers CLOSING only
where the window was not CLOSING before is the model's choice (log 29). -/
def Sys2Proof.Rules.WindowRequests : Prop :=
  ∀ (s : State) (p : Port),
    (∀ b hi lo : Byte, 1 < b.toNat →
      (Asks s p 0x35 [b, hi, lo] → exec (.admitNow p) s = .next (replied p .range [] s)) ∧
      (Asks s p 0x36 [b, lo] → exec (.admitExtend p) s = .next (replied p .range [] s)) ∧
      (Asks s p 0x37 [b] → exec (.admitClose p) s = .next (replied p .range [] s))) ∧
    ∀ h : Hall,
    let window := s.admission.windows.get h
    let warnTime := (s.programme.halls.get h).settings.warnTime
    (∀ w d, window = some w → w.deadline = some d →
      (w.closing = false → reached s.clock d.warn = true → d.warn ≠ d.close → exec (.windowWarn h) s =
        .next (workLamps (windowNotice h w.cause .closing (setWindow h (some { w with closing := true }) s)))) ∧
      (reached s.clock d.close = true → exec (.windowDeadline h) s = .next (closeWindow h s))) ∧
    (∀ hi lo : Byte, Asks s p 0x35 [hallByte h, hi, lo] →
      let phase := s.admission.view.get h
      let seconds := hi.toNat * 256 + lo.toNat
      let n := max 10 (min 300 seconds)
      (window ≠ none ∨ (phase ≠ .playing ∧ phase ≠ .gap ∧ phase ≠ .onBreak) →
        exec (.admitNow p) s = .next (replied p .state [] s)) ∧
      (window = none → phase = .playing ∨ phase = .gap ∨ phase = .onBreak →
        exec (.admitNow p) s =
          .next (answer p (done (decide (seconds < 10 ∨ 300 < seconds)))
            (bytes4 s.clock.toNat ++ bytes4 (s.clock + BitVec.ofNat 32 (10 * n)).toNat)
            (openWindow h .manual (some n) (withoutRequest p s))))) ∧
    (∀ b : Byte, Asks s p 0x36 [hallByte h, b] →
      let n := max 15 (min 60 b.toNat)
      (window = none ∨ (∃ w, window = some w ∧ (w.cause = .interval ∨ w.extended = true)) →
        exec (.admitExtend p) s = .next (replied p .state [] s)) ∧
      (∀ w d, window = some w → w.deadline = some d → w.cause ≠ .interval → w.extended = false →
        let close := d.close + BitVec.ofNat 32 (10 * n)
        let warn := close - BitVec.ofNat 32 (10 * warnTime)
        let v : Window := { w with
          deadline := some ⟨close, warn⟩, extended := true, closing := reached s.clock warn && warn != close }
        exec (.admitExtend p) s =
          .next (answer p (done (decide (b.toNat < 15 ∨ 60 < b.toNat))) (bytes4 w.opened.toNat ++ bytes4 close.toNat)
            (workLamps (closingNotice h w.closing v
              (windowNotice h w.cause .extended (setWindow h (some v) (withoutRequest p s)))))))) ∧
    (Asks s p 0x37 [hallByte h] →
      (window = none → exec (.admitClose p) s = .next (replied p .state [] s)) ∧
      (window ≠ none → exec (.admitClose p) s = .next (answer p .ok [] (closeWindow h (withoutRequest p s)))))

/-- R91, R93, R94: PARTY_ADD, PARTY_REMOVE and PARTY_MOVE; an entrance above 11 is refused RANGE, by PARTY_MOVE after
NOT_FOUND. That an access byte which is no code is refused RANGE is the model's choice (log 22). -/
def Sys2Proof.Rules.PartyRequests : Prop :=
  ∀ (s : State) (p : Port),
    (∀ b size access : Byte, Asks s p 0x31 [b, size, access] → 11 < b.toNat ∨ 1 < access.toNat →
      exec (.partyAdd p) s = .next (replied p .range [] s)) ∧
    (∀ hi lo b : Byte, Asks s p 0x33 [hi, lo, b] → 11 < b.toNat →
      let found := findParty s (hi.toNat * 256 + lo.toNat)
      (found = none → exec (.partyMove p) s = .next (replied p .notFound [] s)) ∧
      (found ≠ none → exec (.partyMove p) s = .next (replied p .range [] s))) ∧
    ∀ e : Fin 12,
    let r := s.admission.entrances.get e
    let phase := s.admission.view.get r.settings.hall
    (∀ (size : Byte) (access : Bool), Asks s p 0x31 [byteOf e.val, size, flagByte access] →
      let bad := size.toNat = 0 ∨ (access = true ∧ r.settings.stepFree = false)
      let closed := phase = .dark ∨ phase = .opened ∨ phase = .ended
      (bad → exec (.partyAdd p) s = .next (replied p .range [] s)) ∧
      (¬bad → closed → exec (.partyAdd p) s = .next (replied p .state [] s)) ∧
      (¬bad → ¬closed → 64 ≤ s.admission.parties.length → exec (.partyAdd p) s = .next (replied p .full [] s)) ∧
      (¬bad → ¬closed → s.admission.parties.length < 64 →
        let a := addParty e (min 8 size.toNat) .port access (withoutRequest p s)
        ∃ state, exec (.partyAdd p) s =
            .next (answer p (done (decide (8 < size.toNat))) (bytes2 a.1 ++ [state]) a.2) ∧
          ∀ q, findParty a.2 a.1 = some q → state = nameByte partyStateNames q.state)) ∧
    (∀ hi lo : Byte, Asks s p 0x32 [hi, lo] →
      let found := findParty s (hi.toNat * 256 + lo.toNat)
      (found = none → exec (.partyRemove p) s = .next (replied p .notFound [] s)) ∧
      ∀ q, found = some q →
        let t := discard (withoutRequest p s) q
        exec (.partyRemove p) s = .next (answer p .ok [] (if q.state = .admitting then selectionPass q.entrance t else t))) ∧
    (∀ hi lo : Byte, Asks s p 0x33 [hi, lo, byteOf e.val] →
      let found := findParty s (hi.toNat * 256 + lo.toNat)
      (found = none → exec (.partyMove p) s = .next (replied p .notFound [] s)) ∧
      ∀ q, found = some q →
        let bad := r.settings.hall ≠ q.hall ∨ (q.access = true ∧ r.settings.stepFree = false)
        let during := q.state = .admitting ∨ s.admission.windows.get q.hall ≠ none
        (bad → exec (.partyMove p) s = .next (replied p .range [] s)) ∧
        (¬bad → during → exec (.partyMove p) s = .next (replied p .state [] s)) ∧
        (¬bad → ¬during → q.entrance = e → exec (.partyMove p) s = .next (replied p .ok [] s)) ∧
        (¬bad → ¬during → q.entrance ≠ e →
          let moved := s.admission.parties.map fun x => if x.number = q.number then { x with entrance := e } else x
          exec (.partyMove p) s = .next (answer p .ok []
            (listChanged (partyNotice q.number .moved (setParties moved (withoutRequest p s)))))))

/-- R87, R88: a party added joins the end of the list with the first free number from the counter on, HELD before the pass
that follows; its notice is PARTY ADDED. -/
def Sys2Proof.Rules.PartyJoins : Prop :=
  ∀ (s : State) (e : Fin 12) (size : Nat) (origin : PartyOrigin) (access : Bool),
    s.admission.parties.length < 64 → 1 ≤ s.admission.counter → s.admission.counter ≤ 999 →
    let n := (addParty e size origin access s).1
    let q : Party := ⟨n, e, (s.admission.entrances.get e).settings.hall, size, s.clock, .held, origin, access⟩
    1 ≤ n ∧ n ≤ 999 ∧ (∀ x ∈ s.admission.parties, x.number ≠ n) ∧
    (∃ k, n = (s.admission.counter - 1 + k) % 999 + 1 ∧
      ∀ j, j < k → ∃ x ∈ s.admission.parties, x.number = (s.admission.counter - 1 + j) % 999 + 1) ∧
    (addParty e size origin access s).2 = selectionPass e (listChanged (partyNotice n .added
      { s with admission := { s.admission with
        parties := s.admission.parties ++ [q], counter := if n = 999 then 1 else n + 1 } }))

/-- R89, R90, R92, R106, R110: what the entrance keys do, each event the oldest one waiting. That a LONG of a REMOVE key
discards its parties in list order is the model's choice (log 34). -/
def Sys2Proof.Rules.EntranceKeys : Prop :=
  ∀ (s : State) (k : Fin 64) (e : Fin 12) (rest : List EntranceKey) (role : Role) (event : KeyEvent),
    s.mail.entranceKeys = ⟨k, role, event⟩ :: rest →
    let t : State := { s with mail := { s.mail with entranceKeys := rest } }
    let phase := s.admission.view.get (s.admission.entrances.get e).settings.hall
    let closed := phase = .dark ∨ phase = .opened ∨ phase = .ended
    let unlinked : State := { t with admission := { t.admission with links := t.admission.links.set k none } }
    (role = .add e → event = .press →
      (closed → exec .addKeyPress s = .next (refuseLamp e unlinked)) ∧
      (¬closed → 64 ≤ s.admission.parties.length →
        exec .addKeyPress s = .next (partyNotice e.val .full (refuseLamp e unlinked))) ∧
      (¬closed → s.admission.parties.length < 64 →
        let a := addParty e 1 .key false unlinked
        exec .addKeyPress s = .next (setLink k (some a.1) a.2))) ∧
    (role = .add e → event = .again →
      (s.admission.links.get k = none → exec .addKeyRepeat s = .next (refuseLamp e t)) ∧
      ∀ n q, s.admission.links.get k = some n → findParty s n = some q →
        let room := (s.admission.entrances.get q.entrance).settings.quota - (s.admission.entrances.get q.entrance).admitted -
          seats (s.admission.parties.filter fun x => x.entrance = q.entrance && x.state = .admitting)
        let free := q.state = .held ∨ ∃ w, s.admission.windows.get q.hall = some w ∧ (w.cause = .interval ∨ 1 ≤ room)
        (8 ≤ q.size ∨ ¬free → exec .addKeyRepeat s = .next (refuseLamp e t)) ∧
        (q.size < 8 → free → exec .addKeyRepeat s = .next (setParties
          (s.admission.parties.map fun x => if x.number = n then { x with size := x.size + 1 } else x) t))) ∧
    (let here := fun st : PartyState => s.admission.parties.filter fun q => q.entrance = e && q.state = st;
      (role = .remove e → event = .press →
        (here .held = [] → exec .removeKeyPress s = .next (refuseLamp e t)) ∧
        ∀ before q, here .held = before ++ [q] → exec .removeKeyPress s = .next (discard t q)) ∧
      (role = .remove e → event = .long → exec .removeKeyLong s = .next ((here .held).foldl discard t)) ∧
      (role = .done e → event = .press →
        (here .admitting = [] → exec .doneKeyPress s = .next (selectionPass e (refuseLamp e t))) ∧
        (here .admitting ≠ [] → exec .doneKeyPress s = .next (selectionPass e ((here .admitting).foldl seat t))))) ∧
    (let urgent := (s.admission.entrances.get e).usherUrgent
      let called := fun flag : Bool => workLamps (offer 3 (byteOf e.val) (flagByte flag)
        (modifyEntrance e (fun x => { x with usherPending := true, usherUrgent := flag }) t))
      (role = .usher e → event = .press → exec .usherKeyPress s = .next (called urgent)) ∧
      (role = .usher e → event = .long → exec .usherKeyLong s = .next (called true)))

/-- R88: a party seated by DONE is counted to its hall and its entrance, both stopping at 65,535, leaves the list with every
link that names it, PARTY ADMITTED is offered, and what follows each change to the list is worked out. -/
def Sys2Proof.Rules.SeatedPartyIsCounted : Prop :=
  ∀ (s : State) (q : Party),
    let u := s.admission
    seat s q = listChanged { s with
      admission := { u with
        parties := u.parties.filter fun x => decide (x.number ≠ q.number)
        links := u.links.map fun l => if l = some q.number then none else l
        totals := u.totals.modify q.hall fun n => min 65535 (n + q.size)
        entrances := u.entrances.modify q.entrance fun x => { x with admitted := min 65535 (x.admitted + q.size) } }
      mail := { s.mail with offers := s.mail.offers ++
        [⟨2, byteOf ((q.number + 1024) / 256), byteOf (q.number + 1024), s.clock, ⟨true, true, true⟩, none⟩] } }

/-- R84, R110: DOOR_SET and USHER_CLEAR: the tests in their order, an entrance above 11 first; no two entrances may name one
lamp, and no foyer zone may hold entrances of both halls; and what each leaves. What is offered of an entrance that had no lamp
is the model's choice (log 39). -/
def Sys2Proof.Rules.DoorSetAndUsherClear : Prop :=
  ∀ (s : State) (p : Port),
    (∀ n : Byte, Asks s p 0x38 [n] →
      (11 < n.toNat → exec (.usherClear p) s = .next (replied p .range [] s)) ∧
      ∀ e : Fin 12, n = byteOf e.val → exec (.usherClear p) s = .next (answer p .ok [] (workLamps
        (modifyEntrance e (fun x => { x with usherPending := false, usherUrgent := false }) (withoutRequest p s))))) ∧
    ∀ ps, Asks s p 0x30 ps →
      let refused := fun st => exec (.doorSet p) s = .next (replied p st [] s)
      (11 < natAt ps 0 → refused .range) ∧
      ∀ e : Fin 12, natAt ps 0 = e.val →
        let r := s.admission.entrances.get e
        let dark := doorDark s e ps
        (saving s = true → refused .busy) ∧
        (saving s = false → dark = false → refused .state) ∧
        (saving s = false → dark = true → readEntranceSettings (ps.drop 1) = none → refused .range) ∧
        ∀ new adjusted, saving s = false → dark = true → readEntranceSettings (ps.drop 1) = some (new, adjusted) →
          let after := fun o => if o = e then new else (s.admission.entrances.get o).settings
          let oneLamp := ∀ o o' l, (after o).lamp = some l → (after o').lamp = some l → o = o'
          let oneHall := ∀ o o' z, (after o).zone = some z → (after o').zone = some z → (after o).hall = (after o').hall
          (¬(oneLamp ∧ oneHall) → refused .range) ∧
          (oneLamp → oneHall → exec (.doorSet p) s = .next (answer p (done adjusted) []
            (moveLamp r.settings.lamp new.lamp r.offered
              (modifyEntrance e (fun x => { x with settings := new }) (withoutRequest p s)))))

/-- R105: a selection pass at an entrance: nothing while its hall has no window; every HELD party of the entrance in an INTERVAL
window; otherwise the walk with the quota less the seats admitted and those of its ADMITTING parties as room; then the lamp
states are worked out. -/
def Sys2Proof.Rules.SelectionPass : Prop :=
  (∀ l : List Party, seats l = (l.map Party.size).sum) ∧
  ∀ (s : State) (e : Fin 12),
    let u := s.admission
    let r := u.entrances.get e
    (u.windows.get r.settings.hall = none → selectionPass e s = s) ∧
    ∀ w, u.windows.get r.settings.hall = some w →
      let becomes := fun l : List Party => selectionPass e s = workLamps { s with admission := { u with parties := l } }
      (w.cause = .interval →
        becomes (u.parties.map fun q => if q.entrance = e then { q with state := .admitting } else q)) ∧
      (w.cause ≠ .interval →
        becomes (selectByRoom e (r.settings.quota - r.admitted -
          seats (u.parties.filter fun q => q.entrance = e && q.state = .admitting)) u.parties))

/-- R88: a party discarded leaves the list with every link that names it, PARTY DISCARDED is offered, and what follows each
change to the list is worked out. -/
def Sys2Proof.Rules.PartyDiscarded : Prop :=
  ∀ (s : State) (q : Party), discard s q = listChanged { s with
    admission := { s.admission with
      parties := s.admission.parties.filter fun x => decide (x.number ≠ q.number)
      links := s.admission.links.map fun l => if l = some q.number then none else l }
    mail := { s.mail with offers := s.mail.offers ++
      [⟨2, byteOf ((q.number + 2048) / 256), byteOf (q.number + 2048), s.clock, ⟨true, true, true⟩, none⟩] } }

/-- R88, R89, R96, R109: what the Admission unit offers and hands on: a PARTY notice, its number or entrance and its change over
both detail bytes; a WINDOW notice, cause and change in one byte; WINDOW CLOSING where a change makes the window enter it (the
model's choice: log 29); and REFUSE for an entrance's lamp. -/
def Sys2Proof.Rules.AdmissionNotices : Prop :=
  ∀ (s : State),
    let offers := fun (kind : Fin 16) (d0 d1 : Byte) => { s with mail := { s.mail with offers := s.mail.offers ++
      [⟨kind, d0, d1, s.clock, ⟨true, true, true⟩, none⟩] } }
    (∀ (n : Nat) (change : PartyChange),
      let code : Nat := match change with | .added => 0 | .admitted => 1 | .discarded => 2 | .moved => 3 | .full => 4
      partyNotice n change s = offers 2 (byteOf ((n + 1024 * code) / 256)) (byteOf (n + 1024 * code))) ∧
    (∀ (h : Hall) (cause : WindowCause) (change : WindowChange),
      let first : Nat := match cause with | .brk => 0 | .gap => 8 | .interval => 16 | .manual => 24
      let code : Nat := match change with | .opened => 0 | .retimed => 1 | .closing => 2 | .extended => 3 | .closed => 4
      windowNotice h cause change s = offers 1 (hallByte h) (byteOf (first + code))) ∧
    (∀ (h : Hall) (before : Bool) (w : Window),
      closingNotice h before w s = if w.closing = true ∧ before = false then windowNotice h w.cause .closing s else s) ∧
    ∀ e : Fin 12,
      ((s.admission.entrances.get e).settings.lamp = none → refuseLamp e s = s) ∧
      ∀ l, (s.admission.entrances.get e).settings.lamp = some l →
        refuseLamp e s = { s with mail := { s.mail with lamps := s.mail.lamps ++ [.refuse l] } }

/-- R84: the record of DOOR_SET: which is refused, the settings it gives, the quota taken to the nearer end of 1 to 16 and ADJUSTED
exactly where it had to be; the test that the entrance's hall and the one assigned are DARK in the unit's view; and what is
handed when the lamp changes: OFF for the old lamp, the entrance's offered state for the new one. That a step-free byte which
is no code is refused too (log 22), and what the offered state of an entrance without a lamp is (log 39), are the model's
choices. -/
def Sys2Proof.Rules.DoorRecords : Prop :=
  (∀ (ps : List Byte),
    (readEntranceSettings ps = none ↔ 1 < natAt ps 0 ∨ natAt ps 1 < 12 ∨ (17 < natAt ps 1 ∧ natAt ps 1 ≠ 255) ∨
      1 < natAt ps 3 ∨ (11 < natAt ps 4 ∧ natAt ps 4 ≠ 255)) ∧
    ∀ v adjusted, readEntranceSettings ps = some (v, adjusted) →
      byteAt ps 0 = hallByte v.hall ∧
      v.zone.map (fun f => f.val + 12) = (if natAt ps 1 = 255 then none else some (natAt ps 1)) ∧
      v.quota = max 1 (min 16 (natAt ps 2)) ∧ v.stepFree = decide (natAt ps 3 = 1) ∧
      v.lamp.map Fin.val = (if natAt ps 4 = 255 then none else some (natAt ps 4)) ∧
      (adjusted = true ↔ natAt ps 2 < 1 ∨ 16 < natAt ps 2)) ∧
  (∀ (s : State) (e : Fin 12) (ps : List Byte),
    let dark := fun h => s.admission.view.get h = .dark
    doorDark s e ps = true ↔
      dark (s.admission.entrances.get e).settings.hall ∧ ∀ h, byteAt ps 1 = hallByte h → dark h) ∧
  ∀ (old new : Option (Fin 12)) (offered : EntranceLamp) (s : State),
    (old = new → moveLamp old new offered s = s) ∧
    (old ≠ new →
      let told := old.toList.map (fun l => LampMessage.offer l .off) ++ new.toList.map (fun l => LampMessage.offer l offered)
      moveLamp old new offered s = { s with mail := { s.mail with lamps := s.mail.lamps ++ told } })

/-! ## Panel unit -/

/-- R112, R114–R116: a key record over one sweep, by its state: its counts, and what the sweep makes due on it. That an
accepted release goes before LONG, REPEAT and STUCK due in the same sweep is the model's choice (log 15). -/
def Sys2Proof.Rules.SweepOfAKey : Prop :=
  ∀ (t : ScanTimings) (down : Bool) (r : KeyRecord),
    let q := sweepKey t down r
    let held := r.state = .down ∨ r.state = .longHeld ∨ r.state = .stuck
    (r.state = .ghost → q = r) ∧
    (r.state = .up ∨ r.state = .arming → down = false → q.state = .up ∧ q.count = 0 ∧ q.due = none) ∧
    (r.state = .up → down = true → q.state = .arming ∧ q.count = 1) ∧
    (r.state = .arming → down = true → q.state = .arming ∧ q.count = r.count + 1) ∧
    (r.state = .up ∨ r.state = .arming → down = true → q.due = if t.debounce ≤ q.count then some .debounced else none) ∧
    (held → q.state = r.state ∧ q.next = r.next ∧ q.count = (if down then 0 else r.count + 1) ∧
      q.hold = (if r.state = .stuck then r.hold else min (1000 * t.stuck) (r.hold + 1))) ∧
    (held → t.debounce ≤ q.count → q.due = some .release) ∧
    (r.state = .stuck → q.count < t.debounce → q.due = none) ∧
    (r.state = .down ∨ r.state = .longHeld → q.count < t.debounce →
      (1000 * t.stuck ≤ q.hold → q.due = some .stuck) ∧
      (q.hold < 1000 * t.stuck → r.state = .down → q.due = if 100 * t.long ≤ q.hold then some .long else none) ∧
      (q.hold < 1000 * t.stuck → r.state = .longHeld → q.due = if r.next ≤ q.hold then some .again else none))

/-- R111–R113: a sweep: before the first block is mixed nothing; then every key is brought up to date from its raw level, and
where nothing comes due the sweep ends at once. What the sweep before left due comes about first, key by key in position
order, each as its own command brings it about (the model's choice: log 8). -/
def Sys2Proof.Rules.KeyScanSweep : Prop :=
  ∀ (s : State) (down : BitVec 64),
    let sweeps := fun before : State => ∃ u : State, exec (.keyScanSweep down) s = .next (closeSweep u) ∧
      u = { before with panel := { before.panel with keys := u.panel.keys, down := down, sweepOpen := true } } ∧
      ∀ k, u.panel.keys.get k = sweepKey before.panel.timings (down.getLsbD k.val) (before.panel.keys.get k)
    let left := ((finUpTo 64).flatMap fun k => [Instr.keyDebounceDone k, .keyLong k, .keyRepeat k, .keyStuck k, .keyRelease k]).foldl
      (fun (r : Step) c => match r with
        | .next t => exec c t
        | r => r) (.next s)
    (s.engine.started = false → exec (.keyScanSweep down) s = .next s) ∧
    (s.engine.started = true → s.panel.sweepOpen = false → (∀ k, (s.panel.keys.get k).due = none) → sweeps s) ∧
    (s.engine.started = true → ∃ t, left = .next t ∧ sweeps (closeSweep t))

/-- R113: a key completes a rectangle when the keys at the three other corners of some rectangle are held; a sweep ends when
nothing it made due is left, and at its end a GHOST key leaves GHOST exactly when it completes none. -/
def Sys2Proof.Rules.GhostKeys : Prop :=
  (∀ r : KeyRecord, heldKey r = true ↔ r.state = .down ∨ r.state = .longHeld ∨ r.state = .stuck) ∧
  (∀ (k : Fin 64) (row column : Fin 8), (k = keyAt row column ↔ rowOf k = row ∧ columnOf k = column) ∧
    (keyAt row column).val = 8 * row.val + column.val) ∧
  (∀ (keys : Table KeyRecord 64) (k : Fin 64),
    completesRectangle keys k = true ↔ ∃ r2 c2 : Fin 8, r2 ≠ rowOf k ∧ c2 ≠ columnOf k ∧
      heldKey (keys.get (keyAt (rowOf k) c2)) = true ∧ heldKey (keys.get (keyAt r2 (columnOf k))) = true ∧
      heldKey (keys.get (keyAt r2 c2)) = true) ∧
  (∀ s : State, s.panel.sweepOpen = false → closeSweep s = s) ∧
  ∀ (s : State), s.panel.sweepOpen = true →
    ((∃ k, (s.panel.keys.get k).due ≠ none) → closeSweep s = s) ∧
    ((∀ k, (s.panel.keys.get k).due = none) →
      closeSweep s = { s with panel := { s.panel with keys := (closeSweep s).panel.keys, sweepOpen := false } } ∧
      ∀ k,
      let r := s.panel.keys.get k
      ((closeSweep s).panel.keys.get k) =
        if r.state = .ghost ∧ completesRectangle s.panel.keys k = false then
          { r with state := if s.panel.down.getLsbD k.val then .arming else .up, count := 0 }
        else r)

/-- R112–R116, R118: what a sweep made due on a key comes about, in position order: PRESS or GHOST, LONG, REPEAT, STUCK with
its notice, RELEASE. -/
def Sys2Proof.Rules.KeyEvents : Prop :=
  ∀ (s : State) (k : Fin 64), (∀ j, j < k → (s.panel.keys.get j).due = none) →
    let r := s.panel.keys.get k
    let role := s.panel.roles.get k
    let t := s.panel.timings
    let becomes := fun q : KeyRecord => { s with panel := { s.panel with keys := s.panel.keys.set k { q with due := none } } }
    (r.due = some .debounced →
      (completesRectangle s.panel.keys k = true → exec (.keyDebounceDone k) s =
        .next (closeSweep (becomes { r with state := .ghost, count := 0 }))) ∧
      (completesRectangle s.panel.keys k = false → exec (.keyDebounceDone k) s =
        .next (closeSweep (deliver k role .press (becomes { r with state := .down, count := 0, hold := 0 }))))) ∧
    (r.due = some .long → exec (.keyLong k) s =
      .next (closeSweep (deliver k role .long (becomes { r with state := .longHeld, next := 100 * t.long + t.again })))) ∧
    (r.due = some .again → exec (.keyRepeat k) s =
      .next (closeSweep (deliver k role .again (becomes { r with next := r.next + t.again })))) ∧
    (r.due = some .stuck → exec (.keyStuck k) s =
      .next (closeSweep (offer 12 (byteOf k.val) (writeRole role) (deliver k role .stuck (becomes { r with state := .stuck }))))) ∧
    (r.due = some .release →
      let up : KeyRecord := ⟨.up, 0, 0, 0, none⟩
      (r.state = .stuck → exec (.keyRelease k) s = .next (closeSweep (becomes up))) ∧
      (r.state ≠ .stuck → exec (.keyRelease k) s = .next (closeSweep (deliver k role .release (becomes up)))))

/-- R118: who hears of a key's event: the Description unit for a talk key's PRESS, RELEASE and STUCK, the port of a port key
for PRESS, LONG and RELEASE; a key of role NONE is heard by nobody. -/
def Sys2Proof.Rules.KeyDelivery : Prop :=
  ∀ (s : State) (k : Fin 64) (event : KeyEvent),
    deliver k .none event s = s ∧
    (∀ d, event = .press ∨ event = .release ∨ event = .stuck →
      deliver k (.talk d) event s = { s with mail := { s.mail with talkKeys := s.mail.talkKeys ++ [⟨d, event⟩] } }) ∧
    (∀ d, event = .long ∨ event = .again → deliver k (.talk d) event s = s) ∧
    (∀ p, event = .press ∨ event = .long ∨ event = .release → deliver k (.portKey p) event s =
      offerTo (onlyPort p) 9 (byteOf k.val) (nameByte keyEventNames event) none s) ∧
    (∀ p, event = .again ∨ event = .stuck → deliver k (.portKey p) event s = s) ∧
    ∀ e,
      let hears := fun role => { s with mail := { s.mail with entranceKeys := s.mail.entranceKeys ++ [⟨k, role, event⟩] } }
      (event = .press → deliver k (.add e) event s = hears (.add e) ∧ deliver k (.remove e) event s = hears (.remove e) ∧
        deliver k (.done e) event s = hears (.done e) ∧ deliver k (.usher e) event s = hears (.usher e)) ∧
      (event = .again → deliver k (.add e) event s = hears (.add e)) ∧
      (event = .long → deliver k (.remove e) event s = hears (.remove e) ∧ deliver k (.usher e) event s = hears (.usher e))

/-- R119–R121, R128: KEYMAP_SET, SCAN_SET and LAMP_TEST. KEYMAP_SET writes the roles; a held key whose role changes is
RELEASED under its old role and starts again from its raw level. That a length that disagrees with the count is refused with
the first test (log 30), and that several RELEASEs go in position order (log 41), are the model's choices. -/
def Sys2Proof.Rules.PanelRequests : Prop :=
  ∀ (s : State) (p : Port) (ps : List Byte),
    let dark := bothHallsDark s
    (Asks s p 0x41 ps →
      (saving s = true → exec (.scanSet p) s = .next (replied p .busy [] s)) ∧
      (saving s = false → dark = false → exec (.scanSet p) s = .next (replied p .state [] s)) ∧
      (saving s = false → dark = true → exec (.scanSet p) s =
        .next { replied p (done (readTimings ps).2) [] s with panel := { s.panel with timings := (readTimings ps).1 } })) ∧
    (Asks s p 0x40 ps →
      let first := natAt ps 0
      let n := natAt ps 1
      let bad := 63 < first ∨ n = 0 ∨ 32 < n ∨ 64 < first + n ∨ ps.length ≠ 2 + n
      (bad → exec (.keymapSet p) s = .next (replied p .range [] s)) ∧
      (¬bad → saving s = true → exec (.keymapSet p) s = .next (replied p .busy [] s)) ∧
      (¬bad → saving s = false → dark = false → exec (.keymapSet p) s = .next (replied p .state [] s)) ∧
      (¬bad → saving s = false → dark = true → readRoles (ps.drop 2) = none →
        exec (.keymapSet p) s = .next (replied p .range [] s)) ∧
      (∀ roles, ¬bad → saving s = false → dark = true → readRoles (ps.drop 2) = some roles →
        let role := fun k : Fin 64 =>
          if first ≤ k.val then (roles[k.val - first]?).getD (s.panel.roles.get k) else s.panel.roles.get k
        let held := fun k => (s.panel.keys.get k).state = .down ∨ (s.panel.keys.get k).state = .longHeld
        let released := (finUpTo 64).filter fun k => role k ≠ s.panel.roles.get k ∧
          ((s.panel.keys.get k).state = .down ∨ (s.panel.keys.get k).state = .longHeld)
        ∃ newRoles newKeys,
          exec (.keymapSet p) s = .next (answer p .ok [] (released.foldl
            (fun t k => deliver k (s.panel.roles.get k) .release t)
            { withoutRequest p s with panel := { s.panel with roles := newRoles, keys := newKeys } })) ∧
          ∀ k, newRoles.get k = role k ∧
            (role k ≠ s.panel.roles.get k ∧ held k → newKeys.get k =
              ⟨if s.panel.down.getLsbD k.val then .arming else .up, 0, 0, 0, none⟩) ∧
            (role k = s.panel.roles.get k ∨ ¬held k → newKeys.get k = s.panel.keys.get k))) ∧
    (∀ l code seconds : Byte, Asks s p 0x43 [l, code, seconds] → 15 < l.toNat →
      exec (.lampTest p) s = .next (replied p .range [] s)) ∧
    ∀ (l : Fin 16) (code seconds : Byte), Asks s p 0x43 [byteOf l.val, code, seconds] →
      let r := s.panel.lamps.get l
      let sets := fun (adjusted : Bool) (test : Option LampTest) => exec (.lampTest p) s =
        .next { replied p (done adjusted) [] s with
          panel := { s.panel with lamps := s.panel.lamps.set l { r with testNew := some test } } }
      (5 < code.toNat → exec (.lampTest p) s = .next (replied p .range [] s)) ∧
      (code.toNat ≤ 5 → p = .booth → l.val < 12 → exec (.lampTest p) s = .next (replied p .denied [] s)) ∧
      (p ≠ .booth ∨ 12 ≤ l.val →
        (code = 5 → sets false none) ∧
        ∀ pattern, patternNames[code.toNat]? = some pattern →
          sets (decide (seconds.toNat < 1 ∨ 30 < seconds.toNat)) (some ⟨pattern, 0, 8 * max 1 (min 30 seconds.toNat)⟩))

/-- R124–R126: the brightness of each pattern by frame; what a lamp shows: its test, then its REFUSE overlay, then the pattern
of its offered state; and the pattern of each offered state, CUT's sixteen frames of flashing counted from 0 (the model's
choice: log 24). A lamp's output is high for the first 4 × brightness counts of its PWM period (R123); that it is a function of a
count within that period is the model's choice (log 26). -/
def Sys2Proof.Rules.LampPatterns : Prop :=
  (∀ (s : State) (l : Fin 16) (count : Nat), lampOutput s l count = true ↔ count < 4 * (s.panel.lamps.get l).brightness) ∧
  (∀ f, patternLevel .off f = 0 ∧ patternLevel .dim f = 64 ∧ patternLevel .full f = 255 ∧
    patternLevel .slow f = (if f % 8 < 4 then 255 else 0) ∧ patternLevel .fast f = (if f % 2 = 0 then 255 else 0)) ∧
  (∀ r : Lamp,
    (∀ t, r.test = some t → r.shown = patternLevel t.pattern t.frame) ∧
    (∀ n, r.test = none → r.refuse = some (n + 1) → n ≤ 7 → r.shown = patternLevel .fast (7 - n)) ∧
    (r.test = none → r.refuse = none ∨ r.refuse = some 0 → r.shown = patternLevel r.pattern r.frame)) ∧
  (∀ state, entrancePattern state = match state with
    | .closing => .fast
    | .admitting => .full
    | .hold => .dim
    | .usher => .slow
    | .off => .off) ∧
  ∀ y : TallyRecord, tallyPattern y = match y.offered with
    | .live => .full
    | .grace => .fast
    | .wait => .slow
    | .cut => if y.cut < 16 then .fast else .dim
    | .muted => .dim
    | .idle => .off
    | .off => .off

/-- R123–R128: a frame boundary, for all sixteen lamps: a pattern that differs starts at frame 0, and so does CUT offered
anew; a REFUSE that waits begins with 8 frames, a test that waits is set, and those that have shown their frames are gone;
every lamp shows the brightness of what it then has and counts one frame on; a tally lamp counts its frames in CUT, sixteen
of them flashing (the model's choice: log 24). -/
def Sys2Proof.Rules.LampFrame : Prop :=
  ∀ (s : State), s.engine.started = true →
    ∃ t, exec .lampFrame s = .next t ∧ t = { s with panel := { s.panel with lamps := t.panel.lamps, tallies := t.panel.tallies } } ∧
      (let becomes := fun (l : Fin 16) (pattern : Pattern) (frame : Nat) =>
          let r := s.panel.lamps.get l
          let refuse := if r.refuseNew then some 8 else if r.refuse = some 0 then none else r.refuse
          let test : Option LampTest := match r.testNew with
            | some test => test
            | none => if r.test.any (fun x : LampTest => x.left = 0) then none else r.test
          t.panel.lamps.get l = { r with
            pattern := pattern
            frame := (frame + 1) % 8
            refuse := refuse.map fun n => n - 1
            refuseNew := false
            test := test.map fun x : LampTest => ⟨x.pattern, (x.frame + 1) % 8, x.left - 1⟩
            testNew := none
            brightness := Lamp.shown { r with pattern := pattern, frame := frame, refuse := refuse, test := test } }
        let goesOn := fun (l : Fin 16) (pattern : Pattern) =>
          becomes l pattern (if pattern = (s.panel.lamps.get l).pattern then (s.panel.lamps.get l).frame else 0)
        (∀ e : Fin 12, goesOn (lampOf e) (entrancePattern (s.panel.entranceLamps.get e))) ∧
        ∀ d, let y := s.panel.tallies.get d
          (y.cutNew = true → becomes (tallyLamp d) .fast 0) ∧ (y.cutNew = false → goesOn (tallyLamp d) (tallyPattern y))) ∧
      ∀ d,
        let y := s.panel.tallies.get d
        t.panel.tallies.get d =
          ⟨y.offered, if y.offered = .cut then min 16 ((if y.cutNew then 0 else y.cut) + 1) else 0, false⟩

/-- R125–R128: what the Panel unit takes between boundaries: an entrance lamp's state, a tally state, a REFUSE; and the ends
of a REFUSE overlay, of a test and of CUT's two seconds of flashing. -/
def Sys2Proof.Rules.LampOffersAndEnds : Prop :=
  (∀ e, (lampOf e).val = e.val) ∧ (∀ d, (tallyLamp d).val = 12 + d.val) ∧
  ∀ (s : State),
    let setLamp := fun (l : Fin 16) (r : Lamp) => { s with panel := { s.panel with lamps := s.panel.lamps.set l r } }
    (∀ (e : Fin 12) (state : EntranceLamp) (rest : List LampMessage), s.mail.lamps = .offer e state :: rest →
      exec .lampStateOffer s = .next { s with
        panel := { s.panel with entranceLamps := s.panel.entranceLamps.set e state }, mail := { s.mail with lamps := rest } }) ∧
    (∀ (e : Fin 12) (rest : List LampMessage), s.mail.lamps = .refuse e :: rest →
      let r := { s.panel.lamps.get (lampOf e) with refuseNew := true }
      exec .refuseIndication s = .next { s with
        panel := { s.panel with lamps := s.panel.lamps.set (lampOf e) r }, mail := { s.mail with lamps := rest } }) ∧
    (∀ (d : Fin 4) (state : TalkState) (rest : List (Fin 4 × TalkState)), s.mail.tallies = (d, state) :: rest →
      let y : TallyRecord := ⟨state, if state = .cut then (s.panel.tallies.get d).cut else 0, state = .cut⟩
      exec .tallyStateOffer s = .next { s with
        panel := { s.panel with tallies := s.panel.tallies.set d y }, mail := { s.mail with tallies := rest } }) ∧
    (∀ l, (s.panel.lamps.get l).refuse = some 0 →
      exec (.refuseOverlayEnd l) s = .next (setLamp l { s.panel.lamps.get l with refuse := none })) ∧
    (∀ l t, (s.panel.lamps.get l).test = some t → t.left = 0 →
      exec (.lampTestEnd l) s = .next (setLamp l { s.panel.lamps.get l with test := none })) ∧
    ∀ d,
      let y := s.panel.tallies.get d
      let r := s.panel.lamps.get (tallyLamp d)
      y.offered = .cut → 16 ≤ y.cut → y.cutNew = false → r.pattern ≠ .dim →
      exec (.cutFlashEnd d) s = .next (setLamp (tallyLamp d) { r with pattern := .dim, frame := 0 })

/-- R117, R120, R121: the records of SCAN_SET and KEYMAP_SET: the four timings, each taken to the nearer end of its range and
ADJUSTED exactly where one had to be; and the role of each byte, with the bytes that are refused. That NONE is 00H alone is the
model's choice (log 22). -/
def Sys2Proof.Rules.PanelRecords : Prop :=
  (∀ (ps : List Byte),
    let again := natAt ps 2 * 256 + natAt ps 3
    (readTimings ps).1 =
      { debounce := max 5 (min 40 (natAt ps 0)), long := max 5 (min 50 (natAt ps 1)), again := max 100 (min 1000 again)
        stuck := max 10 (min 120 (natAt ps 4)) } ∧
    ((readTimings ps).2 = true ↔ natAt ps 0 < 5 ∨ 40 < natAt ps 0 ∨ natAt ps 1 < 5 ∨ 50 < natAt ps 1 ∨ again < 100 ∨
      1000 < again ∨ natAt ps 4 < 10 ∨ 120 < natAt ps 4)) ∧
  readRole 0x00 = some .none ∧ readRole 0x60 = some (.portKey .stage) ∧ readRole 0x61 = some (.portKey .house) ∧
  readRole 0x62 = some (.portKey .booth) ∧
  (∀ e : Fin 12, readRole (byteOf (0x10 + e.val)) = some (.add e) ∧ readRole (byteOf (0x20 + e.val)) = some (.remove e) ∧
    readRole (byteOf (0x30 + e.val)) = some (.done e) ∧ readRole (byteOf (0x40 + e.val)) = some (.usher e)) ∧
  (∀ d : Fin 4, readRole (byteOf (0x50 + d.val)) = some (.talk d)) ∧
  (∀ b : Byte, readRole b = none ↔ ¬(b = 0x00 ∨ (0x10 ≤ b.toNat ∧ b.toNat ≤ 0x4B ∧ b.toNat % 16 ≤ 11) ∨
    (0x50 ≤ b.toNat ∧ b.toNat ≤ 0x53) ∨ (0x60 ≤ b.toNat ∧ b.toNat ≤ 0x62))) ∧
  (∀ b, (∀ r, readRole b = some r → writeRole r = b)) ∧
  readRoles [] = some [] ∧ ∀ b bs, readRoles (b :: bs) = match readRole b, readRoles bs with
    | some r, some rest => some (r :: rest)
    | _, _ => none

/-! ## Phrase store, settings and start-up -/

/-- R174–R177, R179: the store requests of its owner: who is refused, with which status, and what an OPEN store does. The
order of the refusals beyond DENIED is the model's choice (log 30). -/
def Sys2Proof.Rules.StoreRequests : Prop :=
  ∀ (s : State) (p : Port) (ps : List Byte),
    let u := s.store
    let other := u.owner ≠ none ∧ u.owner ≠ some p
    let busy := (∃ page, u.state = .programming page) ∨ (∃ sector, u.state = .erasing sector) ∨ (∃ image, u.state = .saving image)
    let answers := fun (r : Step) (bad : Prop) (after : Store) =>
      (other → r = .next (replied p .denied [] s)) ∧
      (¬other → bad → r = .next (replied p .range [] s)) ∧
      (¬other → ¬bad → busy → r = .next (replied p .busy [] s)) ∧
      (¬other → ¬bad → u.state = .locked → r = .next (replied p .state [] s)) ∧
      (¬other → ¬bad → u.state = .opened → r = .next (let t := replied p .ok [] s; { t with store := after }))
    (Asks s p 0x60 ps →
      let free := u.state = .locked ∧ (hallOf s .a).phase = .dark ∧ (hallOf s .b).phase = .dark ∧
        ∀ c ∈ s.call.queue, ∀ list, c.content ≠ .phrases list
      (u.restartPending = true → exec (.storeOpen p) s = .next (replied p .busy [] s)) ∧
      (u.restartPending = false → ¬free → exec (.storeOpen p) s = .next (replied p .state [] s)) ∧
      (u.restartPending = false → free → exec (.storeOpen p) s = .next { replied p .ok [] s with
        store := { u with state := .opened, owner := some p, buffer := Table.fill 256 0xFF } })) ∧
    (Asks s p 0x61 ps →
      let data := ps.drop 1
      let n := data.length
      answers (exec (.storeFill p) s) (n = 0 ∨ 56 < n ∨ 256 < natAt ps 0 + n)
        { u with buffer := u.buffer.mapIdx fun i x => if natAt ps 0 ≤ i.val then (data[i.val - natAt ps 0]?).getD x else x }) ∧
    (Asks s p 0x62 ps →
      answers (exec (.storeProgram p) s) (65279 < wordAt ps 0) { u with state := .programming (wordAt ps 0) }) ∧
    (Asks s p 0x63 ps → answers (exec (.storeErase p) s) (natAt ps 0 = 255) { u with state := .erasing (natAt ps 0) }) ∧
    (Asks s p 0x65 ps → answers (exec (.storeClose p) s) False
      { u with state := .locked, owner := none, buffer := Table.fill 256 0xFF, directory := buildDirectory u.flash })

/-- R176: at its completion a page holds, byte by byte, the AND of what it held and the page buffer; nothing else of the
flash changes; the result is OK when every byte that the buffer does not leave at FFH reads as the buffer; the store is
OPEN again with an emptied buffer. -/
def Sys2Proof.Rules.ProgramCompletion : Prop :=
  ∀ (s : State) (page : Nat), FlashLaw s → page ≤ 65279 → s.store.state = .programming page →
    ∃ (m : Flash) (ok : Bool), exec .programComplete s = .next (offer 11 (if ok then 0 else 1) (byteOf (page / 256))
        { s with store := { s.store with state := .opened, flash := m, buffer := Table.fill 256 0xFF } }) ∧
      m.wf = true ∧
      (∀ i : Fin 256, m.read (256 * page + i.val) = s.store.flash.read (256 * page + i.val) &&& s.store.buffer.get i) ∧
      (∀ a, a < 256 * page ∨ 256 * page + 256 ≤ a → m.read a = s.store.flash.read a) ∧
      (ok = true ↔ ∀ i : Fin 256, s.store.buffer.get i = 0xFF ∨ m.read (256 * page + i.val) = s.store.buffer.get i)

/-- R177: at its completion an erased sector reads FFH but for the bytes the flash left; no other byte changes; the result
is OK when all of it reads FFH; the page buffer is not changed. That the bytes the flash left come with the command is the
model's choice (log 21). -/
def Sys2Proof.Rules.EraseCompletion : Prop :=
  ∀ (s : State) (sector : Nat) (left : List Host.Cell), FlashLaw s → s.store.state = .erasing sector →
    ∃ (m : Flash) (ok : Bool), exec (.eraseComplete left) s = .next (offer 11 (if ok then 2 else 3) (byteOf sector)
        { s with store := { s.store with state := .opened, flash := m } }) ∧ m.wf = true ∧
      (∀ a, a / 65536 = sector → (∀ c ∈ left, c.1 ≠ a) → m.read a = 0xFF) ∧
      (∀ a, a / 65536 ≠ sector → m.read a = s.store.flash.read a) ∧
      (ok = true ↔ ∀ a, a / 65536 = sector → m.read a = 0xFF)

/-- R182: SETTINGS_SAVE, and its completion where the flash leaves no byte unwritten. That STATE is tested before BUSY (log 30),
and that the bytes a flash leaves unwritten come with the completion (here none: log 21), are the model's choices. -/
def Sys2Proof.Rules.SettingsSaving : Prop :=
  ∀ (s : State) (p : Port),
    let u := s.store
    let busy := (∃ page, u.state = .programming page) ∨ (∃ sector, u.state = .erasing sector) ∨ (∃ image, u.state = .saving image)
    let notQuiet := (hallOf s .a).phase ≠ .dark ∨ (hallOf s .b).phase ≠ .dark ∨ u.state = .opened
    (Asks s p 0x66 [] →
      (notQuiet → exec (.settingsSave p) s = .next (replied p .state [] s)) ∧
      (¬notQuiet → busy ∨ u.restartPending = true → exec (.settingsSave p) s = .next (replied p .busy [] s)) ∧
      (¬notQuiet → ¬busy → u.restartPending = false → exec (.settingsSave p) s = .next { replied p .ok [] s with
        store := { u with state := .saving (buildImage (currentSettings s)), saveReach := 0 } })) ∧
    ∀ image, u.state = .saving image → FlashLaw s → image.length ≤ 65536 → exec (.saveComplete []) s =
      .next (offer 11 4 0xFF { s with store := { u with
        state := .locked, saveReach := 0, flash := (u.flash.erase 255).putAll 0xFF0000 image } })

/-- R182: after a save that the flash carries out, the image reads back whole from FF0000H and no byte below it has
changed. -/
def Sys2Proof.Rules.SavedImageReadsBack : Prop :=
  ∀ (m : Flash) (image : List Byte), m.wf = true → image.length ≤ 65536 →
    let after := (m.erase 255).putAll 0xFF0000 image
    after.readAll 0xFF0000 image.length = image ∧ ∀ a, a < 0xFF0000 → after.read a = m.read a

/-- R178: STORE_READ: its refusals, the wait, and the bytes it is answered with. That BUSY is tested before RANGE (log 30), and
that a read during a save sees it between two of its flash operations, after the erase and a free number of pages (log 5),
are the model's choices. -/
def Sys2Proof.Rules.StoreReading : Prop :=
  ∀ (s : State) (p : Port) (ps : List Byte),
    let u := s.store
    let changing := (∃ page, u.state = .programming page) ∨ (∃ sector, u.state = .erasing sector)
    let start := 65536 * natAt ps 0 + wordAt ps 1
    let count := natAt ps 3
    (Asks s p 0x64 ps →
      (changing → exec (.storeRead p) s = .next (replied p .busy [] s)) ∧
      (¬changing → count = 0 ∨ 56 < count ∨ 0x1000000 < start + count →
        exec (.storeRead p) s = .next (replied p .range [] s)) ∧
      (¬changing → 1 ≤ count ∧ count ≤ 56 ∧ start + count ≤ 0x1000000 →
        exec (.storeRead p) s = .next { withoutRequest p s with
          store := { u with reads := u.reads.set p (some ⟨start, count⟩) } })) ∧
    ∀ job, u.reads.get p = some job →
      (changing → exec (.storeReadDone p) s = .next s) ∧
      (u.state = .locked ∨ u.state = .opened → exec (.storeReadDone p) s =
        .next (answer p .ok ((List.range job.count).map fun i => u.flash.read (job.start + i))
          { s with store := { u with reads := u.reads.set p none } })) ∧
      ∀ image, u.state = .saving image → ∃ pages reach,
        exec (.storeReadDone p) s = .next (answer p .ok
          ((List.range job.count).map fun i => ((u.flash.erase 255).putAll 0xFF0000 (image.take (256 * pages))).read (job.start + i))
          { s with draws := s.draws + 1, store := { u with reads := u.reads.set p none, saveReach := reach } })

/-- R172: what a directory entry gives: present with its start, length and gain exactly when it passes every test. -/
def Sys2Proof.Rules.DirectoryEntries : Prop :=
  ∀ (m : Flash) (n : Fin 128),
    let at_ := fun i => (m.read (16 * n.val + i)).toNat
    let start := 65536 * at_ 1 + 256 * at_ 2 + at_ 3
    let length := 65536 * at_ 4 + 256 * at_ 5 + at_ 6
    let gain := (m.read (16 * n.val + 7)).toInt
    let used := length ≠ 0xFFFFFF ∧ at_ 0 = n.val ∧ start % 2 = 0 ∧ 0x010000 ≤ start ∧ start ≤ 0xFEFFFF ∧
      start + 2 * length ≤ 0xFF0000 ∧ -40 ≤ gain ∧ gain ≤ 0
    (used → (buildDirectory m).get n = some ⟨start, length, gain⟩) ∧ (¬used → (buildDirectory m).get n = none)

/-- R184, R185: RESTART is refused or leaves its port PENDING with restart pending set; PART_INFO gives the family code,
part number 740, the revision letter (log 4: free) and the strap value. That RESTART tests STATE before BUSY is the model's
choice (log 30). -/
def Sys2Proof.Rules.RestartAndIdentity : Prop :=
  ∀ (s : State) (p : Port),
    let u := s.store
    let busy := (∃ page, u.state = .programming page) ∨ (∃ sector, u.state = .erasing sector) ∨ (∃ image, u.state = .saving image)
    let notQuiet := (hallOf s .a).phase ≠ .dark ∨ (hallOf s .b).phase ≠ .dark ∨ u.state = .opened
    (Asks s p 0x67 [] →
      (notQuiet → exec (.restart p) s = .next (replied p .state [] s)) ∧
      (¬notQuiet → busy ∨ u.restartPending = true → exec (.restart p) s = .next (replied p .busy [] s)) ∧
      (¬notQuiet → ¬busy → u.restartPending = false → exec (.restart p) s =
        .next { withoutRequest p s with store := { u with restartPending := true } })) ∧
    (Asks s p 0x68 [] → exec (.partInfo p) s =
      .next (replied p .ok [0x07, 0x02, 0xE4, Config.revisionLetter, s.straps.setWidth 8] s))

/-- R183, R184: power-on, the end of the reset line and a pending restart: every unit at its reset values over the flash as
it stands (a flash operation that was cut short leaves it as R180 says: log 5), every law of the units in force, the straps
sampled, the settings taken from a good image and otherwise the factory defaults, and START pending on every port with the
source and the reason. That start-up is done within the command (log 11) and that the queue stays (log 1) are the model's
choices. -/
def Sys2Proof.Rules.StartUp : Prop :=
  ∀ (s : State) (straps : BitVec 2),
    let t := startUp straps s
    exec (.powerOn straps) s = .next t ∧
    exec (.resetLine straps) s = .next t ∧
    (s.store.restartPending = true → exec (.restartTakesEffect straps) s = .next t) ∧
    (s.store.restartPending = false → exec (.restartTakesEffect straps) s = .next s) ∧
    Rules.AtResetValues t ∧ (FlashLaw s → Safe t) ∧
    t.pending = s.pending ∧ t.straps = straps ∧
    (s.store.state = .locked ∨ s.store.state = .opened → t.store.flash = s.store.flash) ∧
    (∀ settings, loadImage t.store.flash = .ok settings → currentSettings t = settings) ∧
    (∀ fault, loadImage t.store.flash = .error fault → currentSettings t = factorySettings) ∧
    ∀ p, (((t.notices.get p).kinds.get 15).pending = some ⟨1,
        (match loadImage t.store.flash with | .ok _ => 0 | .error _ => 1),
        (match loadImage t.store.flash with | .ok _ => 0xFF | .error .empty => 0 | .error .crc => 1 | .error .content => 2), 0⟩) ∧
      attention (t.notices.get p) = true

/-- R180, R182: what a cut operation leaves: every byte at its former value or at the value the operation was writing, which
of the two free; in a cut save each byte of sector 255 at its former value, erased, or at the image's byte. That start-up
finds the flash so within the command is the model's choice (log 11). -/
def Sys2Proof.Rules.CutOperations : Prop :=
  ∀ (s : State) (straps : BitVec 2), FlashLaw s →
    let m := s.store.flash
    let left := (startUp straps s).store.flash
    (∀ page, page ≤ 65279 → s.store.state = .programming page →
      (∀ i : Fin 256, left.read (256 * page + i.val) = m.read (256 * page + i.val) ∨
        left.read (256 * page + i.val) = m.read (256 * page + i.val) &&& s.store.buffer.get i) ∧
      ∀ a, a < 256 * page ∨ 256 * page + 256 ≤ a → left.read a = m.read a) ∧
    (∀ sector, s.store.state = .erasing sector → ∀ a,
      (a / 65536 ≠ sector → left.read a = m.read a) ∧ (left.read a = m.read a ∨ left.read a = 0xFF)) ∧
    ∀ image, s.store.state = .saving image → image.length ≤ 65536 →
      (∀ a, a < 0xFF0000 → left.read a = m.read a) ∧
      ∀ i, i < 65536 →
        left.read (0xFF0000 + i) = m.read (0xFF0000 + i) ∨ left.read (0xFF0000 + i) = 0xFF ∨
          image[i]? = some (left.read (0xFF0000 + i))

/-- R181: the CRC: the bytes 31H to 39H give 29B1H, and each byte is taken most significant bit first. -/
def Sys2Proof.Rules.ImageCrc : Prop :=
  crc [0x31, 0x32, 0x33, 0x34, 0x35, 0x36, 0x37, 0x38, 0x39] = 0x29B1 ∧ crc [] = 0xFFFF ∧
  ∀ (bs : List Byte) (b : Byte), crc (bs ++ [b]) = (List.range 8).foldl (fun (c : BitVec 16) i =>
    if c.msb = b.getMsbD i then c <<< 1 else (c <<< 1) ^^^ 0x1021) (crc bs)

/-- R183: the tests of the image, in their order. -/
def Sys2Proof.Rules.ImageTests : Prop :=
  ∀ m : Flash,
    let length := 256 * (m.read 0xFF0000).toNat + (m.read 0xFF0001).toNat
    let stored := 256 * (m.read (0xFF0000 + 1181)).toNat + (m.read (0xFF0000 + 1182)).toNat
    let covered := m.readAll 0xFF0000 1181
    (length = 0xFFFF → loadImage m = .error .empty) ∧
    (length ≠ 0xFFFF → length ≠ 1179 → loadImage m = .error .content) ∧
    (length = 1179 → (crc covered).toNat ≠ stored → loadImage m = .error .crc) ∧
    (length = 1179 → (crc covered).toNat = stored →
      (readSettings (covered.drop 2) = none → loadImage m = .error .content) ∧
      ∀ settings, readSettings (covered.drop 2) = some settings → loadImage m = .ok settings)

/-- R181, R182: the settings of the moment are those the owning units hold. -/
def Sys2Proof.Rules.CurrentSettings : Prop :=
  ∀ (s : State),
    let v := currentSettings s
    (∀ h, v.halls.get h = (hallOf s h).settings) ∧ v.plans = s.programme.plans ∧
    (∀ e, v.entrances.get e = (s.admission.entrances.get e).settings) ∧
    (∀ z, v.zones.get z = (s.zoneUnit.zones.get z).settings) ∧ (∀ l, v.loops.get l = (s.zoneUnit.loops.get l).settings) ∧
    (∀ f, v.foyers.get f = (s.zoneUnit.foyers.get f).settings) ∧ (∀ c, v.sound.get c = (s.level.sound.get c).settings) ∧
    (∀ l, v.sense.get l = (s.level.sense.get l).settings) ∧ v.roles = s.panel.roles ∧ v.timings = s.panel.timings ∧
    ∀ c, v.channels.get c = (channelOf s c).settings

/-- R181, with the layout of Control Ports: the image: its length, the settings record by record, and the CRC over all of it, high
byte first. A field that a zone's kind does not hold is FFH, or 80H where it is signed; so are the unused bytes of a step and
of a plan. -/
def Sys2Proof.Rules.ImageLayout : Prop :=
  ∀ (v : Settings),
    let hall := fun h => match h with | Hall.a => (0 : Byte) | Hall.b => 1
    let opt := fun o : Option Nat => match o with | some n => byteOf n | none => (0xFF : Byte)
    let step := fun x : Int => BitVec.ofInt 8 x
    let halls := [Hall.a, .b].flatMap fun h =>
      let r := v.halls.get h
      bytes2 r.breakWindow ++ [byteOf r.gapWindow, byteOf r.warnTime, opt r.phrase, opt (r.preshow.map Fin.val)]
    let entrances := (finUpTo 12).flatMap fun e =>
      let r := v.entrances.get e
      [hall r.hall, opt (r.zone.map fun f => f.val + 12), byteOf r.quota, flagByte r.stepFree, opt (r.lamp.map Fin.val)]
    let zones := (finUpTo 18).flatMap fun z =>
      let r := v.zones.get z
      let common := [step r.trim, byteOf r.rampDown, byteOf r.rampUp, step r.duckDepth]
      match zoneKind z with
      | .loop l => [hall (v.loops.get l).hall] ++ common ++ [0xFF, 0x80, 0x80, 0xFF] ++ bytes2 (v.loops.get l).driveLimit
      | .desc _ => [(0xFF : Byte)] ++ common ++ [0xFF, 0x80, 0x80, 0xFF, 0xFF, 0xFF]
      | .foyer f =>
        let q := v.foyers.get f
        [(0xFF : Byte)] ++ common ++ [(match q.idleSource with | .aux => (0 : Byte) | .silence => 1), step q.idleGain, step q.relayGain,
          (match q.quietHall with | some h => hall h | none => 0xFF), 0xFF, 0xFF]
    let sound := (finUpTo 6).flatMap fun c =>
      let r := v.sound.get c
      [step r.upper, step r.lower] ++ bytes2 r.soundHold ++ bytes2 r.quietHold
    let sense := (finUpTo 8).flatMap fun l =>
      let r := v.sense.get l
      [step r.overCurrent, step r.openStep, step r.driveCheck] ++ bytes2 r.openHold ++ [0xFF]
    let roles := (finUpTo 64).map fun k => writeRole (v.roles.get k)
    let timings := [byteOf v.timings.debounce, byteOf v.timings.long] ++ bytes2 v.timings.again ++ [byteOf v.timings.stuck]
    let channels := (finUpTo 4).flatMap fun c =>
      let r := v.channels.get c
      [byteOf (r.zone.val + 8), hall r.hall, opt (r.input.map Fin.val), (match r.talkMode with | .key => 0 | .voice => 1),
        step r.depth, step r.gain, byteOf r.grace]
    let planStep := fun st : PlanStep =>
      bytes2 st.offset ++
        (match st.content with
          | .phrases list => [0, byteOf list.length] ++ list.map byteOf ++ List.replicate (6 - list.length) 0xFF
          | .chime pattern strikes => [1, byteOf pattern.val, byteOf strikes] ++ List.replicate 5 0xFF
          | .live mic => [2, byteOf mic.val] ++ List.replicate 6 0xFF) ++
        bytes3 st.targets.toNat ++ [byteOf st.priority, (match st.mode with | .duck => 0 | .replace => 1)]
    let plans := (finUpTo 8).flatMap fun p =>
      let r := v.plans.get p
      [byteOf r.length] ++ r.flatMap planStep ++ List.replicate (90 - 15 * r.length) 0xFF
    let body := bytes2 1179 ++ halls ++ entrances ++ zones ++ sound ++ sense ++ roles ++ timings ++ channels ++ plans
    buildImage v = body ++ bytes2 (crc body).toNat ∧ (SettingsInRange v → (buildImage v).length = 1183)

/-- A record reads as a value, clamped or not. -/
def Sys2Proof.Rules.Gives {α : Type} (read : Option (α × Bool)) (x : α) : Prop := ∃ adjusted, read = some (x, adjusted)

/-- R183, step 3: the settings that the 1,179 bytes of an image give: each record read at its place as the request that writes
it reads it, without notice of a clamp; and none exactly where a record would be refused, a lamp is named twice, a foyer zone
holds entrances of both halls, or a plan has more than six steps. -/
def Sys2Proof.Rules.SettingsRead : Prop :=
  ∀ (bs : List Byte) (v : Settings), bs.length = 1179 →
    (readSettings bs = some v ↔
      Rules.Gives (readHallSettings bs) v.halls.a ∧ Rules.Gives (readHallSettings (bs.drop 6)) v.halls.b ∧
      (∀ e, Rules.Gives (readEntranceSettings (bs.drop (12 + 5 * e.val))) (v.entrances.get e)) ∧
      (∀ z, v.zones.get z = (readZoneCommon (bs.drop (72 + 11 * z.val))).1) ∧
      (∀ l, Rules.Gives (readLoopSettings (bs.drop (72 + 11 * l.val))) (v.loops.get l)) ∧
      (∀ f, Rules.Gives (readFoyerSettings (bs.drop (72 + 11 * (f.val + 12)))) (v.foyers.get f)) ∧
      (∀ c, v.sound.get c = (readSoundSettings (bs.drop (270 + 6 * c.val))).1) ∧
      (∀ l, v.sense.get l = (readSenseSettings (bs.drop (306 + 6 * l.val))).1) ∧
      (∀ k, readRole (byteAt bs (354 + k.val)) = some (v.roles.get k)) ∧
      v.timings = (readTimings (bs.drop 418)).1 ∧
      (∀ c, Rules.Gives (readChannelSettings (bs.drop (423 + 7 * c.val))) (v.channels.get c)) ∧
      (∀ p, natAt bs (451 + 91 * p.val) = (v.plans.get p).length ∧ (v.plans.get p).length ≤ 6 ∧
        ∀ i st, (v.plans.get p)[i]? = some st → Rules.Gives (readPlanStep (bs.drop (452 + 91 * p.val + 15 * i))) st) ∧
      (∀ e f, (v.entrances.get e).lamp ≠ none → (v.entrances.get e).lamp = (v.entrances.get f).lamp → e = f) ∧
      ∀ e f, (v.entrances.get e).zone ≠ none → (v.entrances.get e).zone = (v.entrances.get f).zone →
        (v.entrances.get e).hall = (v.entrances.get f).hall)

/-- R181–R183: settings within their ranges, saved as an image, are the settings that start-up reads back. -/
def Sys2Proof.Rules.ImageReadsBack : Prop :=
  ∀ (m : Flash) (v : Settings), m.wf = true → SettingsInRange v →
    loadImage ((m.erase 255).putAll 0xFF0000 (buildImage v)) = .ok v

/-- R1, R21, R27, R31, R70, R74, R81, R84, R121, R155, R159: every step keeps the settings within their ranges. -/
def Sys2Proof.Rules.SettingsKept : Prop := ∀ s t : State, SettingsLaw s → step s = .next t → SettingsLaw t

/-- R8, R174, R182: the states of the store that other units read: SAVING, and the three of an open store; and both halls DARK
in the Programme unit's records. -/
def Sys2Proof.Rules.StoreStates : Prop :=
  ∀ (s : State),
    (saving s = true ↔ ∃ image, s.store.state = .saving image) ∧
    (storeOpen s = true ↔ s.store.state = .opened ∨ (∃ page, s.store.state = .programming page) ∨
      ∃ sector, s.store.state = .erasing sector) ∧
    (∀ h, hallDark s h = true ↔ (hallOf s h).phase = .dark) ∧ (bothHallsDark s = true ↔ ∀ h, (hallOf s h).phase = .dark)

/-! ## Control ports -/

/-- R189: what the end of a write makes of a port's record: nothing outside RECEIVING; the return state after a probe; a
FRAME reply after a bad frame; the router's reply or a pending request after a good one. -/
def Sys2Proof.Rules.EndOfWrite : Prop :=
  ∀ (p : Port) (r : PortRecord),
    let good := r.overflow = false ∧ 3 ≤ r.buffer.length ∧ natAt r.buffer 2 ≤ 60 ∧ r.buffer.length = 3 + natAt r.buffer 2
    let emptied : PortRecord := { r with buffer := [], overflow := false, setAside := none }
    (r.state ≠ .receiving → endWrite p r = r) ∧
    (r.state = .receiving → r.buffer = [] →
      (r.ret = .idle → endWrite p r = { emptied with state := .idle, reply := r.setAside }) ∧
      (r.ret = .ready → endWrite p r = { emptied with state := .ready, reply := r.setAside })) ∧
    (r.state = .receiving → r.buffer ≠ [] → ¬good → endWrite p r =
      { emptied with state := .ready, reply := some ⟨.frame, r.buffer.getD 1 0, []⟩, tag := none }) ∧
    (r.state = .receiving → r.buffer ≠ [] → good →
      let code := r.buffer.getD 0 0
      let tag := r.buffer.getD 1 0
      (∀ status, route p code (r.buffer.drop 3) = .error status → endWrite p r =
        { emptied with state := .ready, reply := some ⟨status, tag, []⟩, tag := none }) ∧
      (∀ request, route p code (r.buffer.drop 3) = .ok request → endWrite p r =
        { emptied with state := .pending, reply := none, tag := some tag, request := some request }))

/-- R191, R2, R85, R119, R131, R158, R173: the router's three tests, in their order, over the request table of Control Ports:
its codes, the ports of each request, and the fixed lengths. -/
def Sys2Proof.Rules.Router : Prop :=
  (∀ (p : Port) (code : Byte) (ps : List Byte),
    (requestRow code = none → route p code ps = .error .unknown) ∧
    ∀ row, requestRow code = some row →
      (row.permits p = false → route p code ps = .error .denied) ∧
      (row.permits p = true →
        (row.length = none → route p code ps = .ok ⟨code, ps⟩) ∧
        (∀ n, row.length = some n →
          (ps.length = n → route p code ps = .ok ⟨code, ps⟩) ∧ (ps.length ≠ n → route p code ps = .error .range)))) ∧
  (∀ code : Byte, (requestRow code).isSome = true ↔ code.toNat ∈
    [0x10, 0x11, 0x12, 0x13, 0x14, 0x15, 0x16, 0x17, 0x18, 0x19, 0x1A, 0x1B, 0x20, 0x21, 0x28, 0x29, 0x2A,
     0x30, 0x31, 0x32, 0x33, 0x34, 0x35, 0x36, 0x37, 0x38, 0x40, 0x41, 0x42, 0x43, 0x50, 0x51, 0x52, 0x53,
     0x58, 0x59, 0x5A, 0x5B, 0x60, 0x61, 0x62, 0x63, 0x64, 0x65, 0x66, 0x67, 0x68, 0x70, 0x71, 0x72]) ∧
  (let rows : List (List Port × Option Nat × List Nat) :=
    [([.stage, .house, .booth], some 0, [0x29, 0x59, 0x68, 0x70]),
     ([.stage, .house, .booth], some 1, [0x1B, 0x21, 0x34, 0x42, 0x51, 0x53]),
     ([.stage, .house, .booth], some 19, [0x50]), ([.stage, .house, .booth], some 2, [0x71]),
     ([.stage, .house, .booth], some 3, [0x43]), ([.stage, .house, .booth], some 4, [0x64]),
     ([.stage, .house, .booth], some 6, [0x72]), ([.house, .booth], some 8, [0x58]),
     ([.stage, .house], none, [0x11, 0x28, 0x40, 0x61]), ([.stage, .house], some 0, [0x60, 0x65, 0x66, 0x67]),
     ([.stage, .house], some 1, [0x10, 0x2A, 0x37, 0x52, 0x63]), ([.stage, .house], some 12, [0x20]),
     ([.stage, .house], some 2, [0x18, 0x36, 0x62]), ([.stage, .house], some 3, [0x13]),
     ([.stage, .house], some 5, [0x41]), ([.stage, .house], some 7, [0x12, 0x1A]), ([.booth], some 1, [0x5A, 0x5B]),
     ([.house], none, [0x19]), ([.house], some 1, [0x38]), ([.house], some 2, [0x32]),
     ([.house], some 3, [0x31, 0x33, 0x35]), ([.house], some 6, [0x30]), ([.stage], some 1, [0x16, 0x17]),
     ([.stage], some 2, [0x14, 0x15])];
  ∀ ports length codes, (ports, length, codes) ∈ rows → ∀ code : Byte, code.toNat ∈ codes →
    ∃ row, requestRow code = some row ∧ row.length = length ∧ ∀ p, row.permits p = true ↔ p ∈ ports)

/-- R186, R188, R189: a write transaction begins: what the port acknowledges and stores, and how it stands, by the state
in which the end of any write in progress has left it. That a START with another address ends that write too is the model's
choice (log 20). -/
def Sys2Proof.Rules.WriteStart : Prop :=
  ∀ (s : State) (p : Port) (addr : BitVec 7) (data : List Byte),
    let r := endWrite p (s.ports.get p)
    let own := s.engine.started = true ∧ addr.toNat = 0x2C + s.straps.toNat
    let stored := data.take 63
    let becomes := fun q : PortRecord => { s with ports := s.ports.set p q }
    let receiving : PortRecord := { r with state := .receiving, buffer := stored, overflow := decide (63 < data.length), bus := ⟨true, stored.length, [], none⟩ }
    (¬own → exec (.i2cWriteStart p addr data) s = .next (becomes { r with bus := ⟨false, 0, [], none⟩ })) ∧
    (own → r.state = .pending → exec (.i2cWriteStart p addr data) s = .next (becomes { r with bus := ⟨true, 0, [], none⟩ })) ∧
    (own → r.state = .idle → exec (.i2cWriteStart p addr data) s =
      .next (becomes { receiving with ret := .idle, setAside := none })) ∧
    (own → r.state = .ready → exec (.i2cWriteStart p addr data) s =
      .next (becomes { receiving with ret := .ready, setAside := r.reply, reply := none })) ∧
    r.state ≠ .receiving

/-- R189, R190: the end of a write and the write timeout, on their port alone. -/
def Sys2Proof.Rules.WriteEndAndTimeout : Prop :=
  ∀ (s : State) (p : Port),
    let r := s.ports.get p
    let becomes := fun q : PortRecord => { s with ports := s.ports.set p q }
    exec (.i2cWriteEnd p) s = .next (becomes (endWrite p r)) ∧
    (r.state ≠ .receiving → exec (.writeTimeout p) s = .next s) ∧
    (r.state = .receiving →
      let q : PortRecord := { r with buffer := [], overflow := false, reply := r.setAside, setAside := none }
      (r.ret = .idle → exec (.writeTimeout p) s = .next (becomes { q with state := .idle })) ∧
      (r.ret = .ready → exec (.writeTimeout p) s = .next (becomes { q with state := .ready })))

/-- R186, R192, R193: a read: what the port sends by its state, and that no field of its record changes but, for a repeated
START, what the end of the write in progress changes; and the limit of the clock's stretching. That a START with another
address ends the write in progress too is the model's choice (log 20). -/
def Sys2Proof.Rules.Reads : Prop :=
  ∀ (s : State) (p : Port) (addr : BitVec 7) (count : Nat),
    let r := endWrite p (s.ports.get p)
    let own := s.engine.started = true ∧ addr.toNat = 0x2C + s.straps.toNat
    let sends := fun bytes : List Byte => (bytes ++ List.replicate count 0xFF).take count
    let drives := fun b : Bus => exec (.i2cRead p addr count) s = .next { s with ports := s.ports.set p { r with bus := b } }
    (¬own → drives ⟨false, 0, [], none⟩) ∧
    (∀ reply, own → r.state = .ready → r.reply = some reply →
      drives ⟨true, 0, sends ([reply.status.code, reply.tag, byteOf reply.payload.length] ++ reply.payload), none⟩) ∧
    (own → r.state = .idle → drives ⟨true, 0, sends [0x0B, 0x00, 0x00], none⟩) ∧
    (∀ tag, own → r.state = .pending → r.tag = some tag →
      (r.mode = .noStretch → drives ⟨true, 0, sends [0x0A, tag, 0x00], none⟩) ∧
      (r.mode = .stretch → drives ⟨true, 0, [], some count⟩)) ∧
    let q := s.ports.get p
    (q.bus.stretch = none → exec (.stretchLimit p) s = .next s) ∧
    ∀ n tag, q.bus.stretch = some n → q.tag = some tag → exec (.stretchLimit p) s = .next { s with
      ports := s.ports.set p { q with
        bus := ⟨q.bus.addressAck, q.bus.dataAcks, ([0x0A, tag, 0x00] ++ List.replicate n 0xFF).take n, none⟩ } }

/-- R191, R193: when a unit's answer is taken its port is READY with the status, the request's tag and the payload; a read
that is being stretched sends it; the other ports and everything else stay as they are. -/
def Sys2Proof.Rules.AnswerTaken : Prop :=
  ∀ (s : State) (p : Port) (status : Status) (payload : List Byte) (tag : Byte),
    let r := s.ports.get p
    let reply : Reply := ⟨status, tag, payload⟩
    let bytes := [status.code, tag, byteOf payload.length] ++ payload
    r.tag = some tag →
    let after : PortRecord := { r with state := .ready, tag := none, request := none, reply := some reply }
    (r.bus.stretch = none → answer p status payload s = { s with ports := s.ports.set p after }) ∧
    ∀ n, r.bus.stretch = some n → answer p status payload s = { s with ports := s.ports.set p { after with
      bus := ⟨r.bus.addressAck, r.bus.dataAcks, (bytes ++ List.replicate n 0xFF).take n, none⟩ } }

/-- R194: the codes of the twelve statuses. -/
def Sys2Proof.Rules.StatusCodes : Prop :=
  [Status.ok, .adjusted, .frame, .unknown, .denied, .range, .state, .full, .busy, .notFound, .notReady, .noRequest].map
    Status.code = [0x00, 0x01, 0x02, 0x03, 0x04, 0x05, 0x06, 0x07, 0x08, 0x09, 0x0A, 0x0B]

/-! ## Notices and the house clock -/

/-- R195–R197: a port's set and an offer of a kind: what a masked or unmasked, pending or clear kind makes of it, after the
port's edge choice; no other kind and no option changes. -/
def Sys2Proof.Rules.SetTakesOffer : Prop :=
  ∀ (n : NoticeSet) (o : Offer),
    let k := n.kinds.get o.kind
    let t := n.take o
    let kept := ¬(n.edge = .rise ∧ o.edge = some .fall) ∧ ¬(n.edge = .fall ∧ o.edge = some .rise)
    (∀ j, j ≠ o.kind → t.kinds.get j = n.kinds.get j) ∧ t.hold = n.hold ∧ t.edge = n.edge ∧ t.clear = n.clear ∧
    (¬kept → t = n) ∧
    (kept → k.masked = true → n.hold = false → t.kinds.get o.kind = k) ∧
    (kept → k.masked = false ∨ n.hold = true →
      (k.pending = none → t.kinds.get o.kind = ⟨k.masked, some ⟨1, o.detail0, o.detail1, o.time⟩⟩) ∧
      ∀ q, k.pending = some q →
        t.kinds.get o.kind = ⟨k.masked, some ⟨if 15 ≤ q.count then 15 else q.count + 1, q.detail0, q.detail1, q.time⟩⟩)

/-- R196: NOTICE_OFFER: the offer at a place among those waiting leaves the list, and each port it is routed to takes it. That
it may stand at any place among them is the model's choice (log 19). -/
def Sys2Proof.Rules.NoticeOffer : Prop :=
  ∀ (s : State) (n : Nat),
    (s.mail.offers.length ≤ n → exec (.noticeOffer n) s = .next s) ∧
    ∀ o, s.mail.offers[n]? = some o →
      ∃ t, exec (.noticeOffer n) s = .next t ∧
        t = { s with notices := t.notices, mail := { s.mail with offers := s.mail.offers.eraseIdx n } } ∧
        ∀ p, t.notices.get p = if o.ports.get p then (s.notices.get p).take o else s.notices.get p

/-- R198: a port's attention line is asserted exactly while some kind is pending and not masked. -/
def Sys2Proof.Rules.AttentionLine : Prop :=
  ∀ n : NoticeSet, attention n = true ↔ ∃ k, (n.kinds.get k).pending ≠ none ∧ (n.kinds.get k).masked = false

/-- R199: NOTICE_READ reports the first eight pending unmasked kinds in kind order and clears them in REPORT mode; the
sending port's set alone changes. -/
def Sys2Proof.Rules.NoticeReading : Prop :=
  ∀ (s : State) (p : Port), Asks s p 0x70 [] →
    let n := s.notices.get p
    let shown := (finUpTo 16).filter fun k => decide ((n.kinds.get k).pending ≠ none ∧ (n.kinds.get k).masked = false)
    let reported := shown.take 8
    let entry := fun k : Fin 16 => match (n.kinds.get k).pending with
      | some q => [byteOf (k.val + 16 * q.count), q.detail0, q.detail1] ++ bytes4 q.time.toNat
      | none => []
    let payload := [byteOf reported.length, if 8 < shown.length then 1 else 0] ++ reported.flatMap entry
    ∃ after, exec (.noticeRead p) s =
        .next { replied p .ok payload s with notices := s.notices.set p after } ∧
      after.hold = n.hold ∧ after.edge = n.edge ∧ after.clear = n.clear ∧
      ∀ k, after.kinds.get k =
        if n.clear = .report ∧ k ∈ reported then ⟨(n.kinds.get k).masked, none⟩ else n.kinds.get k

/-- R200, R201: NOTICE_ACK clears the kinds it names; NOTICE_SET replaces the masks and the options and leaves what is
pending; each on the sending port's set alone. -/
def Sys2Proof.Rules.NoticeAckAndSet : Prop :=
  ∀ (s : State) (p : Port) (b0 b1 : Byte),
    let n := s.notices.get p
    let named := fun k : Fin 16 => (b0 ++ b1).getLsbD k.val
    (Asks s p 0x71 [b0, b1] →
      ∃ after, exec (.noticeAck p) s = .next { replied p .ok [] s with notices := s.notices.set p after } ∧
        after.hold = n.hold ∧ after.edge = n.edge ∧ after.clear = n.clear ∧
        ∀ k, after.kinds.get k = if named k then ⟨(n.kinds.get k).masked, none⟩ else n.kinds.get k) ∧
    ∀ hold edge clear mode : Byte, Asks s p 0x72 [b0, b1, hold, edge, clear, mode] →
      let good := hold.toNat ≤ 1 ∧ edge.toNat ≤ 2 ∧ clear.toNat ≤ 1 ∧ mode.toNat ≤ 1
      (¬good → exec (.noticeSet p) s = .next (replied p .range [] s)) ∧
      (good →
        let portMode : PortMode := if mode.toNat = 0 then .stretch else .noStretch
        let changed := { s with ports := s.ports.modify p fun r => { r with mode := portMode } }
        ∃ after, exec (.noticeSet p) s = .next { replied p .ok [] changed with notices := s.notices.set p after } ∧
          after.hold = decide (hold.toNat = 1) ∧
          after.edge = (if edge.toNat = 0 then .rise else if edge.toNat = 1 then .fall else .both) ∧
          after.clear = (if clear.toNat = 0 then .report else .ack) ∧
          ∀ k, after.kinds.get k = ⟨named k, (n.kinds.get k).pending⟩)

/-- Conventions, Time: a tick of the house clock adds one ds, modulo 2^32, and changes nothing else. -/
def Sys2Proof.Rules.HouseClockTick : Prop :=
  ∀ s : State, exec .houseClockTick s = .next { s with clock := s.clock + 1 }

/-- R196, with the house clock of the Conventions: an offer handed to the Notice unit carries its kind, its detail, the time it was
made and the ports of its kind. When the clock, which wraps around, has reached a time, and what is left until a time, are
read as the model chooses (log 6, 17). -/
def Sys2Proof.Rules.OffersAndTimes : Prop :=
  (∀ (ports : PerPort Bool) (kind : Fin 16) (d0 d1 : Byte) (edge : Option Edge) (s : State),
    offerTo ports kind d0 d1 edge s = { s with mail := { s.mail with
      offers := s.mail.offers ++ [⟨kind, d0, d1, s.clock, ports, edge⟩] } } ∧
    offer kind d0 d1 s = offerTo ⟨true, true, true⟩ kind d0 d1 none s) ∧
  onlyPort .stage = ⟨true, false, false⟩ ∧ onlyPort .house = ⟨false, true, false⟩ ∧ onlyPort .booth = ⟨false, false, true⟩ ∧
  ∀ now t : Clock, (reached now t = true ↔ ∃ n : Nat, n < 2147483648 ∧ now = t + BitVec.ofNat 32 n) ∧
    leftUntil now t = if reached now t then 0 else (t - now).toNat

/-! ## Status requests -/

/-- R28, R32: HALL_STATUS and ZONE_STATUS report the records as they stand and change nothing. That the background target
reported is the one the zone holds since the block last mixed (log 32), and that a loop's recovery count is not among the
bytes, as the layout of Control Ports has no place for it against R82 (log 36), are the model's choices. -/
def Sys2Proof.Rules.HallAndZoneStatus : Prop :=
  ∀ (s : State) (p : Port) (b : Byte),
    (∀ h, Asks s p 0x1B [nameByte hallNames h] →
      let r := hallOf s h
      let count := fun st => (s.admission.parties.filter fun q => decide (q.hall = h ∧ q.state = st)).length
      exec (.hallStatus p) s = .next (replied p .ok
        ([nameByte phaseNames r.phase, byteOf r.position, byteOf r.order.length] ++
         (match s.admission.windows.get h with
          | none => [0x00, 0xFF]
          | some w => [if w.closing then 0x02 else 0x01, nameByte windowCauseNames w.cause]) ++
         [byteOf (s.admission.totals.get h / 256), byteOf (s.admission.totals.get h)] ++
         (match r.due with
          | none => [0xFF, 0xFF, 0xFF, 0xFF]
          | some t => bytes4 t.toNat) ++
         [byteOf (count .held), byteOf (count .admitting)]) s)) ∧
    (Asks s p 0x1B [b] → 1 < b.toNat → exec (.hallStatus p) s = .next (replied p .range [] s)) ∧
    (Asks s p 0x21 [b] → 17 < b.toNat → exec (.zoneStatus p) s = .next (replied p .range [] s)) ∧
    ∀ z : ZoneNo, Asks s p 0x21 [byteOf z.val] →
      let r := s.zoneUnit.zones.get z
      let k : List Byte × List Byte := match zoneKind z with
        | .loop l =>
          let q := s.zoneUnit.loops.get l
          ([0x00, nameByte hallNames q.settings.hall, 0xFF],
           [stepByte q.foldBack.steps, flagByte q.shut, flagByte q.openFlag, flagByte q.hushed])
        | .desc _ => ([0x01, 0xFF, 0xFF], [0xFF, 0xFF, 0xFF, 0xFF])
        | .foyer f =>
          let q := s.zoneUnit.foyers.get f
          ([0x02, 0xFF, optByte (nameCode hallNames) q.settings.quietHall], [0xFF, 0xFF, 0xFF, flagByte q.hushed])
      let entry := fun o : Overlay => [nameByte sourceNames o.source] ++
        (match o.mode with
          | .duck depth => [0x00, stepByte depth]
          | .replace => [0x01, 0x80]) ++ [byteOf o.priority] ++
        (match o.owner with
          | .call id => [0x00, byteOf id]
          | .channel c => [0x01, byteOf c.val])
      exec (.zoneStatus p) s = .next (replied p .ok
        ([byteOf z.val] ++ k.1 ++ [nameByte baseSourceNames r.baseSource, stepByte r.baseGain, stepByte r.target, stepByte r.bgStep,
          stepByte r.settings.trim] ++ k.2 ++
         (match r.lastClip with
          | none => [0xFF, 0xFF, 0xFF, 0xFF]
          | some t => bytes4 t.toNat) ++
         [byteOf r.stack.length] ++ r.stack.reverse.flatMap entry) s)

/-- R95, R154: PARTY_LIST and CALL_LIST report up to seven entries from an index on and change nothing. -/
def Obligations.PartyAndCallLists : Prop :=
  ∀ (s : State) (p : Port) (index : Byte),
    let i := index.toNat
    let flag := fun b : Bool => if b then (0x01 : Byte) else 0x00
    (Asks s p 0x34 [index] →
      let l := s.admission.parties
      let entry := fun q : Party => bytes2 (q.number + 1024 * q.entrance.val) ++ [byteOf q.size,
        byteOf ((if q.hall = .b then 1 else 0) + (if q.state = .admitting then 2 else 0) + (if q.origin = .port then 4 else 0) +
          (if q.access then 8 else 0))] ++ bytes4 q.arrived.toNat
      (63 < i → exec (.partyList p) s = .next (replied p .range [] s)) ∧
      (i ≤ 63 → exec (.partyList p) s = .next (replied p .ok
        ([byteOf l.length, index, flag (decide (i + 7 < l.length))] ++ ((l.drop i).take 7).flatMap entry) s))) ∧
    (Asks s p 0x53 [index] →
      let l := s.call.queue
      let entry := fun c : Call =>
        let state := match c.state with
          | .queued => (0, (0xFF : Byte))
          | .started r _ false => (1, nameByte sourceNames r)
          | .started r _ true => (2, nameByte sourceNames r)
        let kind := match c.content with
          | .phrases _ => 0
          | .chime _ _ => 1
          | .live _ => 2
        [byteOf c.id, byteOf (nameCode originNames c.origin + 8 * state.1), byteOf (c.priority + 8 * kind), state.2,
         optByte (nameCode hallNames) c.link] ++ bytes3 c.targets.toNat
      (15 < i → exec (.callList p) s = .next (replied p .range [] s)) ∧
      (i ≤ 15 → exec (.callList p) s = .next (replied p .ok
        ([byteOf l.length, index, flag (decide (i + 7 < l.length))] ++ ((l.drop i).take 7).flatMap entry) s)))

/-- R82, R122, R170: LEVEL_READ, KEY_STATUS and DESC_STATUS report what their units hold and change nothing. -/
def Sys2Proof.Rules.LevelKeyAndDescriptionStatus : Prop :=
  ∀ (s : State) (p : Port) (b : Byte),
    (Asks s p 0x29 [] → ∃ values : List Nat, values.length = 36 ∧
      (∀ c : Fin 6,
        let r := s.level.sound.get c
        let unlocked := (s.engine.lanes.get (if c.val < 2 then .lane0 else .lane1)).locked = false
        values[2 * c.val]? = some (r.run + (if r.state = .sound then 512 else 0) + (if unlocked then 1024 else 0)) ∧
        values[2 * c.val + 1]? = some (r.lastPeak / 4096)) ∧
      (∀ l : Fin 8,
        let r := s.level.sense.get l
        values[12 + 3 * l.val]? = some (r.lastPeak / 4096) ∧ values[13 + 3 * l.val]? = some (r.lastDrive / 4096) ∧
        values[14 + 3 * l.val]? = some (if (s.zoneUnit.loops.get l).shut then 4095 else r.openRun)) ∧
      exec (.levelRead p) s = .next (replied p .ok (packPairs values) s)) ∧
    (∀ x y rest, packPairs (x :: y :: rest) = [byteOf (x / 16), byteOf (16 * (x % 16) + y / 256), byteOf (y % 256)] ++ packPairs rest) ∧
    (Asks s p 0x42 [b] →
      let u := s.panel
      let first := b.toNat
      let shown := (finUpTo 64).filter fun k => decide (first ≤ k.val ∧ k.val < first + 16)
      let count := fun st => ((finUpTo 64).filter fun k => decide ((u.keys.get k).state = st)).length
      (63 < first → exec (.keyStatus p) s = .next (replied p .range [] s)) ∧
      (first ≤ 63 → exec (.keyStatus p) s = .next (replied p .ok
        ([b] ++ shown.flatMap (fun k => [nameByte keyStateNames (u.keys.get k).state, writeRole (u.roles.get k)]) ++
         [byteOf (count .stuck), byteOf (count .ghost), byteOf u.timings.debounce, byteOf u.timings.long] ++
         bytes2 u.timings.again ++ [byteOf u.timings.stuck]) s))) ∧
    (Asks s p 0x59 [] →
      let channel := fun c : Fin 4 =>
        let ch := channelOf s c
        writeChannelSettings ch.settings ++ [nameByte talkStateNames ch.talk] ++
          (match ch.expiry with
            | some t => bytes2 (leftUntil s.clock t)
            | none => [0xFF, 0xFF])
      let describer := fun d : Fin 4 =>
        let r := s.description.describers.get d
        [byteOf r.keys, flagByte r.latch, flagByte (decide (r.voice = .sound)), nameByte talkStateNames r.tally]
      exec (.descStatus p) s = .next (replied p .ok ((finUpTo 4).flatMap channel ++ (finUpTo 4).flatMap describer) s))

/-- Control Ports, 10.5: how fields are spelled: numbers high byte first, steps in two's complement, NONE as FFH, names by their
place in their list, a zone of a set by the bit of its number. -/
def Sys2Proof.Rules.FieldCodes : Prop :=
  (∀ n : Nat, n < 65536 → ((bytes2 n).map BitVec.toNat).foldl (fun x y => 256 * x + y) 0 = n ∧ (bytes2 n).length = 2) ∧
  (∀ n : Nat, n < 16777216 → ((bytes3 n).map BitVec.toNat).foldl (fun x y => 256 * x + y) 0 = n ∧ (bytes3 n).length = 3) ∧
  (∀ n : Nat, n < 4294967296 → ((bytes4 n).map BitVec.toNat).foldl (fun x y => 256 * x + y) 0 = n ∧ (bytes4 n).length = 4) ∧
  (∀ x : Int, -128 ≤ x → x ≤ 127 → (stepByte x).toInt = x) ∧ (∀ n : Nat, n < 256 → (byteOf n).toNat = n) ∧
  flagByte false = 0 ∧ flagByte true = 1 ∧ (∀ f : Hall → Nat, optByte f none = 0xFF ∧ ∀ h, optByte f (some h) = byteOf (f h)) ∧
  (∀ (z : ZoneNo) (zones : ZoneSet), zoneIn z zones = zones.getLsbD z.val) ∧
  [Hall.a, .b].map (nameByte hallNames) = [0, 1] ∧
  [Phase.dark, .opened, .playing, .gap, .onBreak, .interval, .ended].map (nameByte phaseNames) = [0, 1, 2, 3, 4, 5, 6] ∧
  [WindowCause.brk, .gap, .interval, .manual].map (nameByte windowCauseNames) = [0, 1, 2, 3] ∧
  [BaseSource.hallA, .hallB, .relayA, .relayB, .aux, .silence].map (nameByte baseSourceNames) = [0, 1, 2, 3, 4, 5] ∧
  [Source.player 0, .player 1, .player 2, .chime, .mic 0, .mic 1, .desc 0, .desc 1, .desc 2, .desc 3].map
    (nameByte sourceNames) = [0, 1, 2, 3, 4, 5, 6, 7, 8, 9] ∧
  [Origin.stage, .house, .booth, .plan, .admission].map (nameByte originNames) = [0, 1, 2, 3, 4] ∧
  [CallOutcome.done, .cancelled, .expired, .displaced, .timeout].map (nameByte outcomeNames) = [0, 1, 2, 3, 4] ∧
  [PartyState.held, .admitting].map (nameByte partyStateNames) = [0, 1] ∧
  [TalkState.off, .idle, .wait, .live, .grace, .cut, .muted].map (nameByte talkStateNames) = [0, 1, 2, 3, 4, 5, 6] ∧
  [KeyState.up, .arming, .down, .longHeld, .stuck, .ghost].map (nameByte keyStateNames) = [0, 1, 2, 3, 4, 5] ∧
  [KeyEvent.press, .long, .again, .release, .stuck].map (nameByte keyEventNames) = [0, 1, 2, 3, 4] ∧
  patternNames = [.off, .dim, .full, .slow, .fast]

/-! ## What every step keeps -/

/-- R38: no step leaves a stack with more than three entries, with priorities that do not fall from the top, or with two
entries of one owner. -/
def Sys2Proof.Rules.StacksKept : Prop := ∀ s t : State, StacksLaw s → step s = .next t → StacksLaw t

/-- R130: every step keeps the call queue at 16 calls at most, of distinct ids, in order of priority. -/
def Obligations.QueueKept : Prop := ∀ s t : State, QueueLaw s.call → step s = .next t → QueueLaw t.call

/-- R88, R96, R105: every step keeps the law of the latecomer list and its windows. -/
def Sys2Proof.Rules.WaitingKept : Prop :=
  ∀ s t : State, WaitingLaw s.admission → step s = .next t → WaitingLaw t.admission

/-- R7, R86: every step keeps the phase events that wait for the Admission unit in line with its view and the halls' phases. -/
def Sys2Proof.Rules.PhaseChainKept : Prop := ∀ s t : State, PhaseLaw s → step s = .next t → PhaseLaw t

/-- R96, R99, R105: every step keeps the order of the ADMITTING parties, the quota, and the law of INTERVAL windows, in a state
in which the laws of the list and of the phase events hold. -/
def Sys2Proof.Rules.AdmittingKept : Prop :=
  ∀ s t : State, WaitingLaw s.admission → PhaseLaw s → AdmittingLaw s.admission → step s = .next t → AdmittingLaw t.admission

/-- R174: every step keeps the law of the open store. -/
def Sys2Proof.Rules.StoreLawKept : Prop := ∀ s t : State, StoreLaw s → step s = .next t → StoreLaw t

/-- R155: every step keeps the law of the description channels and their overlays. -/
def Sys2Proof.Rules.ChannelsKept : Prop :=
  ∀ s t : State, StacksLaw s → (∀ c, ChannelLaw s c) → step s = .next t → ∀ c, ChannelLaw t c

/-- R171, R187: every step keeps the flash in its canonical form and the transaction record of each port. -/
def Sys2Proof.Rules.FlashAndPortsKept : Prop :=
  (∀ s t : State, FlashLaw s → step s = .next t → FlashLaw t) ∧
  (∀ s t : State, (∀ p, PortLaw (s.ports.get p)) → step s = .next t → ∀ p, PortLaw (t.ports.get p))

/-- R59, R62: every step keeps the samples within full scale and the duties within the PWM period. -/
def Obligations.OutputKept : Prop := ∀ s t : State, OutputLaw s → step s = .next t → OutputLaw t

/-! ## The statements that gather several of the rules above -/

/-- Every command answers a next state and leaves the queue; an empty queue idles (log 1): EveryCommandAnswersNext;
CommandsLeaveQueue; EmptyQueueIdles. -/
def Obligations.StepsNeverStop : Prop :=
  Rules.EveryCommandAnswersNext ∧ Rules.CommandsLeaveQueue ∧ Rules.EmptyQueueIdles

/-- The state after reset: every law holds, every unit at the values its rules give, the settings the factory defaults:
ResetIsSafe; ResetValues; FactoryDefaults. -/
def Obligations.StateAfterReset : Prop :=
  Rules.ResetIsSafe ∧ Rules.ResetValues ∧ Rules.FactoryDefaults

/-- ORDER_PUT and ORDER_APPEND: tests in order, the segment records, and the order they leave: OrderPut; OrderAppend;
SegmentRecords. -/
def Obligations.OrderPutAndAppend : Prop :=
  Rules.OrderPut ∧ Rules.OrderAppend ∧ Rules.SegmentRecords

/-- HALL_OPEN, the check of the running order, and the steps due at once; the order of what it hands on is the model's
choice (log 18): HallOpen; RunningOrderCheck; FireAtOnce. -/
def Obligations.HallOpenAndItsCheck : Prop :=
  Rules.HallOpen ∧ Rules.RunningOrderCheck ∧ Rules.FireAtOnce

/-- SEG_START, the steps due at once, and SEG_END; the order of what they hand to the Call unit is the model's choice
(log 18): SegStart; SegEnd; FireAtOnce; OrdersToTheCallUnit. -/
def Obligations.SegStartAndEnd : Prop :=
  Rules.SegStart ∧ Rules.SegEnd ∧ Rules.FireAtOnce ∧ Rules.OrdersToTheCallUnit

/-- GAP_MARK, GAP_END and the level events of a hall (a SOUND event handed before the lane was lost: log 31):
GapMarkAndEnd; HallLevelEvents. -/
def Obligations.GapsAndHallLevels : Prop :=
  Rules.GapMarkAndEnd ∧ Rules.HallLevelEvents

/-- Call plans: scheduling, firing, INTERVAL_DUE, PLAN_PUT and HALL_SET with their records and refusals (log 12):
PlanSchedule; PlanStepAndIntervalDue; PlanPutAndHallSet; PlanPutAndHallSetRefused; PlanStepAndHallRecords. -/
def Obligations.CallPlans : Prop :=
  Rules.PlanSchedule ∧ Rules.PlanStepAndIntervalDue ∧ Rules.PlanPutAndHallSet ∧ Rules.PlanPutAndHallSetRefused ∧ Rules.PlanStepAndHallRecords

/-- The bases of description and foyer zones: DescriptionBase; RelayAndChannelChange. -/
def Obligations.BasesOfZones : Prop :=
  Rules.DescriptionBase ∧ Rules.RelayAndChannelChange

/-- Pushes are all or nothing; removals take the owner's entries: PushIsAllOrNothing; RemovalTakesOwnersEntries. -/
def Obligations.PushesAndRemovals : Prop :=
  Rules.PushIsAllOrNothing ∧ Rules.RemovalTakesOwnersEntries

/-- Over-current, recovery, open loops, a SHUT loop's open flag, and LOOP_RESET: OverCurrentFoldsBack;
LoopRecoveryOpenAndReset. -/
def Obligations.LoopProtection : Prop :=
  Rules.OverCurrentFoldsBack ∧ Rules.LoopRecoveryOpenAndReset

/-- ZONE_SET and LEVEL_SET: their tests, the DARK test, their records, and what they leave: ZoneSetRequest; ZoneRecords;
ServedHallsDark; LevelSetRequest; LevelRecords. -/
def Obligations.ZoneAndLevelSettings : Prop :=
  Rules.ZoneSetRequest ∧ Rules.ZoneRecords ∧ Rules.ServedHallsDark ∧ Rules.LevelSetRequest ∧ Rules.LevelRecords

/-- An input frame: the lane's lock, and what the level monitor sees of it (the model's choice: log 14): InputFrame;
FrameReachesLevelMonitor. -/
def Obligations.InputFrames : Prop :=
  Rules.InputFrame ∧ Rules.FrameReachesLevelMonitor

/-- The fixed tables of coefficients and thresholds: CoefficientTable; ThresholdTable. -/
def Obligations.GainTables : Prop :=
  Rules.CoefficientTable ∧ Rules.ThresholdTable

/-- The arithmetic of the mix: steps, target, accumulator, rounding, saturation, duty: MixArithmetic; BackgroundTarget. -/
def Obligations.MixArithmetic : Prop :=
  Rules.MixArithmetic ∧ Rules.BackgroundTarget

/-- A block's samples from their sources to the zones, its resources and duties, and what the outputs carry (model's
choices: log 8, 13, 26, 37): MixBlockOutputs; SourceSamples; ForegroundStepsAndChimes; MixBlockSends;
MixBlockResources; PlayerAndChimeSamples; OutputsCarry. -/
def Obligations.MixBlockOutputs : Prop :=
  Rules.MixBlockOutputs ∧ Rules.SourceSamples ∧ Rules.ForegroundStepsAndChimes ∧ Rules.MixBlockSends ∧ Rules.MixBlockResources ∧ Rules.PlayerAndChimeSamples ∧ Rules.OutputsCarry

/-- The targets, background ramps and clips of a block (offers' order: log 41), RAMP_STEP, what a block settles first
(log 8), and holding: BlockStart; MixBlockRamps; RampStep; MixBlockClips; MixBlockSettles; HoldAndResume. -/
def Obligations.Ramps : Prop :=
  Rules.BlockStart ∧ Rules.MixBlockRamps ∧ Rules.RampStep ∧ Rules.MixBlockClips ∧ Rules.MixBlockSettles ∧ Rules.HoldAndResume

/-- A block's peaks and the end of a period (events' order: log 33; sound peaks, the period's mark: log 14; sense
samples: log 13; a recovery left due: log 8): MixBlockPeaks; LevelPeriodSoundChannels; LevelPeriodSenseChannels. -/
def Obligations.LevelPeriods : Prop :=
  Rules.MixBlockPeaks ∧ Rules.LevelPeriodSoundChannels ∧ Rules.LevelPeriodSenseChannels

/-- CALL_SUBMIT: the form and its tests (log 22), the tests of port and state, and the call taken (a CHIME's repeat: log
28): CallForms; CallSubmit. -/
def Obligations.CallSubmit : Prop :=
  Rules.CallForms ∧ Rules.CallSubmit

/-- A pass and a call's start; OVERLAY_PUSH and OVERLAY_REMOVAL, and when no unit sends them (log 9): SchedulingPass;
CallResources; CallStart; OverlayPushAndRemoval; ContentEnds. -/
def Obligations.CallsStartAndOverlays : Prop :=
  Rules.SchedulingPass ∧ Rules.CallResources ∧ Rules.CallStart ∧ Rules.OverlayPushAndRemoval ∧ Rules.ContentEnds

/-- How calls end: ending, CALL_CANCEL, LIVE_END, expiry and timeout: CallEnding; CallCancelAndLiveEnd;
CallExpiryAndTimeout. -/
def Obligations.CallsEnd : Prop :=
  Rules.CallEnding ∧ Rules.CallCancelAndLiveEnd ∧ Rules.CallExpiryAndTimeout

/-- Phase events, cancellations (QUEUED PLAN calls' order: log 41), stack reports and hush changes at the Call unit:
CallPhaseAndCancels; CallStackReport. -/
def Obligations.CallEvents : Prop :=
  Rules.CallPhaseAndCancels ∧ Rules.CallStackReport

/-- A submission of the Programme or the Admission unit, the call it becomes (log 17), the notice of a drop, and the
answer it is given: UnitCallSubmission; SubmittedCall; CallTakenIn. -/
def Obligations.UnitCallSubmission : Prop :=
  Rules.UnitCallSubmission ∧ Rules.SubmittedCall ∧ Rules.CallTakenIn

/-- A channel's talk request, when talk is allowed, and one evaluation of a channel: TalkRequestAndWithdrawal;
TalkAllowed; TalkStateMachine. -/
def Obligations.TalkStateMachine : Prop :=
  Rules.TalkRequestAndWithdrawal ∧ Rules.TalkAllowed ∧ Rules.TalkStateMachine

/-- Entering a talk state: record, notice and tallies (their order: log 41): TalkStateEntry; TallyState. -/
def Obligations.TalkStateEntry : Prop :=
  Rules.TalkStateEntry ∧ Rules.TallyState

/-- What makes the Description unit evaluate, and a talk request (the channels' order on a stack report: log 35):
DescriptionEvents; TalkRequestAndWithdrawal. -/
def Obligations.DescriptionEvents : Prop :=
  Rules.DescriptionEvents ∧ Rules.TalkRequestAndWithdrawal

/-- DESC_SET: its tests in order, the DARK test, its record, what it replaces and what it hands (tallies' order: log
41): DescSet; ChannelRecords. -/
def Obligations.DescSet : Prop :=
  Rules.DescSet ∧ Rules.ChannelRecords

/-- A change to the list works out relay requests (their order: log 38) and lamps (theirs: log 40; an entrance without
one: log 39): LampsWorkedOut; ListChangeWorksRelaysAndLamps. -/
def Obligations.ListChangeWorksRelaysAndLamps : Prop :=
  Rules.LampsWorkedOut ∧ Rules.ListChangeWorksRelaysAndLamps

/-- A window opens, closes and is re-timed (when CLOSING is offered: log 29): WindowOpens; WindowCloses; WindowRetimes. -/
def Obligations.Windows : Prop :=
  Rules.WindowOpens ∧ Rules.WindowCloses ∧ Rules.WindowRetimes

/-- The Admission unit on a phase event (parties discarded in list order: log 34), and a party discarded:
AdmissionPhaseEvent; PartyDiscarded. -/
def Obligations.AdmissionPhaseEvent : Prop :=
  Rules.AdmissionPhaseEvent ∧ Rules.PartyDiscarded

/-- Warn point, deadline, ADMIT_NOW, ADMIT_EXTEND and ADMIT_CLOSE, and the notices (when CLOSING is offered: log 29):
WindowRequests; AdmissionNotices. -/
def Obligations.WindowRequests : Prop :=
  Rules.WindowRequests ∧ Rules.AdmissionNotices

/-- PARTY_ADD (an access byte that is no code: log 22), PARTY_REMOVE, PARTY_MOVE; joining, discarding, and the selection
pass with its walk: PartyRequests; PartyJoins; PartyDiscarded; SelectionPass; SelectionStopsAtFirstMisfit. -/
def Obligations.Parties : Prop :=
  Rules.PartyRequests ∧ Rules.PartyJoins ∧ Rules.PartyDiscarded ∧ Rules.SelectionPass ∧ Rules.SelectionStopsAtFirstMisfit

/-- The entrance keys (a LONG of REMOVE in list order: log 34), a seated and a discarded party, the pass that follows,
the notices (log 29): EntranceKeys; SeatedPartyIsCounted; PartyDiscarded; SelectionPass; AdmissionNotices. -/
def Obligations.EntranceKeys : Prop :=
  Rules.EntranceKeys ∧ Rules.SeatedPartyIsCounted ∧ Rules.PartyDiscarded ∧ Rules.SelectionPass ∧ Rules.AdmissionNotices

/-- DOOR_SET: its tests, the DARK test, its record (log 22), lamps handed (log 39); and USHER_CLEAR:
DoorSetAndUsherClear; DoorRecords. -/
def Obligations.DoorSetAndUsherClear : Prop :=
  Rules.DoorSetAndUsherClear ∧ Rules.DoorRecords

/-- A sweep of the key matrix and the ghost keys (a release before what else falls due: log 15; what the sweep before
left due: log 8): SweepOfAKey; KeyScanSweep; GhostKeys. -/
def Obligations.KeyScan : Prop :=
  Rules.SweepOfAKey ∧ Rules.KeyScanSweep ∧ Rules.GhostKeys

/-- Key events and who hears of them: KeyEvents; KeyDelivery. -/
def Obligations.KeyEvents : Prop :=
  Rules.KeyEvents ∧ Rules.KeyDelivery

/-- SCAN_SET, KEYMAP_SET (its length: log 30; RELEASEs' order: log 41) with their records (log 22), and LAMP_TEST:
PanelRequests; PanelRecords. -/
def Obligations.PanelRequests : Prop :=
  Rules.PanelRequests ∧ Rules.PanelRecords

/-- Lamp patterns, outputs (log 26), frames (CUT's sixteen: log 24), offers and ends: LampPatterns; LampFrame;
LampOffersAndEnds. -/
def Obligations.Lamps : Prop :=
  Rules.LampPatterns ∧ Rules.LampFrame ∧ Rules.LampOffersAndEnds

/-- The store requests, SETTINGS_SAVE, RESTART and PART_INFO (the order of their refusals: log 30): StoreRequests;
SettingsSaving; RestartAndIdentity; StoreStates. -/
def Obligations.StoreRequests : Prop :=
  Rules.StoreRequests ∧ Rules.SettingsSaving ∧ Rules.RestartAndIdentity ∧ Rules.StoreStates

/-- Programming, erasing (log 21), saving the settings of the moment, reading (BUSY first: log 30; during a save: log 5)
and the directory: ProgramCompletion; EraseCompletion; CurrentSettings; ImageLayout; SavedImageReadsBack;
StoreReading; DirectoryEntries. -/
def Obligations.FlashOperations : Prop :=
  Rules.ProgramCompletion ∧ Rules.EraseCompletion ∧ Rules.CurrentSettings ∧ Rules.ImageLayout ∧ Rules.SavedImageReadsBack ∧ Rules.StoreReading ∧ Rules.DirectoryEntries

/-- Start-up (in one command: log 11; the queue stays: log 1), defaults, the image's tests, CRC, reading and read-back,
cut operations: StartUp; FactoryDefaults; ImageTests; ImageCrc; SettingsRead; ImageReadsBack; CutOperations. -/
def Obligations.StartUpAndImage : Prop :=
  Rules.StartUp ∧ Rules.FactoryDefaults ∧ Rules.ImageTests ∧ Rules.ImageCrc ∧ Rules.SettingsRead ∧ Rules.ImageReadsBack ∧ Rules.CutOperations

/-- A write transaction: its start (a START elsewhere ends it: log 20), its end, the request table and the timeout:
WriteStart; EndOfWrite; Router; WriteEndAndTimeout. -/
def Obligations.PortWrites : Prop :=
  Rules.WriteStart ∧ Rules.EndOfWrite ∧ Rules.Router ∧ Rules.WriteEndAndTimeout

/-- Reads (a START elsewhere ends a write: log 20), the stretch limit, answers and status codes: Reads; AnswerTaken;
StatusCodes. -/
def Obligations.PortReadsAndReplies : Prop :=
  Rules.Reads ∧ Rules.AnswerTaken ∧ Rules.StatusCodes

/-- What an offer carries and the times it counts in (log 6, 17); a port's set takes it (any place: log 19); the
attention line; the house clock's tick: SetTakesOffer; NoticeOffer; AttentionLine; HouseClockTick; OffersAndTimes. -/
def Obligations.NoticesAreTaken : Prop :=
  Rules.SetTakesOffer ∧ Rules.NoticeOffer ∧ Rules.AttentionLine ∧ Rules.HouseClockTick ∧ Rules.OffersAndTimes

/-- NOTICE_READ, NOTICE_ACK and NOTICE_SET: NoticeReading; NoticeAckAndSet. -/
def Obligations.NoticeRequests : Prop :=
  Rules.NoticeReading ∧ Rules.NoticeAckAndSet

/-- HALL_STATUS, ZONE_STATUS (its target: log 32; no recovery count: log 36), LEVEL_READ, KEY_STATUS, DESC_STATUS and
their field codes: HallAndZoneStatus; LevelKeyAndDescriptionStatus; FieldCodes. -/
def Obligations.StatusRequests : Prop :=
  Rules.HallAndZoneStatus ∧ Rules.LevelKeyAndDescriptionStatus ∧ Rules.FieldCodes

/-- Every step keeps the law of the stacks and of the description channels: StacksKept; ChannelsKept. -/
def Obligations.StacksAndChannelsKept : Prop :=
  Rules.StacksKept ∧ Rules.ChannelsKept

/-- Every step keeps the laws of the latecomer list, of its windows and quotas, and of the phase events: WaitingKept;
PhaseChainKept; AdmittingKept. -/
def Obligations.WaitingKept : Prop :=
  Rules.WaitingKept ∧ Rules.PhaseChainKept ∧ Rules.AdmittingKept

/-- Every step keeps the law of the open store, the flash's form, the settings within their ranges, and the port
records: StoreLawKept; FlashAndPortsKept; SettingsKept. -/
def Obligations.StoreFlashAndPortsKept : Prop :=
  Rules.StoreLawKept ∧ Rules.FlashAndPortsKept ∧ Rules.SettingsKept
end

