-- ==== Sys2Proof/Laws/State.lean ====
section
/-! SUPPORT. The fields of a state after each named update: one lemma for each field, so that no proof unfolds an
update of the whole record; and the records of halls, ports, lanes and tables after theirs. -/

namespace Sys2Proof

namespace Table
variable {α β : Type} {n : Nat}

@[simp] theorem get_set_self (t : Table α n) (i : Fin n) (a : α) : (t.set i a).get i = a := by simp [get, set]

theorem get_set_ne (t : Table α n) {i j : Fin n} (a : α) (h : i ≠ j) : (t.set i a).get j = t.get j := by
  simp only [get, set]
  exact List.getElem_set_ne (fun e => h (Fin.ext e)) _

@[simp] theorem get_modify_self (t : Table α n) (i : Fin n) (f : α → α) : (t.modify i f).get i = f (t.get i) := by simp [modify]

theorem get_modify_ne (t : Table α n) {i j : Fin n} (f : α → α) (h : i ≠ j) : (t.modify i f).get j = t.get j := get_set_ne t _ h

@[simp] theorem get_map (t : Table α n) (f : α → β) (i : Fin n) : (t.map f).get i = f (t.get i) := by simp [get, map]

theorem finUpTo_get (n : Nat) (i : Nat) (h : i < (finUpTo n).length) : (finUpTo n)[i] = ⟨i, by rw [finUpTo_length] at h; exact h⟩ := by
  induction n generalizing i with
  | zero => simp [finUpTo] at h
  | succ n ih =>
    cases i with
    | zero => rfl
    | succ i =>
      simp only [finUpTo, List.getElem_cons_succ, List.getElem_map]
      rw [ih i (by simpa [finUpTo] using h)]
      rfl

@[simp] theorem get_ofFn (f : Fin n → α) (i : Fin n) : (ofFn f).get i = f i := by
  simp [get, ofFn, finUpTo_get]

@[simp] theorem get_mapIdx (t : Table α n) (f : Fin n → α → β) (i : Fin n) : (t.mapIdx f).get i = f i (t.get i) := by
  simp [get, mapIdx, finUpTo_get]

@[simp] theorem get_fill (a : α) (i : Fin n) : (fill n a).get i = a := by simp [get, fill]

theorem ext {t u : Table α n} (h : ∀ i, t.get i = u.get i) : t = u := by
  obtain ⟨l, hl⟩ := t
  obtain ⟨m, hm⟩ := u
  have : l = m := List.ext_getElem (hl.trans hm.symm) fun i h1 _ => h ⟨i, hl ▸ h1⟩
  subst this
  rfl

theorem mem_finUpTo (i : Fin n) : i ∈ finUpTo n :=
  List.mem_iff_getElem.mpr ⟨i.val, by rw [finUpTo_length]; exact i.isLt, finUpTo_get n i.val _⟩

end Table

namespace Machine

@[simp] theorem PerHall.get_set_self {α : Type} (t : PerHall α) (h : Hall) (x : α) : (t.set h x).get h = x := by cases h <;> rfl

theorem PerHall.get_set_ne {α : Type} (t : PerHall α) {h k : Hall} (x : α) (e : h ≠ k) : (t.set h x).get k = t.get k := by
  cases h <;> cases k <;> first | rfl | exact absurd rfl e

@[simp] theorem PerPort.get_set_self {α : Type} (t : PerPort α) (p : Port) (x : α) : (t.set p x).get p = x := by cases p <;> rfl

theorem PerPort.get_set_ne {α : Type} (t : PerPort α) {p q : Port} (x : α) (e : p ≠ q) : (t.set p x).get q = t.get q := by
  cases p <;> cases q <;> first | rfl | exact absurd rfl e

@[simp] theorem PerPort.get_modify_self {α : Type} (t : PerPort α) (p : Port) (f : α → α) : (t.modify p f).get p = f (t.get p) := by
  simp [PerPort.modify]

theorem PerPort.get_modify_ne {α : Type} (t : PerPort α) {p q : Port} (f : α → α) (e : p ≠ q) : (t.modify p f).get q = t.get q :=
  PerPort.get_set_ne t _ e

@[simp] theorem PerLane.get_set_self {α : Type} (t : PerLane α) (l : Lane) (x : α) : (t.set l x).get l = x := by cases l <;> rfl

theorem PerLane.get_set_ne {α : Type} (t : PerLane α) {l k : Lane} (x : α) (e : l ≠ k) : (t.set l x).get k = t.get k := by
  cases l <;> cases k <;> first | rfl | exact absurd rfl e


@[simp] theorem setPort_clock (p : Port) (r : PortRecord) (s : State) : (setPort p r s).clock = s.clock := rfl
@[simp] theorem setPort_straps (p : Port) (r : PortRecord) (s : State) : (setPort p r s).straps = s.straps := rfl
@[simp] theorem setPort_programme (p : Port) (r : PortRecord) (s : State) : (setPort p r s).programme = s.programme := rfl
@[simp] theorem setPort_zoneUnit (p : Port) (r : PortRecord) (s : State) : (setPort p r s).zoneUnit = s.zoneUnit := rfl
@[simp] theorem setPort_engine (p : Port) (r : PortRecord) (s : State) : (setPort p r s).engine = s.engine := rfl
@[simp] theorem setPort_level (p : Port) (r : PortRecord) (s : State) : (setPort p r s).level = s.level := rfl
@[simp] theorem setPort_admission (p : Port) (r : PortRecord) (s : State) : (setPort p r s).admission = s.admission := rfl
@[simp] theorem setPort_call (p : Port) (r : PortRecord) (s : State) : (setPort p r s).call = s.call := rfl
@[simp] theorem setPort_description (p : Port) (r : PortRecord) (s : State) : (setPort p r s).description = s.description := rfl
@[simp] theorem setPort_panel (p : Port) (r : PortRecord) (s : State) : (setPort p r s).panel = s.panel := rfl
@[simp] theorem setPort_store (p : Port) (r : PortRecord) (s : State) : (setPort p r s).store = s.store := rfl
@[simp] theorem setPort_ports (p : Port) (r : PortRecord) (s : State) : (setPort p r s).ports = s.ports.set p r := rfl
@[simp] theorem setPort_notices (p : Port) (r : PortRecord) (s : State) : (setPort p r s).notices = s.notices := rfl
@[simp] theorem setPort_mail (p : Port) (r : PortRecord) (s : State) : (setPort p r s).mail = s.mail := rfl
@[simp] theorem setPort_draws (p : Port) (r : PortRecord) (s : State) : (setPort p r s).draws = s.draws := rfl
@[simp] theorem setPort_pending (p : Port) (r : PortRecord) (s : State) : (setPort p r s).pending = s.pending := rfl

@[simp] theorem setNotices_clock (p : Port) (n : NoticeSet) (s : State) : (setNotices p n s).clock = s.clock := rfl
@[simp] theorem setNotices_straps (p : Port) (n : NoticeSet) (s : State) : (setNotices p n s).straps = s.straps := rfl
@[simp] theorem setNotices_programme (p : Port) (n : NoticeSet) (s : State) : (setNotices p n s).programme = s.programme := rfl
@[simp] theorem setNotices_zoneUnit (p : Port) (n : NoticeSet) (s : State) : (setNotices p n s).zoneUnit = s.zoneUnit := rfl
@[simp] theorem setNotices_engine (p : Port) (n : NoticeSet) (s : State) : (setNotices p n s).engine = s.engine := rfl
@[simp] theorem setNotices_level (p : Port) (n : NoticeSet) (s : State) : (setNotices p n s).level = s.level := rfl
@[simp] theorem setNotices_admission (p : Port) (n : NoticeSet) (s : State) : (setNotices p n s).admission = s.admission := rfl
@[simp] theorem setNotices_call (p : Port) (n : NoticeSet) (s : State) : (setNotices p n s).call = s.call := rfl
@[simp] theorem setNotices_description (p : Port) (n : NoticeSet) (s : State) : (setNotices p n s).description = s.description := rfl
@[simp] theorem setNotices_panel (p : Port) (n : NoticeSet) (s : State) : (setNotices p n s).panel = s.panel := rfl
@[simp] theorem setNotices_store (p : Port) (n : NoticeSet) (s : State) : (setNotices p n s).store = s.store := rfl
@[simp] theorem setNotices_ports (p : Port) (n : NoticeSet) (s : State) : (setNotices p n s).ports = s.ports := rfl
@[simp] theorem setNotices_notices (p : Port) (n : NoticeSet) (s : State) : (setNotices p n s).notices = s.notices.set p n := rfl
@[simp] theorem setNotices_mail (p : Port) (n : NoticeSet) (s : State) : (setNotices p n s).mail = s.mail := rfl
@[simp] theorem setNotices_draws (p : Port) (n : NoticeSet) (s : State) : (setNotices p n s).draws = s.draws := rfl
@[simp] theorem setNotices_pending (p : Port) (n : NoticeSet) (s : State) : (setNotices p n s).pending = s.pending := rfl

@[simp] theorem withoutRequest_clock (p : Port) (s : State) : (withoutRequest p s).clock = s.clock := rfl
@[simp] theorem withoutRequest_straps (p : Port) (s : State) : (withoutRequest p s).straps = s.straps := rfl
@[simp] theorem withoutRequest_programme (p : Port) (s : State) : (withoutRequest p s).programme = s.programme := rfl
@[simp] theorem withoutRequest_zoneUnit (p : Port) (s : State) : (withoutRequest p s).zoneUnit = s.zoneUnit := rfl
@[simp] theorem withoutRequest_engine (p : Port) (s : State) : (withoutRequest p s).engine = s.engine := rfl
@[simp] theorem withoutRequest_level (p : Port) (s : State) : (withoutRequest p s).level = s.level := rfl
@[simp] theorem withoutRequest_admission (p : Port) (s : State) : (withoutRequest p s).admission = s.admission := rfl
@[simp] theorem withoutRequest_call (p : Port) (s : State) : (withoutRequest p s).call = s.call := rfl
@[simp] theorem withoutRequest_description (p : Port) (s : State) : (withoutRequest p s).description = s.description := rfl
@[simp] theorem withoutRequest_panel (p : Port) (s : State) : (withoutRequest p s).panel = s.panel := rfl
@[simp] theorem withoutRequest_store (p : Port) (s : State) : (withoutRequest p s).store = s.store := rfl
@[simp] theorem withoutRequest_notices (p : Port) (s : State) : (withoutRequest p s).notices = s.notices := rfl
@[simp] theorem withoutRequest_mail (p : Port) (s : State) : (withoutRequest p s).mail = s.mail := rfl
@[simp] theorem withoutRequest_draws (p : Port) (s : State) : (withoutRequest p s).draws = s.draws := rfl
@[simp] theorem withoutRequest_pending (p : Port) (s : State) : (withoutRequest p s).pending = s.pending := rfl

@[simp] theorem answer_clock (p : Port) (st : Status) (pl : List Byte) (s : State) : (answer p st pl s).clock = s.clock := rfl
@[simp] theorem answer_straps (p : Port) (st : Status) (pl : List Byte) (s : State) : (answer p st pl s).straps = s.straps := rfl
@[simp] theorem answer_programme (p : Port) (st : Status) (pl : List Byte) (s : State) : (answer p st pl s).programme = s.programme := rfl
@[simp] theorem answer_zoneUnit (p : Port) (st : Status) (pl : List Byte) (s : State) : (answer p st pl s).zoneUnit = s.zoneUnit := rfl
@[simp] theorem answer_engine (p : Port) (st : Status) (pl : List Byte) (s : State) : (answer p st pl s).engine = s.engine := rfl
@[simp] theorem answer_level (p : Port) (st : Status) (pl : List Byte) (s : State) : (answer p st pl s).level = s.level := rfl
@[simp] theorem answer_admission (p : Port) (st : Status) (pl : List Byte) (s : State) : (answer p st pl s).admission = s.admission := rfl
@[simp] theorem answer_call (p : Port) (st : Status) (pl : List Byte) (s : State) : (answer p st pl s).call = s.call := rfl
@[simp] theorem answer_description (p : Port) (st : Status) (pl : List Byte) (s : State) : (answer p st pl s).description = s.description := rfl
@[simp] theorem answer_panel (p : Port) (st : Status) (pl : List Byte) (s : State) : (answer p st pl s).panel = s.panel := rfl
@[simp] theorem answer_store (p : Port) (st : Status) (pl : List Byte) (s : State) : (answer p st pl s).store = s.store := rfl
@[simp] theorem answer_notices (p : Port) (st : Status) (pl : List Byte) (s : State) : (answer p st pl s).notices = s.notices := rfl
@[simp] theorem answer_mail (p : Port) (st : Status) (pl : List Byte) (s : State) : (answer p st pl s).mail = s.mail := rfl
@[simp] theorem answer_draws (p : Port) (st : Status) (pl : List Byte) (s : State) : (answer p st pl s).draws = s.draws := rfl
@[simp] theorem answer_pending (p : Port) (st : Status) (pl : List Byte) (s : State) : (answer p st pl s).pending = s.pending := rfl

@[simp] theorem offerTo_clock (ps : PerPort Bool) (k : Fin 16) (a b : Byte) (e : Option Edge) (s : State) : (offerTo ps k a b e s).clock = s.clock := rfl
@[simp] theorem offerTo_straps (ps : PerPort Bool) (k : Fin 16) (a b : Byte) (e : Option Edge) (s : State) : (offerTo ps k a b e s).straps = s.straps := rfl
@[simp] theorem offerTo_programme (ps : PerPort Bool) (k : Fin 16) (a b : Byte) (e : Option Edge) (s : State) : (offerTo ps k a b e s).programme = s.programme := rfl
@[simp] theorem offerTo_zoneUnit (ps : PerPort Bool) (k : Fin 16) (a b : Byte) (e : Option Edge) (s : State) : (offerTo ps k a b e s).zoneUnit = s.zoneUnit := rfl
@[simp] theorem offerTo_engine (ps : PerPort Bool) (k : Fin 16) (a b : Byte) (e : Option Edge) (s : State) : (offerTo ps k a b e s).engine = s.engine := rfl
@[simp] theorem offerTo_level (ps : PerPort Bool) (k : Fin 16) (a b : Byte) (e : Option Edge) (s : State) : (offerTo ps k a b e s).level = s.level := rfl
@[simp] theorem offerTo_admission (ps : PerPort Bool) (k : Fin 16) (a b : Byte) (e : Option Edge) (s : State) : (offerTo ps k a b e s).admission = s.admission := rfl
@[simp] theorem offerTo_call (ps : PerPort Bool) (k : Fin 16) (a b : Byte) (e : Option Edge) (s : State) : (offerTo ps k a b e s).call = s.call := rfl
@[simp] theorem offerTo_description (ps : PerPort Bool) (k : Fin 16) (a b : Byte) (e : Option Edge) (s : State) : (offerTo ps k a b e s).description = s.description := rfl
@[simp] theorem offerTo_panel (ps : PerPort Bool) (k : Fin 16) (a b : Byte) (e : Option Edge) (s : State) : (offerTo ps k a b e s).panel = s.panel := rfl
@[simp] theorem offerTo_store (ps : PerPort Bool) (k : Fin 16) (a b : Byte) (e : Option Edge) (s : State) : (offerTo ps k a b e s).store = s.store := rfl
@[simp] theorem offerTo_ports (ps : PerPort Bool) (k : Fin 16) (a b : Byte) (e : Option Edge) (s : State) : (offerTo ps k a b e s).ports = s.ports := rfl
@[simp] theorem offerTo_notices (ps : PerPort Bool) (k : Fin 16) (a b : Byte) (e : Option Edge) (s : State) : (offerTo ps k a b e s).notices = s.notices := rfl
@[simp] theorem offerTo_mail (ps : PerPort Bool) (k : Fin 16) (a b : Byte) (e : Option Edge) (s : State) : (offerTo ps k a b e s).mail = { s.mail with offers := s.mail.offers ++ [⟨k, a, b, s.clock, ps, e⟩] } := rfl
@[simp] theorem offerTo_draws (ps : PerPort Bool) (k : Fin 16) (a b : Byte) (e : Option Edge) (s : State) : (offerTo ps k a b e s).draws = s.draws := rfl
@[simp] theorem offerTo_pending (ps : PerPort Bool) (k : Fin 16) (a b : Byte) (e : Option Edge) (s : State) : (offerTo ps k a b e s).pending = s.pending := rfl

@[simp] theorem offer_clock (k : Fin 16) (a b : Byte) (s : State) : (offer k a b s).clock = s.clock := rfl
@[simp] theorem offer_straps (k : Fin 16) (a b : Byte) (s : State) : (offer k a b s).straps = s.straps := rfl
@[simp] theorem offer_programme (k : Fin 16) (a b : Byte) (s : State) : (offer k a b s).programme = s.programme := rfl
@[simp] theorem offer_zoneUnit (k : Fin 16) (a b : Byte) (s : State) : (offer k a b s).zoneUnit = s.zoneUnit := rfl
@[simp] theorem offer_engine (k : Fin 16) (a b : Byte) (s : State) : (offer k a b s).engine = s.engine := rfl
@[simp] theorem offer_level (k : Fin 16) (a b : Byte) (s : State) : (offer k a b s).level = s.level := rfl
@[simp] theorem offer_admission (k : Fin 16) (a b : Byte) (s : State) : (offer k a b s).admission = s.admission := rfl
@[simp] theorem offer_call (k : Fin 16) (a b : Byte) (s : State) : (offer k a b s).call = s.call := rfl
@[simp] theorem offer_description (k : Fin 16) (a b : Byte) (s : State) : (offer k a b s).description = s.description := rfl
@[simp] theorem offer_panel (k : Fin 16) (a b : Byte) (s : State) : (offer k a b s).panel = s.panel := rfl
@[simp] theorem offer_store (k : Fin 16) (a b : Byte) (s : State) : (offer k a b s).store = s.store := rfl
@[simp] theorem offer_ports (k : Fin 16) (a b : Byte) (s : State) : (offer k a b s).ports = s.ports := rfl
@[simp] theorem offer_notices (k : Fin 16) (a b : Byte) (s : State) : (offer k a b s).notices = s.notices := rfl
@[simp] theorem offer_mail (k : Fin 16) (a b : Byte) (s : State) : (offer k a b s).mail = { s.mail with offers := s.mail.offers ++ [⟨k, a, b, s.clock, allPorts, none⟩] } := rfl
@[simp] theorem offer_draws (k : Fin 16) (a b : Byte) (s : State) : (offer k a b s).draws = s.draws := rfl
@[simp] theorem offer_pending (k : Fin 16) (a b : Byte) (s : State) : (offer k a b s).pending = s.pending := rfl

@[simp] theorem setHall_clock (h : Hall) (r : HallRecord) (s : State) : (setHall h r s).clock = s.clock := rfl
@[simp] theorem setHall_straps (h : Hall) (r : HallRecord) (s : State) : (setHall h r s).straps = s.straps := rfl
@[simp] theorem setHall_programme (h : Hall) (r : HallRecord) (s : State) : (setHall h r s).programme = { s.programme with halls := s.programme.halls.set h r } := rfl
@[simp] theorem setHall_zoneUnit (h : Hall) (r : HallRecord) (s : State) : (setHall h r s).zoneUnit = s.zoneUnit := rfl
@[simp] theorem setHall_engine (h : Hall) (r : HallRecord) (s : State) : (setHall h r s).engine = s.engine := rfl
@[simp] theorem setHall_level (h : Hall) (r : HallRecord) (s : State) : (setHall h r s).level = s.level := rfl
@[simp] theorem setHall_admission (h : Hall) (r : HallRecord) (s : State) : (setHall h r s).admission = s.admission := rfl
@[simp] theorem setHall_call (h : Hall) (r : HallRecord) (s : State) : (setHall h r s).call = s.call := rfl
@[simp] theorem setHall_description (h : Hall) (r : HallRecord) (s : State) : (setHall h r s).description = s.description := rfl
@[simp] theorem setHall_panel (h : Hall) (r : HallRecord) (s : State) : (setHall h r s).panel = s.panel := rfl
@[simp] theorem setHall_store (h : Hall) (r : HallRecord) (s : State) : (setHall h r s).store = s.store := rfl
@[simp] theorem setHall_ports (h : Hall) (r : HallRecord) (s : State) : (setHall h r s).ports = s.ports := rfl
@[simp] theorem setHall_notices (h : Hall) (r : HallRecord) (s : State) : (setHall h r s).notices = s.notices := rfl
@[simp] theorem setHall_mail (h : Hall) (r : HallRecord) (s : State) : (setHall h r s).mail = s.mail := rfl
@[simp] theorem setHall_draws (h : Hall) (r : HallRecord) (s : State) : (setHall h r s).draws = s.draws := rfl
@[simp] theorem setHall_pending (h : Hall) (r : HallRecord) (s : State) : (setHall h r s).pending = s.pending := rfl

@[simp] theorem orderCall_clock (o : ProgrammeOrder) (s : State) : (orderCall o s).clock = s.clock := rfl
@[simp] theorem orderCall_straps (o : ProgrammeOrder) (s : State) : (orderCall o s).straps = s.straps := rfl
@[simp] theorem orderCall_programme (o : ProgrammeOrder) (s : State) : (orderCall o s).programme = s.programme := rfl
@[simp] theorem orderCall_zoneUnit (o : ProgrammeOrder) (s : State) : (orderCall o s).zoneUnit = s.zoneUnit := rfl
@[simp] theorem orderCall_engine (o : ProgrammeOrder) (s : State) : (orderCall o s).engine = s.engine := rfl
@[simp] theorem orderCall_level (o : ProgrammeOrder) (s : State) : (orderCall o s).level = s.level := rfl
@[simp] theorem orderCall_admission (o : ProgrammeOrder) (s : State) : (orderCall o s).admission = s.admission := rfl
@[simp] theorem orderCall_call (o : ProgrammeOrder) (s : State) : (orderCall o s).call = s.call := rfl
@[simp] theorem orderCall_description (o : ProgrammeOrder) (s : State) : (orderCall o s).description = s.description := rfl
@[simp] theorem orderCall_panel (o : ProgrammeOrder) (s : State) : (orderCall o s).panel = s.panel := rfl
@[simp] theorem orderCall_store (o : ProgrammeOrder) (s : State) : (orderCall o s).store = s.store := rfl
@[simp] theorem orderCall_ports (o : ProgrammeOrder) (s : State) : (orderCall o s).ports = s.ports := rfl
@[simp] theorem orderCall_notices (o : ProgrammeOrder) (s : State) : (orderCall o s).notices = s.notices := rfl
@[simp] theorem orderCall_mail (o : ProgrammeOrder) (s : State) : (orderCall o s).mail = { s.mail with toCall := s.mail.toCall ++ [o] } := rfl
@[simp] theorem orderCall_draws (o : ProgrammeOrder) (s : State) : (orderCall o s).draws = s.draws := rfl
@[simp] theorem orderCall_pending (o : ProgrammeOrder) (s : State) : (orderCall o s).pending = s.pending := rfl

@[simp] theorem handPhase_clock (ev : PhaseEvent) (s : State) : (handPhase ev s).clock = s.clock := rfl
@[simp] theorem handPhase_straps (ev : PhaseEvent) (s : State) : (handPhase ev s).straps = s.straps := rfl
@[simp] theorem handPhase_programme (ev : PhaseEvent) (s : State) : (handPhase ev s).programme = s.programme := rfl
@[simp] theorem handPhase_zoneUnit (ev : PhaseEvent) (s : State) : (handPhase ev s).zoneUnit = s.zoneUnit := rfl
@[simp] theorem handPhase_engine (ev : PhaseEvent) (s : State) : (handPhase ev s).engine = s.engine := rfl
@[simp] theorem handPhase_level (ev : PhaseEvent) (s : State) : (handPhase ev s).level = s.level := rfl
@[simp] theorem handPhase_admission (ev : PhaseEvent) (s : State) : (handPhase ev s).admission = s.admission := rfl
@[simp] theorem handPhase_call (ev : PhaseEvent) (s : State) : (handPhase ev s).call = s.call := rfl
@[simp] theorem handPhase_description (ev : PhaseEvent) (s : State) : (handPhase ev s).description = s.description := rfl
@[simp] theorem handPhase_panel (ev : PhaseEvent) (s : State) : (handPhase ev s).panel = s.panel := rfl
@[simp] theorem handPhase_store (ev : PhaseEvent) (s : State) : (handPhase ev s).store = s.store := rfl
@[simp] theorem handPhase_ports (ev : PhaseEvent) (s : State) : (handPhase ev s).ports = s.ports := rfl
@[simp] theorem handPhase_notices (ev : PhaseEvent) (s : State) : (handPhase ev s).notices = s.notices := rfl
@[simp] theorem handPhase_draws (ev : PhaseEvent) (s : State) : (handPhase ev s).draws = s.draws := rfl
@[simp] theorem handPhase_pending (ev : PhaseEvent) (s : State) : (handPhase ev s).pending = s.pending := rfl

@[simp] theorem setZoneUnit_clock (u : ZoneUnit) (s : State) : (setZoneUnit u s).clock = s.clock := rfl
@[simp] theorem setZoneUnit_straps (u : ZoneUnit) (s : State) : (setZoneUnit u s).straps = s.straps := rfl
@[simp] theorem setZoneUnit_programme (u : ZoneUnit) (s : State) : (setZoneUnit u s).programme = s.programme := rfl
@[simp] theorem setZoneUnit_zoneUnit (u : ZoneUnit) (s : State) : (setZoneUnit u s).zoneUnit = u := rfl
@[simp] theorem setZoneUnit_engine (u : ZoneUnit) (s : State) : (setZoneUnit u s).engine = s.engine := rfl
@[simp] theorem setZoneUnit_level (u : ZoneUnit) (s : State) : (setZoneUnit u s).level = s.level := rfl
@[simp] theorem setZoneUnit_admission (u : ZoneUnit) (s : State) : (setZoneUnit u s).admission = s.admission := rfl
@[simp] theorem setZoneUnit_call (u : ZoneUnit) (s : State) : (setZoneUnit u s).call = s.call := rfl
@[simp] theorem setZoneUnit_description (u : ZoneUnit) (s : State) : (setZoneUnit u s).description = s.description := rfl
@[simp] theorem setZoneUnit_panel (u : ZoneUnit) (s : State) : (setZoneUnit u s).panel = s.panel := rfl
@[simp] theorem setZoneUnit_store (u : ZoneUnit) (s : State) : (setZoneUnit u s).store = s.store := rfl
@[simp] theorem setZoneUnit_ports (u : ZoneUnit) (s : State) : (setZoneUnit u s).ports = s.ports := rfl
@[simp] theorem setZoneUnit_notices (u : ZoneUnit) (s : State) : (setZoneUnit u s).notices = s.notices := rfl
@[simp] theorem setZoneUnit_mail (u : ZoneUnit) (s : State) : (setZoneUnit u s).mail = s.mail := rfl
@[simp] theorem setZoneUnit_draws (u : ZoneUnit) (s : State) : (setZoneUnit u s).draws = s.draws := rfl
@[simp] theorem setZoneUnit_pending (u : ZoneUnit) (s : State) : (setZoneUnit u s).pending = s.pending := rfl

@[simp] theorem setLoop_clock (l : Fin 8) (r : LoopRecord) (s : State) : (setLoop l r s).clock = s.clock := rfl
@[simp] theorem setLoop_straps (l : Fin 8) (r : LoopRecord) (s : State) : (setLoop l r s).straps = s.straps := rfl
@[simp] theorem setLoop_programme (l : Fin 8) (r : LoopRecord) (s : State) : (setLoop l r s).programme = s.programme := rfl
@[simp] theorem setLoop_zoneUnit (l : Fin 8) (r : LoopRecord) (s : State) : (setLoop l r s).zoneUnit = { s.zoneUnit with loops := s.zoneUnit.loops.set l r } := rfl
@[simp] theorem setLoop_engine (l : Fin 8) (r : LoopRecord) (s : State) : (setLoop l r s).engine = s.engine := rfl
@[simp] theorem setLoop_level (l : Fin 8) (r : LoopRecord) (s : State) : (setLoop l r s).level = s.level := rfl
@[simp] theorem setLoop_admission (l : Fin 8) (r : LoopRecord) (s : State) : (setLoop l r s).admission = s.admission := rfl
@[simp] theorem setLoop_call (l : Fin 8) (r : LoopRecord) (s : State) : (setLoop l r s).call = s.call := rfl
@[simp] theorem setLoop_description (l : Fin 8) (r : LoopRecord) (s : State) : (setLoop l r s).description = s.description := rfl
@[simp] theorem setLoop_panel (l : Fin 8) (r : LoopRecord) (s : State) : (setLoop l r s).panel = s.panel := rfl
@[simp] theorem setLoop_store (l : Fin 8) (r : LoopRecord) (s : State) : (setLoop l r s).store = s.store := rfl
@[simp] theorem setLoop_ports (l : Fin 8) (r : LoopRecord) (s : State) : (setLoop l r s).ports = s.ports := rfl
@[simp] theorem setLoop_notices (l : Fin 8) (r : LoopRecord) (s : State) : (setLoop l r s).notices = s.notices := rfl
@[simp] theorem setLoop_mail (l : Fin 8) (r : LoopRecord) (s : State) : (setLoop l r s).mail = s.mail := rfl
@[simp] theorem setLoop_draws (l : Fin 8) (r : LoopRecord) (s : State) : (setLoop l r s).draws = s.draws := rfl
@[simp] theorem setLoop_pending (l : Fin 8) (r : LoopRecord) (s : State) : (setLoop l r s).pending = s.pending := rfl

@[simp] theorem handReport_clock (z : ZoneSet) (s : State) : (handReport z s).clock = s.clock := rfl
@[simp] theorem handReport_straps (z : ZoneSet) (s : State) : (handReport z s).straps = s.straps := rfl
@[simp] theorem handReport_programme (z : ZoneSet) (s : State) : (handReport z s).programme = s.programme := rfl
@[simp] theorem handReport_zoneUnit (z : ZoneSet) (s : State) : (handReport z s).zoneUnit = s.zoneUnit := rfl
@[simp] theorem handReport_engine (z : ZoneSet) (s : State) : (handReport z s).engine = s.engine := rfl
@[simp] theorem handReport_level (z : ZoneSet) (s : State) : (handReport z s).level = s.level := rfl
@[simp] theorem handReport_admission (z : ZoneSet) (s : State) : (handReport z s).admission = s.admission := rfl
@[simp] theorem handReport_call (z : ZoneSet) (s : State) : (handReport z s).call = s.call := rfl
@[simp] theorem handReport_description (z : ZoneSet) (s : State) : (handReport z s).description = s.description := rfl
@[simp] theorem handReport_panel (z : ZoneSet) (s : State) : (handReport z s).panel = s.panel := rfl
@[simp] theorem handReport_store (z : ZoneSet) (s : State) : (handReport z s).store = s.store := rfl
@[simp] theorem handReport_ports (z : ZoneSet) (s : State) : (handReport z s).ports = s.ports := rfl
@[simp] theorem handReport_notices (z : ZoneSet) (s : State) : (handReport z s).notices = s.notices := rfl
@[simp] theorem handReport_draws (z : ZoneSet) (s : State) : (handReport z s).draws = s.draws := rfl
@[simp] theorem handReport_pending (z : ZoneSet) (s : State) : (handReport z s).pending = s.pending := rfl

@[simp] theorem setCalls_clock (u : CallUnit) (s : State) : (setCalls u s).clock = s.clock := rfl
@[simp] theorem setCalls_straps (u : CallUnit) (s : State) : (setCalls u s).straps = s.straps := rfl
@[simp] theorem setCalls_programme (u : CallUnit) (s : State) : (setCalls u s).programme = s.programme := rfl
@[simp] theorem setCalls_zoneUnit (u : CallUnit) (s : State) : (setCalls u s).zoneUnit = s.zoneUnit := rfl
@[simp] theorem setCalls_engine (u : CallUnit) (s : State) : (setCalls u s).engine = s.engine := rfl
@[simp] theorem setCalls_level (u : CallUnit) (s : State) : (setCalls u s).level = s.level := rfl
@[simp] theorem setCalls_admission (u : CallUnit) (s : State) : (setCalls u s).admission = s.admission := rfl
@[simp] theorem setCalls_call (u : CallUnit) (s : State) : (setCalls u s).call = u := rfl
@[simp] theorem setCalls_description (u : CallUnit) (s : State) : (setCalls u s).description = s.description := rfl
@[simp] theorem setCalls_panel (u : CallUnit) (s : State) : (setCalls u s).panel = s.panel := rfl
@[simp] theorem setCalls_store (u : CallUnit) (s : State) : (setCalls u s).store = s.store := rfl
@[simp] theorem setCalls_ports (u : CallUnit) (s : State) : (setCalls u s).ports = s.ports := rfl
@[simp] theorem setCalls_notices (u : CallUnit) (s : State) : (setCalls u s).notices = s.notices := rfl
@[simp] theorem setCalls_mail (u : CallUnit) (s : State) : (setCalls u s).mail = s.mail := rfl
@[simp] theorem setCalls_draws (u : CallUnit) (s : State) : (setCalls u s).draws = s.draws := rfl
@[simp] theorem setCalls_pending (u : CallUnit) (s : State) : (setCalls u s).pending = s.pending := rfl

@[simp] theorem answerSubmission_clock (a : SubmissionAnswer) (s : State) : (answerSubmission a s).clock = s.clock := rfl
@[simp] theorem answerSubmission_straps (a : SubmissionAnswer) (s : State) : (answerSubmission a s).straps = s.straps := rfl
@[simp] theorem answerSubmission_programme (a : SubmissionAnswer) (s : State) : (answerSubmission a s).programme = s.programme := rfl
@[simp] theorem answerSubmission_zoneUnit (a : SubmissionAnswer) (s : State) : (answerSubmission a s).zoneUnit = s.zoneUnit := rfl
@[simp] theorem answerSubmission_engine (a : SubmissionAnswer) (s : State) : (answerSubmission a s).engine = s.engine := rfl
@[simp] theorem answerSubmission_level (a : SubmissionAnswer) (s : State) : (answerSubmission a s).level = s.level := rfl
@[simp] theorem answerSubmission_admission (a : SubmissionAnswer) (s : State) : (answerSubmission a s).admission = s.admission := rfl
@[simp] theorem answerSubmission_description (a : SubmissionAnswer) (s : State) : (answerSubmission a s).description = s.description := rfl
@[simp] theorem answerSubmission_panel (a : SubmissionAnswer) (s : State) : (answerSubmission a s).panel = s.panel := rfl
@[simp] theorem answerSubmission_store (a : SubmissionAnswer) (s : State) : (answerSubmission a s).store = s.store := rfl
@[simp] theorem answerSubmission_ports (a : SubmissionAnswer) (s : State) : (answerSubmission a s).ports = s.ports := rfl
@[simp] theorem answerSubmission_notices (a : SubmissionAnswer) (s : State) : (answerSubmission a s).notices = s.notices := rfl
@[simp] theorem answerSubmission_mail (a : SubmissionAnswer) (s : State) : (answerSubmission a s).mail = s.mail := rfl
@[simp] theorem answerSubmission_draws (a : SubmissionAnswer) (s : State) : (answerSubmission a s).draws = s.draws := rfl
@[simp] theorem answerSubmission_pending (a : SubmissionAnswer) (s : State) : (answerSubmission a s).pending = s.pending := rfl
@[simp] theorem answerSubmission_call_queue (a : SubmissionAnswer) (s : State) : (answerSubmission a s).call.queue = s.call.queue := rfl
@[simp] theorem answerSubmission_call_counter (a : SubmissionAnswer) (s : State) : (answerSubmission a s).call.counter = s.call.counter := rfl
@[simp] theorem answerSubmission_call_view (a : SubmissionAnswer) (s : State) : (answerSubmission a s).call.view = s.call.view := rfl
@[simp] theorem answerSubmission_call_players (a : SubmissionAnswer) (s : State) : (answerSubmission a s).call.players = s.call.players := rfl
@[simp] theorem answerSubmission_call_chime (a : SubmissionAnswer) (s : State) : (answerSubmission a s).call.chime = s.call.chime := rfl
@[simp] theorem answerSubmission_call_mics (a : SubmissionAnswer) (s : State) : (answerSubmission a s).call.mics = s.call.mics := rfl
@[simp] theorem answerSubmission_call_submitted (a : SubmissionAnswer) (s : State) : (answerSubmission a s).call.submitted = some a := rfl

@[simp] theorem setPlayer_clock (n : Fin 3) (p : Option Player) (s : State) : (setPlayer n p s).clock = s.clock := rfl
@[simp] theorem setPlayer_straps (n : Fin 3) (p : Option Player) (s : State) : (setPlayer n p s).straps = s.straps := rfl
@[simp] theorem setPlayer_programme (n : Fin 3) (p : Option Player) (s : State) : (setPlayer n p s).programme = s.programme := rfl
@[simp] theorem setPlayer_zoneUnit (n : Fin 3) (p : Option Player) (s : State) : (setPlayer n p s).zoneUnit = s.zoneUnit := rfl
@[simp] theorem setPlayer_engine (n : Fin 3) (p : Option Player) (s : State) : (setPlayer n p s).engine = s.engine := rfl
@[simp] theorem setPlayer_level (n : Fin 3) (p : Option Player) (s : State) : (setPlayer n p s).level = s.level := rfl
@[simp] theorem setPlayer_admission (n : Fin 3) (p : Option Player) (s : State) : (setPlayer n p s).admission = s.admission := rfl
@[simp] theorem setPlayer_call (n : Fin 3) (p : Option Player) (s : State) : (setPlayer n p s).call = { s.call with players := s.call.players.set n p } := rfl
@[simp] theorem setPlayer_description (n : Fin 3) (p : Option Player) (s : State) : (setPlayer n p s).description = s.description := rfl
@[simp] theorem setPlayer_panel (n : Fin 3) (p : Option Player) (s : State) : (setPlayer n p s).panel = s.panel := rfl
@[simp] theorem setPlayer_store (n : Fin 3) (p : Option Player) (s : State) : (setPlayer n p s).store = s.store := rfl
@[simp] theorem setPlayer_ports (n : Fin 3) (p : Option Player) (s : State) : (setPlayer n p s).ports = s.ports := rfl
@[simp] theorem setPlayer_notices (n : Fin 3) (p : Option Player) (s : State) : (setPlayer n p s).notices = s.notices := rfl
@[simp] theorem setPlayer_mail (n : Fin 3) (p : Option Player) (s : State) : (setPlayer n p s).mail = s.mail := rfl
@[simp] theorem setPlayer_draws (n : Fin 3) (p : Option Player) (s : State) : (setPlayer n p s).draws = s.draws := rfl
@[simp] theorem setPlayer_pending (n : Fin 3) (p : Option Player) (s : State) : (setPlayer n p s).pending = s.pending := rfl

@[simp] theorem setChime_clock (c : Option ChimeGenerator) (s : State) : (setChime c s).clock = s.clock := rfl
@[simp] theorem setChime_straps (c : Option ChimeGenerator) (s : State) : (setChime c s).straps = s.straps := rfl
@[simp] theorem setChime_programme (c : Option ChimeGenerator) (s : State) : (setChime c s).programme = s.programme := rfl
@[simp] theorem setChime_zoneUnit (c : Option ChimeGenerator) (s : State) : (setChime c s).zoneUnit = s.zoneUnit := rfl
@[simp] theorem setChime_engine (c : Option ChimeGenerator) (s : State) : (setChime c s).engine = s.engine := rfl
@[simp] theorem setChime_level (c : Option ChimeGenerator) (s : State) : (setChime c s).level = s.level := rfl
@[simp] theorem setChime_admission (c : Option ChimeGenerator) (s : State) : (setChime c s).admission = s.admission := rfl
@[simp] theorem setChime_call (c : Option ChimeGenerator) (s : State) : (setChime c s).call = { s.call with chime := c } := rfl
@[simp] theorem setChime_description (c : Option ChimeGenerator) (s : State) : (setChime c s).description = s.description := rfl
@[simp] theorem setChime_panel (c : Option ChimeGenerator) (s : State) : (setChime c s).panel = s.panel := rfl
@[simp] theorem setChime_store (c : Option ChimeGenerator) (s : State) : (setChime c s).store = s.store := rfl
@[simp] theorem setChime_ports (c : Option ChimeGenerator) (s : State) : (setChime c s).ports = s.ports := rfl
@[simp] theorem setChime_notices (c : Option ChimeGenerator) (s : State) : (setChime c s).notices = s.notices := rfl
@[simp] theorem setChime_mail (c : Option ChimeGenerator) (s : State) : (setChime c s).mail = s.mail := rfl
@[simp] theorem setChime_draws (c : Option ChimeGenerator) (s : State) : (setChime c s).draws = s.draws := rfl
@[simp] theorem setChime_pending (c : Option ChimeGenerator) (s : State) : (setChime c s).pending = s.pending := rfl

@[simp] theorem setDescription_clock (d : Description) (s : State) : (setDescription d s).clock = s.clock := rfl
@[simp] theorem setDescription_straps (d : Description) (s : State) : (setDescription d s).straps = s.straps := rfl
@[simp] theorem setDescription_programme (d : Description) (s : State) : (setDescription d s).programme = s.programme := rfl
@[simp] theorem setDescription_zoneUnit (d : Description) (s : State) : (setDescription d s).zoneUnit = s.zoneUnit := rfl
@[simp] theorem setDescription_engine (d : Description) (s : State) : (setDescription d s).engine = s.engine := rfl
@[simp] theorem setDescription_level (d : Description) (s : State) : (setDescription d s).level = s.level := rfl
@[simp] theorem setDescription_admission (d : Description) (s : State) : (setDescription d s).admission = s.admission := rfl
@[simp] theorem setDescription_call (d : Description) (s : State) : (setDescription d s).call = s.call := rfl
@[simp] theorem setDescription_description (d : Description) (s : State) : (setDescription d s).description = d := rfl
@[simp] theorem setDescription_panel (d : Description) (s : State) : (setDescription d s).panel = s.panel := rfl
@[simp] theorem setDescription_store (d : Description) (s : State) : (setDescription d s).store = s.store := rfl
@[simp] theorem setDescription_ports (d : Description) (s : State) : (setDescription d s).ports = s.ports := rfl
@[simp] theorem setDescription_notices (d : Description) (s : State) : (setDescription d s).notices = s.notices := rfl
@[simp] theorem setDescription_mail (d : Description) (s : State) : (setDescription d s).mail = s.mail := rfl
@[simp] theorem setDescription_draws (d : Description) (s : State) : (setDescription d s).draws = s.draws := rfl
@[simp] theorem setDescription_pending (d : Description) (s : State) : (setDescription d s).pending = s.pending := rfl

@[simp] theorem setChannel_clock (c : Fin 4) (ch : Channel) (s : State) : (setChannel c ch s).clock = s.clock := rfl
@[simp] theorem setChannel_straps (c : Fin 4) (ch : Channel) (s : State) : (setChannel c ch s).straps = s.straps := rfl
@[simp] theorem setChannel_programme (c : Fin 4) (ch : Channel) (s : State) : (setChannel c ch s).programme = s.programme := rfl
@[simp] theorem setChannel_zoneUnit (c : Fin 4) (ch : Channel) (s : State) : (setChannel c ch s).zoneUnit = s.zoneUnit := rfl
@[simp] theorem setChannel_engine (c : Fin 4) (ch : Channel) (s : State) : (setChannel c ch s).engine = s.engine := rfl
@[simp] theorem setChannel_level (c : Fin 4) (ch : Channel) (s : State) : (setChannel c ch s).level = s.level := rfl
@[simp] theorem setChannel_admission (c : Fin 4) (ch : Channel) (s : State) : (setChannel c ch s).admission = s.admission := rfl
@[simp] theorem setChannel_call (c : Fin 4) (ch : Channel) (s : State) : (setChannel c ch s).call = s.call := rfl
@[simp] theorem setChannel_description (c : Fin 4) (ch : Channel) (s : State) : (setChannel c ch s).description = { s.description with channels := s.description.channels.set c ch } := rfl
@[simp] theorem setChannel_panel (c : Fin 4) (ch : Channel) (s : State) : (setChannel c ch s).panel = s.panel := rfl
@[simp] theorem setChannel_store (c : Fin 4) (ch : Channel) (s : State) : (setChannel c ch s).store = s.store := rfl
@[simp] theorem setChannel_ports (c : Fin 4) (ch : Channel) (s : State) : (setChannel c ch s).ports = s.ports := rfl
@[simp] theorem setChannel_notices (c : Fin 4) (ch : Channel) (s : State) : (setChannel c ch s).notices = s.notices := rfl
@[simp] theorem setChannel_mail (c : Fin 4) (ch : Channel) (s : State) : (setChannel c ch s).mail = s.mail := rfl
@[simp] theorem setChannel_draws (c : Fin 4) (ch : Channel) (s : State) : (setChannel c ch s).draws = s.draws := rfl
@[simp] theorem setChannel_pending (c : Fin 4) (ch : Channel) (s : State) : (setChannel c ch s).pending = s.pending := rfl

@[simp] theorem setAdmission_clock (u : AdmissionUnit) (s : State) : (setAdmission u s).clock = s.clock := rfl
@[simp] theorem setAdmission_straps (u : AdmissionUnit) (s : State) : (setAdmission u s).straps = s.straps := rfl
@[simp] theorem setAdmission_programme (u : AdmissionUnit) (s : State) : (setAdmission u s).programme = s.programme := rfl
@[simp] theorem setAdmission_zoneUnit (u : AdmissionUnit) (s : State) : (setAdmission u s).zoneUnit = s.zoneUnit := rfl
@[simp] theorem setAdmission_engine (u : AdmissionUnit) (s : State) : (setAdmission u s).engine = s.engine := rfl
@[simp] theorem setAdmission_level (u : AdmissionUnit) (s : State) : (setAdmission u s).level = s.level := rfl
@[simp] theorem setAdmission_admission (u : AdmissionUnit) (s : State) : (setAdmission u s).admission = u := rfl
@[simp] theorem setAdmission_call (u : AdmissionUnit) (s : State) : (setAdmission u s).call = s.call := rfl
@[simp] theorem setAdmission_description (u : AdmissionUnit) (s : State) : (setAdmission u s).description = s.description := rfl
@[simp] theorem setAdmission_panel (u : AdmissionUnit) (s : State) : (setAdmission u s).panel = s.panel := rfl
@[simp] theorem setAdmission_store (u : AdmissionUnit) (s : State) : (setAdmission u s).store = s.store := rfl
@[simp] theorem setAdmission_ports (u : AdmissionUnit) (s : State) : (setAdmission u s).ports = s.ports := rfl
@[simp] theorem setAdmission_notices (u : AdmissionUnit) (s : State) : (setAdmission u s).notices = s.notices := rfl
@[simp] theorem setAdmission_mail (u : AdmissionUnit) (s : State) : (setAdmission u s).mail = s.mail := rfl
@[simp] theorem setAdmission_draws (u : AdmissionUnit) (s : State) : (setAdmission u s).draws = s.draws := rfl
@[simp] theorem setAdmission_pending (u : AdmissionUnit) (s : State) : (setAdmission u s).pending = s.pending := rfl

@[simp] theorem setWindow_clock (h : Hall) (w : Option Window) (s : State) : (setWindow h w s).clock = s.clock := rfl
@[simp] theorem setWindow_straps (h : Hall) (w : Option Window) (s : State) : (setWindow h w s).straps = s.straps := rfl
@[simp] theorem setWindow_programme (h : Hall) (w : Option Window) (s : State) : (setWindow h w s).programme = s.programme := rfl
@[simp] theorem setWindow_zoneUnit (h : Hall) (w : Option Window) (s : State) : (setWindow h w s).zoneUnit = s.zoneUnit := rfl
@[simp] theorem setWindow_engine (h : Hall) (w : Option Window) (s : State) : (setWindow h w s).engine = s.engine := rfl
@[simp] theorem setWindow_level (h : Hall) (w : Option Window) (s : State) : (setWindow h w s).level = s.level := rfl
@[simp] theorem setWindow_admission (h : Hall) (w : Option Window) (s : State) : (setWindow h w s).admission = { s.admission with windows := s.admission.windows.set h w } := rfl
@[simp] theorem setWindow_call (h : Hall) (w : Option Window) (s : State) : (setWindow h w s).call = s.call := rfl
@[simp] theorem setWindow_description (h : Hall) (w : Option Window) (s : State) : (setWindow h w s).description = s.description := rfl
@[simp] theorem setWindow_panel (h : Hall) (w : Option Window) (s : State) : (setWindow h w s).panel = s.panel := rfl
@[simp] theorem setWindow_store (h : Hall) (w : Option Window) (s : State) : (setWindow h w s).store = s.store := rfl
@[simp] theorem setWindow_ports (h : Hall) (w : Option Window) (s : State) : (setWindow h w s).ports = s.ports := rfl
@[simp] theorem setWindow_notices (h : Hall) (w : Option Window) (s : State) : (setWindow h w s).notices = s.notices := rfl
@[simp] theorem setWindow_mail (h : Hall) (w : Option Window) (s : State) : (setWindow h w s).mail = s.mail := rfl
@[simp] theorem setWindow_draws (h : Hall) (w : Option Window) (s : State) : (setWindow h w s).draws = s.draws := rfl
@[simp] theorem setWindow_pending (h : Hall) (w : Option Window) (s : State) : (setWindow h w s).pending = s.pending := rfl

@[simp] theorem setParties_clock (l : List Party) (s : State) : (setParties l s).clock = s.clock := rfl
@[simp] theorem setParties_straps (l : List Party) (s : State) : (setParties l s).straps = s.straps := rfl
@[simp] theorem setParties_programme (l : List Party) (s : State) : (setParties l s).programme = s.programme := rfl
@[simp] theorem setParties_zoneUnit (l : List Party) (s : State) : (setParties l s).zoneUnit = s.zoneUnit := rfl
@[simp] theorem setParties_engine (l : List Party) (s : State) : (setParties l s).engine = s.engine := rfl
@[simp] theorem setParties_level (l : List Party) (s : State) : (setParties l s).level = s.level := rfl
@[simp] theorem setParties_admission (l : List Party) (s : State) : (setParties l s).admission = { s.admission with parties := l } := rfl
@[simp] theorem setParties_call (l : List Party) (s : State) : (setParties l s).call = s.call := rfl
@[simp] theorem setParties_description (l : List Party) (s : State) : (setParties l s).description = s.description := rfl
@[simp] theorem setParties_panel (l : List Party) (s : State) : (setParties l s).panel = s.panel := rfl
@[simp] theorem setParties_store (l : List Party) (s : State) : (setParties l s).store = s.store := rfl
@[simp] theorem setParties_ports (l : List Party) (s : State) : (setParties l s).ports = s.ports := rfl
@[simp] theorem setParties_notices (l : List Party) (s : State) : (setParties l s).notices = s.notices := rfl
@[simp] theorem setParties_mail (l : List Party) (s : State) : (setParties l s).mail = s.mail := rfl
@[simp] theorem setParties_draws (l : List Party) (s : State) : (setParties l s).draws = s.draws := rfl
@[simp] theorem setParties_pending (l : List Party) (s : State) : (setParties l s).pending = s.pending := rfl

@[simp] theorem modifyEntrance_clock (e : Fin 12) (f : Entrance → Entrance) (s : State) : (modifyEntrance e f s).clock = s.clock := rfl
@[simp] theorem modifyEntrance_straps (e : Fin 12) (f : Entrance → Entrance) (s : State) : (modifyEntrance e f s).straps = s.straps := rfl
@[simp] theorem modifyEntrance_programme (e : Fin 12) (f : Entrance → Entrance) (s : State) : (modifyEntrance e f s).programme = s.programme := rfl
@[simp] theorem modifyEntrance_zoneUnit (e : Fin 12) (f : Entrance → Entrance) (s : State) : (modifyEntrance e f s).zoneUnit = s.zoneUnit := rfl
@[simp] theorem modifyEntrance_engine (e : Fin 12) (f : Entrance → Entrance) (s : State) : (modifyEntrance e f s).engine = s.engine := rfl
@[simp] theorem modifyEntrance_level (e : Fin 12) (f : Entrance → Entrance) (s : State) : (modifyEntrance e f s).level = s.level := rfl
@[simp] theorem modifyEntrance_call (e : Fin 12) (f : Entrance → Entrance) (s : State) : (modifyEntrance e f s).call = s.call := rfl
@[simp] theorem modifyEntrance_description (e : Fin 12) (f : Entrance → Entrance) (s : State) : (modifyEntrance e f s).description = s.description := rfl
@[simp] theorem modifyEntrance_panel (e : Fin 12) (f : Entrance → Entrance) (s : State) : (modifyEntrance e f s).panel = s.panel := rfl
@[simp] theorem modifyEntrance_store (e : Fin 12) (f : Entrance → Entrance) (s : State) : (modifyEntrance e f s).store = s.store := rfl
@[simp] theorem modifyEntrance_ports (e : Fin 12) (f : Entrance → Entrance) (s : State) : (modifyEntrance e f s).ports = s.ports := rfl
@[simp] theorem modifyEntrance_notices (e : Fin 12) (f : Entrance → Entrance) (s : State) : (modifyEntrance e f s).notices = s.notices := rfl
@[simp] theorem modifyEntrance_mail (e : Fin 12) (f : Entrance → Entrance) (s : State) : (modifyEntrance e f s).mail = s.mail := rfl
@[simp] theorem modifyEntrance_draws (e : Fin 12) (f : Entrance → Entrance) (s : State) : (modifyEntrance e f s).draws = s.draws := rfl
@[simp] theorem modifyEntrance_pending (e : Fin 12) (f : Entrance → Entrance) (s : State) : (modifyEntrance e f s).pending = s.pending := rfl

@[simp] theorem dropParty_clock (n : Nat) (s : State) : (dropParty n s).clock = s.clock := rfl
@[simp] theorem dropParty_straps (n : Nat) (s : State) : (dropParty n s).straps = s.straps := rfl
@[simp] theorem dropParty_programme (n : Nat) (s : State) : (dropParty n s).programme = s.programme := rfl
@[simp] theorem dropParty_zoneUnit (n : Nat) (s : State) : (dropParty n s).zoneUnit = s.zoneUnit := rfl
@[simp] theorem dropParty_engine (n : Nat) (s : State) : (dropParty n s).engine = s.engine := rfl
@[simp] theorem dropParty_level (n : Nat) (s : State) : (dropParty n s).level = s.level := rfl
@[simp] theorem dropParty_call (n : Nat) (s : State) : (dropParty n s).call = s.call := rfl
@[simp] theorem dropParty_description (n : Nat) (s : State) : (dropParty n s).description = s.description := rfl
@[simp] theorem dropParty_panel (n : Nat) (s : State) : (dropParty n s).panel = s.panel := rfl
@[simp] theorem dropParty_store (n : Nat) (s : State) : (dropParty n s).store = s.store := rfl
@[simp] theorem dropParty_ports (n : Nat) (s : State) : (dropParty n s).ports = s.ports := rfl
@[simp] theorem dropParty_notices (n : Nat) (s : State) : (dropParty n s).notices = s.notices := rfl
@[simp] theorem dropParty_mail (n : Nat) (s : State) : (dropParty n s).mail = s.mail := rfl
@[simp] theorem dropParty_draws (n : Nat) (s : State) : (dropParty n s).draws = s.draws := rfl
@[simp] theorem dropParty_pending (n : Nat) (s : State) : (dropParty n s).pending = s.pending := rfl

@[simp] theorem handLamp_clock (m : LampMessage) (s : State) : (handLamp m s).clock = s.clock := rfl
@[simp] theorem handLamp_straps (m : LampMessage) (s : State) : (handLamp m s).straps = s.straps := rfl
@[simp] theorem handLamp_programme (m : LampMessage) (s : State) : (handLamp m s).programme = s.programme := rfl
@[simp] theorem handLamp_zoneUnit (m : LampMessage) (s : State) : (handLamp m s).zoneUnit = s.zoneUnit := rfl
@[simp] theorem handLamp_engine (m : LampMessage) (s : State) : (handLamp m s).engine = s.engine := rfl
@[simp] theorem handLamp_level (m : LampMessage) (s : State) : (handLamp m s).level = s.level := rfl
@[simp] theorem handLamp_admission (m : LampMessage) (s : State) : (handLamp m s).admission = s.admission := rfl
@[simp] theorem handLamp_call (m : LampMessage) (s : State) : (handLamp m s).call = s.call := rfl
@[simp] theorem handLamp_description (m : LampMessage) (s : State) : (handLamp m s).description = s.description := rfl
@[simp] theorem handLamp_panel (m : LampMessage) (s : State) : (handLamp m s).panel = s.panel := rfl
@[simp] theorem handLamp_store (m : LampMessage) (s : State) : (handLamp m s).store = s.store := rfl
@[simp] theorem handLamp_ports (m : LampMessage) (s : State) : (handLamp m s).ports = s.ports := rfl
@[simp] theorem handLamp_notices (m : LampMessage) (s : State) : (handLamp m s).notices = s.notices := rfl
@[simp] theorem handLamp_mail (m : LampMessage) (s : State) : (handLamp m s).mail = { s.mail with lamps := s.mail.lamps ++ [m] } := rfl
@[simp] theorem handLamp_draws (m : LampMessage) (s : State) : (handLamp m s).draws = s.draws := rfl
@[simp] theorem handLamp_pending (m : LampMessage) (s : State) : (handLamp m s).pending = s.pending := rfl

@[simp] theorem partyNotice_clock (n : Nat) (c : PartyChange) (s : State) : (partyNotice n c s).clock = s.clock := rfl
@[simp] theorem partyNotice_straps (n : Nat) (c : PartyChange) (s : State) : (partyNotice n c s).straps = s.straps := rfl
@[simp] theorem partyNotice_programme (n : Nat) (c : PartyChange) (s : State) : (partyNotice n c s).programme = s.programme := rfl
@[simp] theorem partyNotice_zoneUnit (n : Nat) (c : PartyChange) (s : State) : (partyNotice n c s).zoneUnit = s.zoneUnit := rfl
@[simp] theorem partyNotice_engine (n : Nat) (c : PartyChange) (s : State) : (partyNotice n c s).engine = s.engine := rfl
@[simp] theorem partyNotice_level (n : Nat) (c : PartyChange) (s : State) : (partyNotice n c s).level = s.level := rfl
@[simp] theorem partyNotice_admission (n : Nat) (c : PartyChange) (s : State) : (partyNotice n c s).admission = s.admission := rfl
@[simp] theorem partyNotice_call (n : Nat) (c : PartyChange) (s : State) : (partyNotice n c s).call = s.call := rfl
@[simp] theorem partyNotice_description (n : Nat) (c : PartyChange) (s : State) : (partyNotice n c s).description = s.description := rfl
@[simp] theorem partyNotice_panel (n : Nat) (c : PartyChange) (s : State) : (partyNotice n c s).panel = s.panel := rfl
@[simp] theorem partyNotice_store (n : Nat) (c : PartyChange) (s : State) : (partyNotice n c s).store = s.store := rfl
@[simp] theorem partyNotice_ports (n : Nat) (c : PartyChange) (s : State) : (partyNotice n c s).ports = s.ports := rfl
@[simp] theorem partyNotice_notices (n : Nat) (c : PartyChange) (s : State) : (partyNotice n c s).notices = s.notices := rfl
@[simp] theorem partyNotice_draws (n : Nat) (c : PartyChange) (s : State) : (partyNotice n c s).draws = s.draws := rfl
@[simp] theorem partyNotice_pending (n : Nat) (c : PartyChange) (s : State) : (partyNotice n c s).pending = s.pending := rfl

@[simp] theorem windowNotice_clock (h : Hall) (w : WindowCause) (c : WindowChange) (s : State) : (windowNotice h w c s).clock = s.clock := rfl
@[simp] theorem windowNotice_straps (h : Hall) (w : WindowCause) (c : WindowChange) (s : State) : (windowNotice h w c s).straps = s.straps := rfl
@[simp] theorem windowNotice_programme (h : Hall) (w : WindowCause) (c : WindowChange) (s : State) : (windowNotice h w c s).programme = s.programme := rfl
@[simp] theorem windowNotice_zoneUnit (h : Hall) (w : WindowCause) (c : WindowChange) (s : State) : (windowNotice h w c s).zoneUnit = s.zoneUnit := rfl
@[simp] theorem windowNotice_engine (h : Hall) (w : WindowCause) (c : WindowChange) (s : State) : (windowNotice h w c s).engine = s.engine := rfl
@[simp] theorem windowNotice_level (h : Hall) (w : WindowCause) (c : WindowChange) (s : State) : (windowNotice h w c s).level = s.level := rfl
@[simp] theorem windowNotice_admission (h : Hall) (w : WindowCause) (c : WindowChange) (s : State) : (windowNotice h w c s).admission = s.admission := rfl
@[simp] theorem windowNotice_call (h : Hall) (w : WindowCause) (c : WindowChange) (s : State) : (windowNotice h w c s).call = s.call := rfl
@[simp] theorem windowNotice_description (h : Hall) (w : WindowCause) (c : WindowChange) (s : State) : (windowNotice h w c s).description = s.description := rfl
@[simp] theorem windowNotice_panel (h : Hall) (w : WindowCause) (c : WindowChange) (s : State) : (windowNotice h w c s).panel = s.panel := rfl
@[simp] theorem windowNotice_store (h : Hall) (w : WindowCause) (c : WindowChange) (s : State) : (windowNotice h w c s).store = s.store := rfl
@[simp] theorem windowNotice_ports (h : Hall) (w : WindowCause) (c : WindowChange) (s : State) : (windowNotice h w c s).ports = s.ports := rfl
@[simp] theorem windowNotice_notices (h : Hall) (w : WindowCause) (c : WindowChange) (s : State) : (windowNotice h w c s).notices = s.notices := rfl
@[simp] theorem windowNotice_draws (h : Hall) (w : WindowCause) (c : WindowChange) (s : State) : (windowNotice h w c s).draws = s.draws := rfl
@[simp] theorem windowNotice_pending (h : Hall) (w : WindowCause) (c : WindowChange) (s : State) : (windowNotice h w c s).pending = s.pending := rfl

@[simp] theorem orderAdmissionCall_clock (o : AdmissionOrder) (s : State) : (orderAdmissionCall o s).clock = s.clock := rfl
@[simp] theorem orderAdmissionCall_straps (o : AdmissionOrder) (s : State) : (orderAdmissionCall o s).straps = s.straps := rfl
@[simp] theorem orderAdmissionCall_programme (o : AdmissionOrder) (s : State) : (orderAdmissionCall o s).programme = s.programme := rfl
@[simp] theorem orderAdmissionCall_zoneUnit (o : AdmissionOrder) (s : State) : (orderAdmissionCall o s).zoneUnit = s.zoneUnit := rfl
@[simp] theorem orderAdmissionCall_engine (o : AdmissionOrder) (s : State) : (orderAdmissionCall o s).engine = s.engine := rfl
@[simp] theorem orderAdmissionCall_level (o : AdmissionOrder) (s : State) : (orderAdmissionCall o s).level = s.level := rfl
@[simp] theorem orderAdmissionCall_admission (o : AdmissionOrder) (s : State) : (orderAdmissionCall o s).admission = s.admission := rfl
@[simp] theorem orderAdmissionCall_call (o : AdmissionOrder) (s : State) : (orderAdmissionCall o s).call = s.call := rfl
@[simp] theorem orderAdmissionCall_description (o : AdmissionOrder) (s : State) : (orderAdmissionCall o s).description = s.description := rfl
@[simp] theorem orderAdmissionCall_panel (o : AdmissionOrder) (s : State) : (orderAdmissionCall o s).panel = s.panel := rfl
@[simp] theorem orderAdmissionCall_store (o : AdmissionOrder) (s : State) : (orderAdmissionCall o s).store = s.store := rfl
@[simp] theorem orderAdmissionCall_ports (o : AdmissionOrder) (s : State) : (orderAdmissionCall o s).ports = s.ports := rfl
@[simp] theorem orderAdmissionCall_notices (o : AdmissionOrder) (s : State) : (orderAdmissionCall o s).notices = s.notices := rfl
@[simp] theorem orderAdmissionCall_mail (o : AdmissionOrder) (s : State) : (orderAdmissionCall o s).mail = { s.mail with admissionToCall := s.mail.admissionToCall ++ [o] } := rfl
@[simp] theorem orderAdmissionCall_draws (o : AdmissionOrder) (s : State) : (orderAdmissionCall o s).draws = s.draws := rfl
@[simp] theorem orderAdmissionCall_pending (o : AdmissionOrder) (s : State) : (orderAdmissionCall o s).pending = s.pending := rfl

@[simp] theorem setPanel_clock (u : Panel) (s : State) : (setPanel u s).clock = s.clock := rfl
@[simp] theorem setPanel_straps (u : Panel) (s : State) : (setPanel u s).straps = s.straps := rfl
@[simp] theorem setPanel_programme (u : Panel) (s : State) : (setPanel u s).programme = s.programme := rfl
@[simp] theorem setPanel_zoneUnit (u : Panel) (s : State) : (setPanel u s).zoneUnit = s.zoneUnit := rfl
@[simp] theorem setPanel_engine (u : Panel) (s : State) : (setPanel u s).engine = s.engine := rfl
@[simp] theorem setPanel_level (u : Panel) (s : State) : (setPanel u s).level = s.level := rfl
@[simp] theorem setPanel_admission (u : Panel) (s : State) : (setPanel u s).admission = s.admission := rfl
@[simp] theorem setPanel_call (u : Panel) (s : State) : (setPanel u s).call = s.call := rfl
@[simp] theorem setPanel_description (u : Panel) (s : State) : (setPanel u s).description = s.description := rfl
@[simp] theorem setPanel_panel (u : Panel) (s : State) : (setPanel u s).panel = u := rfl
@[simp] theorem setPanel_store (u : Panel) (s : State) : (setPanel u s).store = s.store := rfl
@[simp] theorem setPanel_ports (u : Panel) (s : State) : (setPanel u s).ports = s.ports := rfl
@[simp] theorem setPanel_notices (u : Panel) (s : State) : (setPanel u s).notices = s.notices := rfl
@[simp] theorem setPanel_mail (u : Panel) (s : State) : (setPanel u s).mail = s.mail := rfl
@[simp] theorem setPanel_draws (u : Panel) (s : State) : (setPanel u s).draws = s.draws := rfl
@[simp] theorem setPanel_pending (u : Panel) (s : State) : (setPanel u s).pending = s.pending := rfl

@[simp] theorem setKey_clock (k : Fin 64) (r : KeyRecord) (s : State) : (setKey k r s).clock = s.clock := rfl
@[simp] theorem setKey_straps (k : Fin 64) (r : KeyRecord) (s : State) : (setKey k r s).straps = s.straps := rfl
@[simp] theorem setKey_programme (k : Fin 64) (r : KeyRecord) (s : State) : (setKey k r s).programme = s.programme := rfl
@[simp] theorem setKey_zoneUnit (k : Fin 64) (r : KeyRecord) (s : State) : (setKey k r s).zoneUnit = s.zoneUnit := rfl
@[simp] theorem setKey_engine (k : Fin 64) (r : KeyRecord) (s : State) : (setKey k r s).engine = s.engine := rfl
@[simp] theorem setKey_level (k : Fin 64) (r : KeyRecord) (s : State) : (setKey k r s).level = s.level := rfl
@[simp] theorem setKey_admission (k : Fin 64) (r : KeyRecord) (s : State) : (setKey k r s).admission = s.admission := rfl
@[simp] theorem setKey_call (k : Fin 64) (r : KeyRecord) (s : State) : (setKey k r s).call = s.call := rfl
@[simp] theorem setKey_description (k : Fin 64) (r : KeyRecord) (s : State) : (setKey k r s).description = s.description := rfl
@[simp] theorem setKey_panel (k : Fin 64) (r : KeyRecord) (s : State) : (setKey k r s).panel = { s.panel with keys := s.panel.keys.set k r } := rfl
@[simp] theorem setKey_store (k : Fin 64) (r : KeyRecord) (s : State) : (setKey k r s).store = s.store := rfl
@[simp] theorem setKey_ports (k : Fin 64) (r : KeyRecord) (s : State) : (setKey k r s).ports = s.ports := rfl
@[simp] theorem setKey_notices (k : Fin 64) (r : KeyRecord) (s : State) : (setKey k r s).notices = s.notices := rfl
@[simp] theorem setKey_mail (k : Fin 64) (r : KeyRecord) (s : State) : (setKey k r s).mail = s.mail := rfl
@[simp] theorem setKey_draws (k : Fin 64) (r : KeyRecord) (s : State) : (setKey k r s).draws = s.draws := rfl
@[simp] theorem setKey_pending (k : Fin 64) (r : KeyRecord) (s : State) : (setKey k r s).pending = s.pending := rfl

@[simp] theorem setLamp_clock (l : Fin 16) (r : Lamp) (s : State) : (setLamp l r s).clock = s.clock := rfl
@[simp] theorem setLamp_straps (l : Fin 16) (r : Lamp) (s : State) : (setLamp l r s).straps = s.straps := rfl
@[simp] theorem setLamp_programme (l : Fin 16) (r : Lamp) (s : State) : (setLamp l r s).programme = s.programme := rfl
@[simp] theorem setLamp_zoneUnit (l : Fin 16) (r : Lamp) (s : State) : (setLamp l r s).zoneUnit = s.zoneUnit := rfl
@[simp] theorem setLamp_engine (l : Fin 16) (r : Lamp) (s : State) : (setLamp l r s).engine = s.engine := rfl
@[simp] theorem setLamp_level (l : Fin 16) (r : Lamp) (s : State) : (setLamp l r s).level = s.level := rfl
@[simp] theorem setLamp_admission (l : Fin 16) (r : Lamp) (s : State) : (setLamp l r s).admission = s.admission := rfl
@[simp] theorem setLamp_call (l : Fin 16) (r : Lamp) (s : State) : (setLamp l r s).call = s.call := rfl
@[simp] theorem setLamp_description (l : Fin 16) (r : Lamp) (s : State) : (setLamp l r s).description = s.description := rfl
@[simp] theorem setLamp_panel (l : Fin 16) (r : Lamp) (s : State) : (setLamp l r s).panel = { s.panel with lamps := s.panel.lamps.set l r } := rfl
@[simp] theorem setLamp_store (l : Fin 16) (r : Lamp) (s : State) : (setLamp l r s).store = s.store := rfl
@[simp] theorem setLamp_ports (l : Fin 16) (r : Lamp) (s : State) : (setLamp l r s).ports = s.ports := rfl
@[simp] theorem setLamp_notices (l : Fin 16) (r : Lamp) (s : State) : (setLamp l r s).notices = s.notices := rfl
@[simp] theorem setLamp_mail (l : Fin 16) (r : Lamp) (s : State) : (setLamp l r s).mail = s.mail := rfl
@[simp] theorem setLamp_draws (l : Fin 16) (r : Lamp) (s : State) : (setLamp l r s).draws = s.draws := rfl
@[simp] theorem setLamp_pending (l : Fin 16) (r : Lamp) (s : State) : (setLamp l r s).pending = s.pending := rfl

@[simp] theorem setStore_clock (u : Store) (s : State) : (setStore u s).clock = s.clock := rfl
@[simp] theorem setStore_straps (u : Store) (s : State) : (setStore u s).straps = s.straps := rfl
@[simp] theorem setStore_programme (u : Store) (s : State) : (setStore u s).programme = s.programme := rfl
@[simp] theorem setStore_zoneUnit (u : Store) (s : State) : (setStore u s).zoneUnit = s.zoneUnit := rfl
@[simp] theorem setStore_engine (u : Store) (s : State) : (setStore u s).engine = s.engine := rfl
@[simp] theorem setStore_level (u : Store) (s : State) : (setStore u s).level = s.level := rfl
@[simp] theorem setStore_admission (u : Store) (s : State) : (setStore u s).admission = s.admission := rfl
@[simp] theorem setStore_call (u : Store) (s : State) : (setStore u s).call = s.call := rfl
@[simp] theorem setStore_description (u : Store) (s : State) : (setStore u s).description = s.description := rfl
@[simp] theorem setStore_panel (u : Store) (s : State) : (setStore u s).panel = s.panel := rfl
@[simp] theorem setStore_store (u : Store) (s : State) : (setStore u s).store = u := rfl
@[simp] theorem setStore_ports (u : Store) (s : State) : (setStore u s).ports = s.ports := rfl
@[simp] theorem setStore_notices (u : Store) (s : State) : (setStore u s).notices = s.notices := rfl
@[simp] theorem setStore_mail (u : Store) (s : State) : (setStore u s).mail = s.mail := rfl
@[simp] theorem setStore_draws (u : Store) (s : State) : (setStore u s).draws = s.draws := rfl
@[simp] theorem setStore_pending (u : Store) (s : State) : (setStore u s).pending = s.pending := rfl

@[simp] theorem setLevel_clock (u : LevelMonitor) (s : State) : (setLevel u s).clock = s.clock := rfl
@[simp] theorem setLevel_straps (u : LevelMonitor) (s : State) : (setLevel u s).straps = s.straps := rfl
@[simp] theorem setLevel_programme (u : LevelMonitor) (s : State) : (setLevel u s).programme = s.programme := rfl
@[simp] theorem setLevel_zoneUnit (u : LevelMonitor) (s : State) : (setLevel u s).zoneUnit = s.zoneUnit := rfl
@[simp] theorem setLevel_engine (u : LevelMonitor) (s : State) : (setLevel u s).engine = s.engine := rfl
@[simp] theorem setLevel_level (u : LevelMonitor) (s : State) : (setLevel u s).level = u := rfl
@[simp] theorem setLevel_admission (u : LevelMonitor) (s : State) : (setLevel u s).admission = s.admission := rfl
@[simp] theorem setLevel_call (u : LevelMonitor) (s : State) : (setLevel u s).call = s.call := rfl
@[simp] theorem setLevel_description (u : LevelMonitor) (s : State) : (setLevel u s).description = s.description := rfl
@[simp] theorem setLevel_panel (u : LevelMonitor) (s : State) : (setLevel u s).panel = s.panel := rfl
@[simp] theorem setLevel_store (u : LevelMonitor) (s : State) : (setLevel u s).store = s.store := rfl
@[simp] theorem setLevel_ports (u : LevelMonitor) (s : State) : (setLevel u s).ports = s.ports := rfl
@[simp] theorem setLevel_notices (u : LevelMonitor) (s : State) : (setLevel u s).notices = s.notices := rfl
@[simp] theorem setLevel_mail (u : LevelMonitor) (s : State) : (setLevel u s).mail = s.mail := rfl
@[simp] theorem setLevel_draws (u : LevelMonitor) (s : State) : (setLevel u s).draws = s.draws := rfl
@[simp] theorem setLevel_pending (u : LevelMonitor) (s : State) : (setLevel u s).pending = s.pending := rfl

@[simp] theorem setSound_clock (c : Fin 6) (r : SoundChannel) (s : State) : (setSound c r s).clock = s.clock := rfl
@[simp] theorem setSound_straps (c : Fin 6) (r : SoundChannel) (s : State) : (setSound c r s).straps = s.straps := rfl
@[simp] theorem setSound_programme (c : Fin 6) (r : SoundChannel) (s : State) : (setSound c r s).programme = s.programme := rfl
@[simp] theorem setSound_zoneUnit (c : Fin 6) (r : SoundChannel) (s : State) : (setSound c r s).zoneUnit = s.zoneUnit := rfl
@[simp] theorem setSound_engine (c : Fin 6) (r : SoundChannel) (s : State) : (setSound c r s).engine = s.engine := rfl
@[simp] theorem setSound_level (c : Fin 6) (r : SoundChannel) (s : State) : (setSound c r s).level = { s.level with sound := s.level.sound.set c r } := rfl
@[simp] theorem setSound_admission (c : Fin 6) (r : SoundChannel) (s : State) : (setSound c r s).admission = s.admission := rfl
@[simp] theorem setSound_call (c : Fin 6) (r : SoundChannel) (s : State) : (setSound c r s).call = s.call := rfl
@[simp] theorem setSound_description (c : Fin 6) (r : SoundChannel) (s : State) : (setSound c r s).description = s.description := rfl
@[simp] theorem setSound_panel (c : Fin 6) (r : SoundChannel) (s : State) : (setSound c r s).panel = s.panel := rfl
@[simp] theorem setSound_store (c : Fin 6) (r : SoundChannel) (s : State) : (setSound c r s).store = s.store := rfl
@[simp] theorem setSound_ports (c : Fin 6) (r : SoundChannel) (s : State) : (setSound c r s).ports = s.ports := rfl
@[simp] theorem setSound_notices (c : Fin 6) (r : SoundChannel) (s : State) : (setSound c r s).notices = s.notices := rfl
@[simp] theorem setSound_mail (c : Fin 6) (r : SoundChannel) (s : State) : (setSound c r s).mail = s.mail := rfl
@[simp] theorem setSound_draws (c : Fin 6) (r : SoundChannel) (s : State) : (setSound c r s).draws = s.draws := rfl
@[simp] theorem setSound_pending (c : Fin 6) (r : SoundChannel) (s : State) : (setSound c r s).pending = s.pending := rfl

@[simp] theorem setEngine_clock (u : Engine) (s : State) : (setEngine u s).clock = s.clock := rfl
@[simp] theorem setEngine_straps (u : Engine) (s : State) : (setEngine u s).straps = s.straps := rfl
@[simp] theorem setEngine_programme (u : Engine) (s : State) : (setEngine u s).programme = s.programme := rfl
@[simp] theorem setEngine_zoneUnit (u : Engine) (s : State) : (setEngine u s).zoneUnit = s.zoneUnit := rfl
@[simp] theorem setEngine_engine (u : Engine) (s : State) : (setEngine u s).engine = u := rfl
@[simp] theorem setEngine_level (u : Engine) (s : State) : (setEngine u s).level = s.level := rfl
@[simp] theorem setEngine_admission (u : Engine) (s : State) : (setEngine u s).admission = s.admission := rfl
@[simp] theorem setEngine_call (u : Engine) (s : State) : (setEngine u s).call = s.call := rfl
@[simp] theorem setEngine_description (u : Engine) (s : State) : (setEngine u s).description = s.description := rfl
@[simp] theorem setEngine_panel (u : Engine) (s : State) : (setEngine u s).panel = s.panel := rfl
@[simp] theorem setEngine_store (u : Engine) (s : State) : (setEngine u s).store = s.store := rfl
@[simp] theorem setEngine_ports (u : Engine) (s : State) : (setEngine u s).ports = s.ports := rfl
@[simp] theorem setEngine_notices (u : Engine) (s : State) : (setEngine u s).notices = s.notices := rfl
@[simp] theorem setEngine_mail (u : Engine) (s : State) : (setEngine u s).mail = s.mail := rfl
@[simp] theorem setEngine_draws (u : Engine) (s : State) : (setEngine u s).draws = s.draws := rfl
@[simp] theorem setEngine_pending (u : Engine) (s : State) : (setEngine u s).pending = s.pending := rfl

end Machine

end Sys2Proof
end

