-- ==== Sys2Proof/Laws/Frames.lean ====
section
/-! SUPPORT. What each shared operation may touch: one frame for each family of units, closed under composition, and
the frame of each operation stated with it. Proofs cite these instead of unfolding the operation. -/

namespace Sys2Proof.Machine

/-- `v` is `u` but for the zones and the last answers: the loops, the foyers and the views stay. -/
def ZoneUnit.withStacksOf (u v : ZoneUnit) : ZoneUnit :=
  { u with zones := v.zones, pushAnswer := v.pushAnswer, removalAnswer := v.removalAnswer }

/-- `t` is `s` but for the zones, the calls and what is handed. -/
def OnlyCalls (s t : State) : Prop :=
  t = { s with zoneUnit := s.zoneUnit.withStacksOf t.zoneUnit, call := t.call, mail := t.mail }

/-- `t` is `s` but for the zones and what is handed. -/
def OnlyZones (s t : State) : Prop := t = { s with zoneUnit := s.zoneUnit.withStacksOf t.zoneUnit, mail := t.mail }

/-- `t` is `s` but for the channels, the zones and what is handed. -/
def OnlyDescription (s t : State) : Prop :=
  t = { s with description := t.description, zoneUnit := s.zoneUnit.withStacksOf t.zoneUnit, mail := t.mail }

/-- `t` is `s` but for the Admission unit and what is handed. -/
def OnlyAdmission (s t : State) : Prop := t = { s with admission := t.admission, mail := t.mail }

/-- `t` is `s` but for the Panel unit and what is handed. -/
def OnlyPanel (s t : State) : Prop := t = { s with panel := t.panel, mail := t.mail }

/-- `t` is `s` but for the Programme unit and what is handed. -/
def OnlyProgramme (s t : State) : Prop := t = { s with programme := t.programme, mail := t.mail }

theorem OnlyCalls.refl (s : State) : OnlyCalls s s := rfl
theorem OnlyZones.refl (s : State) : OnlyZones s s := rfl
theorem OnlyDescription.refl (s : State) : OnlyDescription s s := rfl
theorem OnlyAdmission.refl (s : State) : OnlyAdmission s s := rfl
theorem OnlyPanel.refl (s : State) : OnlyPanel s s := rfl
theorem OnlyProgramme.refl (s : State) : OnlyProgramme s s := rfl

theorem OnlyCalls.trans {s t u : State} (h : OnlyCalls s t) (k : OnlyCalls t u) : OnlyCalls s u := by
  unfold OnlyCalls at *; rw [k, h]; rfl

theorem OnlyZones.trans {s t u : State} (h : OnlyZones s t) (k : OnlyZones t u) : OnlyZones s u := by
  unfold OnlyZones at *; rw [k, h]; rfl

theorem OnlyDescription.trans {s t u : State} (h : OnlyDescription s t) (k : OnlyDescription t u) : OnlyDescription s u := by
  unfold OnlyDescription at *; rw [k, h]; rfl

theorem OnlyAdmission.trans {s t u : State} (h : OnlyAdmission s t) (k : OnlyAdmission t u) : OnlyAdmission s u := by
  unfold OnlyAdmission at *; rw [k, h]

theorem OnlyPanel.trans {s t u : State} (h : OnlyPanel s t) (k : OnlyPanel t u) : OnlyPanel s u := by
  unfold OnlyPanel at *; rw [k, h]

theorem OnlyProgramme.trans {s t u : State} (h : OnlyProgramme s t) (k : OnlyProgramme t u) : OnlyProgramme s u := by
  unfold OnlyProgramme at *; rw [k, h]

theorem OnlyZones.calls {s t : State} (h : OnlyZones s t) : OnlyCalls s t := by
  unfold OnlyZones OnlyCalls at *; rw [h]; rfl

theorem OnlyZones.description {s t : State} (h : OnlyZones s t) : OnlyDescription s t := by
  unfold OnlyZones OnlyDescription at *; rw [h]; rfl

/-- A fold of steps of one frame has that frame. -/
theorem foldl_frame {α : Type} {R : State → State → Prop} (refl : ∀ s, R s s) (trans : ∀ {s t u}, R s t → R t u → R s u)
    {f : State → α → State} (step : ∀ s a, R s (f s a)) (l : List α) (s : State) : R s (l.foldl f s) := by
  induction l generalizing s with
  | nil => exact refl s
  | cons a l ih => exact trans (step s a) (ih _)

/-! ## The Zone unit's pushes and removals -/

theorem push_frame (q : PushRequest) (s : State) : OnlyZones s (push q s).2 := by
  unfold push; dsimp only; split <;> rfl

theorem remove_frame (o : Owner) (z : ZoneSet) (s : State) : OnlyZones s (remove o z s) := by
  unfold remove; dsimp only; split <;> rfl

/-! ## The Call unit -/

theorem startCall_frame (c : Call) (r : Source) (s : State) : OnlyCalls s (startCall c r s).2 := by
  have h := (push_frame (callPush c r) s).calls
  unfold startCall
  dsimp only
  split
  · exact h.trans rfl
  · exact h

theorem tryCall_frame (b : ZoneSet) (c : Call) (s : State) : OnlyCalls s (tryCall b c s).2 := by
  unfold tryCall
  split
  · split
    · exact startCall_frame _ _ _
    · rfl
  · rfl

theorem passOver_frame (l : List Call) (b : ZoneSet) (s : State) : OnlyCalls s (passOver l b s) := by
  induction l generalizing b s with
  | nil => rfl
  | cons c l ih => exact (tryCall_frame b c s).trans (ih _ _)

/-- A scheduling pass touches the zones, the calls and what is handed. -/
theorem pass_frame (s : State) : OnlyCalls s (pass s) := passOver_frame _ _ _

theorem leaveQueue_frame (c : Call) (o : CallOutcome) (s : State) : OnlyCalls s (leaveQueue c o s) := rfl

theorem endCall_frame (o : CallOutcome) (s : State) (c : Call) : OnlyCalls s (endCall o s c) := by
  unfold endCall
  split
  · rfl
  · exact ((remove_frame _ _ s).calls.trans (rfl : OnlyCalls _ (setCalls _ _))).trans (leaveQueue_frame _ _ _)

theorem endWithPass_frame (o : CallOutcome) (c : Call) (s : State) : OnlyCalls s (endWithPass o c s) :=
  (endCall_frame o s c).trans (pass_frame _)

theorem endAll_frame (w : Call → Bool) (s : State) : OnlyCalls s (endAll w s) := by
  unfold endAll
  dsimp only
  split
  · rfl
  · exact (foldl_frame OnlyCalls.refl OnlyCalls.trans (endCall_frame _) _ _).trans (pass_frame _)

theorem enqueue_frame (c : Call) (s : State) : OnlyCalls s (enqueue c s).2 := rfl

theorem takeSubmission_frame (c : Call) (s : State) : OnlyCalls s (takeSubmission c s) :=
  OnlyCalls.trans (t := answerSubmission (.accepted (enqueue c s).1) (enqueue c s).2) rfl (pass_frame _)

theorem submit_frame (c : Submission) (s : State) : OnlyCalls s (submit c s) := by
  unfold submit
  dsimp only
  split
  · unfold stepLost; split <;> rfl
  · split
    · exact takeSubmission_frame _ _
    · split
      · refine OnlyCalls.trans ?_ (takeSubmission_frame _ _)
        rfl
      · rfl

/-- R144–R147: the ends of a phrase, a silence, a note and a strike touch the Call unit and the Zone unit alone. -/
theorem contentEnd_frame (id : Nat) (s : State) : OnlyCalls s (contentEnd id s) := by
  unfold contentEnd
  split
  · exact endWithPass_frame _ _ _
  · exact OnlyCalls.refl s

theorem phraseEnd_frame (s : State) (n : Fin 3) : OnlyCalls s (phraseEnd s n) := by
  unfold phraseEnd
  repeat' split
  all_goals first | exact contentEnd_frame _ _ | rfl

theorem repeatSilenceEnd_frame (s : State) (n : Fin 3) : OnlyCalls s (repeatSilenceEnd s n) := by
  unfold repeatSilenceEnd
  repeat' split
  all_goals rfl

theorem chimeNoteEnd_frame (s : State) : OnlyCalls s (chimeNoteEnd s) := by
  unfold chimeNoteEnd
  repeat' split
  all_goals rfl

theorem chimeStrikeEnd_frame (s : State) : OnlyCalls s (chimeStrikeEnd s) := by
  unfold chimeStrikeEnd
  repeat' split
  all_goals first | exact contentEnd_frame _ _ | rfl

/-- What a block settles first touches the Call unit and the Zone unit alone. -/
theorem settleBlock_frame (s : State) : OnlyCalls s (settleBlock s) :=
  OnlyCalls.trans (t := settleRamps s) rfl
    ((foldl_frame OnlyCalls.refl OnlyCalls.trans phraseEnd_frame _ _).trans
      ((foldl_frame OnlyCalls.refl OnlyCalls.trans repeatSilenceEnd_frame _ _).trans
        ((chimeNoteEnd_frame _).trans (chimeStrikeEnd_frame _))))

/-! ## The Description unit -/

theorem handTally_frame (s : State) (d : Fin 4) : OnlyDescription s (handTally s d) := by
  unfold handTally; dsimp only; split <;> rfl

theorem handTallies_frame (s : State) : OnlyDescription s (handTallies s) :=
  foldl_frame OnlyDescription.refl OnlyDescription.trans handTally_frame _ _

theorem enter_frame (c : Fin 4) (t : TalkState) (e : Option Clock) (s : State) : OnlyDescription s (enter c t e s) := by
  unfold enter
  dsimp only
  split
  · rfl
  · refine OnlyDescription.trans ?_ (handTallies_frame _)
    split <;> rfl

theorem withdraw_frame (c : Fin 4) (s : State) : OnlyDescription s (withdraw c s) := (remove_frame _ _ _).description

/-- An evaluation touches the channels, the zones and what is handed. -/
theorem evaluate_frame (s : State) (c : Fin 4) : OnlyDescription s (evaluate s c) := by
  unfold evaluate
  dsimp only
  split
  · rfl
  · exact enter_frame _ _ _ _
  · exact (withdraw_frame _ _).trans (enter_frame _ _ _ _)
  · exact enter_frame _ _ _ _
  · split
    · exact (push_frame _ _).description.trans (enter_frame _ _ _ _)
    · rfl

theorem evaluateAll_frame (w : ChannelSettings → Bool) (s : State) : OnlyDescription s (evaluateAll w s) :=
  foldl_frame OnlyDescription.refl OnlyDescription.trans evaluate_frame _ _

theorem changeDescriber_frame (d : Fin 4) (r : Describer) (s : State) : OnlyDescription s (changeDescriber d r s) := by
  unfold changeDescriber
  split
  · rfl
  · exact OnlyDescription.trans (t := setDescription _ s) rfl (evaluateAll_frame _ _)

/-! ## The Admission unit -/

theorem workLamp_frame (s : State) (e : Fin 12) : OnlyAdmission s (workLamp s e) := by
  unfold workLamp
  dsimp only
  split
  · rfl
  · split <;> rfl

theorem workLamps_frame (s : State) : OnlyAdmission s (workLamps s) :=
  foldl_frame OnlyAdmission.refl OnlyAdmission.trans workLamp_frame _ _

theorem workRelay_frame (s : State) (f : Fin 6) : OnlyAdmission s (workRelay s f) := by
  unfold workRelay; dsimp only; split <;> rfl

theorem workRelays_frame (s : State) : OnlyAdmission s (workRelays s) :=
  foldl_frame OnlyAdmission.refl OnlyAdmission.trans workRelay_frame _ _

theorem listChanged_frame (s : State) : OnlyAdmission s (listChanged s) := (workRelays_frame s).trans (workLamps_frame _)

theorem selectionPass_frame (e : Fin 12) (s : State) : OnlyAdmission s (selectionPass e s) := by
  unfold selectionPass
  split
  · exact OnlyAdmission.trans (t := selectAt _ e s) rfl (workLamps_frame _)
  · rfl

theorem addParty_frame (e : Fin 12) (n : Nat) (o : PartyOrigin) (a : Bool) (s : State) :
    OnlyAdmission s (addParty e n o a s).2 := by
  unfold addParty
  dsimp only
  refine OnlyAdmission.trans (OnlyAdmission.trans ?_ (listChanged_frame _)) (selectionPass_frame _ _)
  rfl

theorem discard_frame (s : State) (q : Party) : OnlyAdmission s (discard s q) :=
  OnlyAdmission.trans (t := partyNotice q.number .discarded (dropParty q.number s)) rfl (listChanged_frame _)

theorem seat_frame (s : State) (q : Party) : OnlyAdmission s (seat s q) := by
  unfold seat
  dsimp only
  refine OnlyAdmission.trans ?_ (listChanged_frame _)
  rfl

theorem closeWindow_frame (h : Hall) (s : State) : OnlyAdmission s (closeWindow h s) := by
  unfold closeWindow
  split
  · rfl
  · refine OnlyAdmission.trans ?_ (workLamps_frame _)
    rfl

theorem discardHall_frame (h : Hall) (s : State) : OnlyAdmission s (discardHall h s) :=
  foldl_frame OnlyAdmission.refl OnlyAdmission.trans discard_frame _ _

theorem selectAt_frame (w : Window) (s : State) (e : Fin 12) : OnlyAdmission s (selectAt w e s) := rfl

theorem submitAdmissionCall_frame (h : Hall) (w : Window) (z : ZoneSet) (s : State) :
    OnlyAdmission s (submitAdmissionCall h w z s) := by
  unfold submitAdmissionCall
  split
  · split <;> rfl
  · rfl

theorem closingNotice_frame (h : Hall) (b : Bool) (w : Window) (s : State) : OnlyAdmission s (closingNotice h b w s) := by
  unfold closingNotice; split <;> rfl

theorem openWindow_frame (h : Hall) (c : WindowCause) (n : Option Nat) (s : State) : OnlyAdmission s (openWindow h c n s) := by
  unfold openWindow
  dsimp only
  refine OnlyAdmission.trans ?_ (listChanged_frame _)
  refine OnlyAdmission.trans ?_ (closingNotice_frame _ _ _ _)
  refine OnlyAdmission.trans ?_ (rfl : OnlyAdmission _ (windowNotice _ _ _ _))
  refine OnlyAdmission.trans ?_ (submitAdmissionCall_frame _ _ _ _)
  refine OnlyAdmission.trans ?_ (foldl_frame OnlyAdmission.refl OnlyAdmission.trans (selectAt_frame _) _ _)
  rfl

theorem retimeWindow_frame (h : Hall) (w : Window) (s : State) : OnlyAdmission s (retimeWindow h w s) := by
  unfold retimeWindow
  dsimp only
  refine OnlyAdmission.trans ?_ (workLamps_frame _)
  refine OnlyAdmission.trans ?_ (closingNotice_frame _ _ _ _)
  rfl

/-! ## The Panel unit -/

theorem deliver_frame (k : Fin 64) (r : Role) (e : KeyEvent) (s : State) : OnlyPanel s (deliver k r e s) := by
  unfold deliver
  split
  · rfl
  · split <;> rfl
  · split <;> rfl
  · split <;> rfl

theorem performDue_frame (s : State) (k : Fin 64) : OnlyPanel s (performDue s k) := by
  unfold performDue
  dsimp only
  split
  · rfl
  · split
    · rfl
    · refine OnlyPanel.trans ?_ (deliver_frame _ _ _ _)
      rfl
  · refine OnlyPanel.trans ?_ (deliver_frame _ _ _ _)
    rfl
  · refine OnlyPanel.trans ?_ (deliver_frame _ _ _ _)
    rfl
  · exact (OnlyPanel.trans (t := setKey k _ s) rfl (deliver_frame _ _ _ _)).trans rfl
  · split
    · rfl
    · refine OnlyPanel.trans ?_ (deliver_frame _ _ _ _)
      rfl

theorem closeSweep_frame (s : State) : OnlyPanel s (closeSweep s) := by
  unfold closeSweep; split <;> rfl

theorem finishSweep_frame (s : State) : OnlyPanel s (finishSweep s) :=
  (foldl_frame OnlyPanel.refl OnlyPanel.trans performDue_frame _ _).trans (closeSweep_frame _)

theorem performUpTo_frame (k : Fin 64) (s : State) : OnlyPanel s (performUpTo k s) :=
  (foldl_frame OnlyPanel.refl OnlyPanel.trans performDue_frame _ _).trans (closeSweep_frame _)

/-! ## The Programme unit -/

theorem changePhase_frame (h : Hall) (r : HallRecord) (a : Option Admission) (c : Cause) (s : State) :
    OnlyProgramme s (changePhase h r a c s) := rfl

theorem fireStep_frame (h : Hall) (s : State) : OnlyProgramme s (fireStep h s) := by
  unfold fireStep
  dsimp only
  split
  · split <;> rfl
  · rfl

theorem fireAtOnce_frame (h : Hall) (n : Nat) (s : State) : OnlyProgramme s (fireAtOnce h n s) := by
  induction n generalizing s with
  | zero => rfl
  | succ n ih =>
    unfold fireAtOnce
    split
    · exact (fireStep_frame h s).trans (ih _)
    · rfl

end Sys2Proof.Machine
end

