-- ==== Sys2Proof/Laws/Memory.lean ====
section
/-! SUPPORT. The phrase flash: what a read sees after each operation, and that every operation keeps the canonical
form. -/

namespace Sys2Proof.Machine

/-- Every listed cell lies at or above an address. -/
def Flash.above (a : Nat) (m : Flash) : Prop := ∀ c ∈ m, a < c.1

theorem Flash.wf_iff (m : Flash) :
    m.wf = true ↔ (∀ c ∈ m, c.2 ≠ erasedByte ∧ c.1 < flashSize) ∧ m.Pairwise (fun c d => c.1 < d.1) := by
  induction m with
  | nil => simp [Flash.wf]
  | cons c rest ih =>
    cases rest with
    | nil => simp [Flash.wf]
    | cons d more =>
      simp only [Flash.wf, Bool.and_eq_true, bne_iff_ne, ne_eq, decide_eq_true_eq, ih, List.mem_cons, List.pairwise_cons,
        forall_eq_or_imp]
      constructor
      · rintro ⟨⟨hc, hcd⟩, ⟨hd, hall⟩, hdm, hm⟩
        exact ⟨⟨⟨hc, Nat.lt_trans hcd hd.2⟩, hd, hall⟩, ⟨hcd, fun x hx => Nat.lt_trans hcd (hdm x hx)⟩, hdm, hm⟩
      · rintro ⟨⟨hc, hd, hall⟩, ⟨hcd, _⟩, hdm, hm⟩
        exact ⟨⟨hc.1, hcd⟩, ⟨hd, hall⟩, hdm, hm⟩

theorem Flash.wf_nil : Flash.wf [] = true := rfl

theorem Flash.wf_tail {c : Host.Cell} {m : Flash} (h : Flash.wf (c :: m) = true) : m.wf = true := by
  rw [Flash.wf_iff] at h ⊢
  exact ⟨fun d hd => h.1 d (List.mem_cons_of_mem _ hd), (List.pairwise_cons.mp h.2).2⟩

theorem Flash.wf_head {c : Host.Cell} {m : Flash} (h : Flash.wf (c :: m) = true) :
    c.2 ≠ erasedByte ∧ c.1 < flashSize ∧ ∀ d ∈ m, c.1 < d.1 := by
  rw [Flash.wf_iff] at h
  exact ⟨(h.1 c List.mem_cons_self).1, (h.1 c List.mem_cons_self).2, (List.pairwise_cons.mp h.2).1⟩

theorem Flash.wf_cons {c : Host.Cell} {m : Flash} (hb : c.2 ≠ erasedByte) (hs : c.1 < flashSize) (ha : ∀ d ∈ m, c.1 < d.1)
    (hm : m.wf = true) : Flash.wf (c :: m) = true := by
  rw [Flash.wf_iff] at hm ⊢
  refine ⟨?_, List.pairwise_cons.mpr ⟨ha, hm.2⟩⟩
  intro d hd
  rcases List.mem_cons.mp hd with rfl | hd
  · exact ⟨hb, hs⟩
  · exact hm.1 d hd

/-- A sublist of a canonical flash is canonical. -/
theorem Flash.wf_filter {m : Flash} (p : Host.Cell → Bool) (h : m.wf = true) : Flash.wf (m.filter p) = true := by
  rw [Flash.wf_iff] at h ⊢
  exact ⟨fun c hc => h.1 c (List.mem_filter.mp hc).1, h.2.filter p⟩

theorem Flash.put_go_mem {a : Nat} {b : Byte} {m : Flash} {d : Host.Cell} (h : d ∈ Flash.put.go a b m) : d = (a, b) ∨ d ∈ m := by
  induction m with
  | nil =>
    simp only [Flash.put.go] at h
    split at h <;> simp_all
  | cons c rest ih =>
    simp only [Flash.put.go] at h
    split at h
    · rcases List.mem_cons.mp h with rfl | h
      · exact .inr List.mem_cons_self
      · exact (ih h).imp id (List.mem_cons_of_mem _)
    · split at h
      · split at h
        · exact .inr (List.mem_cons_of_mem _ h)
        · exact (List.mem_cons.mp h).imp id (List.mem_cons_of_mem _)
      · split at h
        · exact .inr h
        · exact List.mem_cons.mp h

theorem Flash.put_go_wf {a : Nat} {b : Byte} {m : Flash} (ha : a < flashSize) (h : m.wf = true) :
    Flash.wf (Flash.put.go a b m) = true := by
  induction m with
  | nil =>
    simp only [Flash.put.go]
    split
    · rfl
    · exact Flash.wf_cons ‹_› ha (by simp) rfl
  | cons c rest ih =>
    have ht := Flash.wf_tail h
    obtain ⟨hb, hs, hr⟩ := Flash.wf_head h
    simp only [Flash.put.go]
    split
    · refine Flash.wf_cons hb hs ?_ (ih ht)
      intro d hd
      rcases Flash.put_go_mem hd with rfl | hd
      · assumption
      · exact hr d hd
    · split
      · split
        · exact ht
        · exact Flash.wf_cons ‹_› ha (fun d hd => ‹c.1 = a› ▸ hr d hd) ht
      · split
        · exact h
        · refine Flash.wf_cons ‹_› ha ?_ h
          intro d hd
          rcases List.mem_cons.mp hd with rfl | hd
          · show a < _; omega
          · exact Nat.lt_trans (by show a < _; omega) (hr d hd)

/-- Setting a byte keeps the canonical form. -/
theorem Flash.wf_put {m : Flash} (a : Nat) (b : Byte) (h : m.wf = true) : (m.put a b).wf = true := by
  unfold Flash.put
  split
  · exact h
  · exact Flash.put_go_wf (by omega) h

theorem Flash.wf_putAll {m : Flash} (a : Nat) (bs : List Byte) (h : m.wf = true) : (m.putAll a bs).wf = true := by
  induction bs generalizing m a with
  | nil => exact h
  | cons b bs ih => exact ih _ (Flash.wf_put _ _ h)

theorem Flash.wf_putCells {m : Flash} (cs : List Host.Cell) (h : m.wf = true) : (m.putCells cs).wf = true := by
  induction cs generalizing m with
  | nil => exact h
  | cons c cs ih => exact ih (Flash.wf_put _ _ h)

theorem Flash.wf_erase {m : Flash} (sector : Nat) (h : m.wf = true) : (m.erase sector).wf = true :=
  Flash.wf_filter _ h

theorem Flash.wf_program {m : Flash} (a : Nat) (bs : List Byte) (h : m.wf = true) : (m.program a bs).wf = true := by
  induction bs generalizing m a with
  | nil => exact h
  | cons b bs ih => exact ih _ (Flash.wf_put _ _ h)

theorem wf_cutErase {m : Flash} (draw sector : Nat) (h : m.wf = true) : (cutErase draw m sector).wf = true :=
  Flash.wf_filter _ h

theorem wf_cutProgram {m : Flash} (draw a : Nat) (bs : List Byte) (h : m.wf = true) :
    (cutProgram draw m a bs).wf = true := by
  induction bs generalizing m a with
  | nil => exact h
  | cons b bs ih =>
    simp only [cutProgram]
    split
    · exact ih _ (Flash.wf_put _ _ h)
    · exact ih _ h

theorem wf_savedPages {m : Flash} (image : List Byte) (pages : Nat) (h : m.wf = true) :
    (savedPages m image pages).wf = true :=
  Flash.wf_putAll _ _ (Flash.wf_erase _ h)

theorem wf_cutSave {m : Flash} (draw : Nat) (image : List Byte) (seen : Nat) (h : m.wf = true) :
    (cutSave draw m image seen).wf = true := by
  unfold cutSave
  split
  · exact wf_cutErase _ _ h
  · exact wf_cutProgram _ _ _ (wf_savedPages _ _ h)

/-- Whatever an interruption leaves is in canonical form. -/
theorem wf_cutFlash {s : State} (h : s.store.flash.wf = true) : (cutFlash s).wf = true := by
  unfold cutFlash
  split
  · exact wf_cutProgram _ _ _ h
  · exact wf_cutErase _ _ h
  · exact wf_cutSave _ _ _ h
  · exact h

/-! ## Reads after writes -/

theorem Flash.read_lt {m : Flash} {a : Nat} (h : ∀ c ∈ m, a < c.1) : m.read a = erasedByte := by
  cases m with
  | nil => rfl
  | cons c rest =>
    have := h c List.mem_cons_self
    simp only [Flash.read]
    rw [if_neg (by omega), if_pos this]

theorem Flash.read_put_go {m : Flash} (a : Nat) (b : Byte) (h : m.wf = true) (x : Nat) :
    Flash.read (Flash.put.go a b m) x = if x = a then b else m.read x := by
  induction m with
  | nil =>
    simp only [Flash.put.go]
    split
    · subst b; simp [Flash.read]
    · simp only [Flash.read]
      by_cases hx : x = a
      · simp [hx]
      · simp [hx, Ne.symm hx]
  | cons c rest ih =>
    have ht := Flash.wf_tail h
    obtain ⟨_, _, hr⟩ := Flash.wf_head h
    simp only [Flash.put.go]
    split
    · simp only [Flash.read, ih ht]
      split
      · rw [if_neg (by omega)]
      · split
        · rw [if_neg (by omega)]
        · rfl
    · split
      · have hc : c.1 = a := ‹_›
        split
        · simp only [Flash.read]
          subst b
          split
          · subst x; exact Flash.read_lt (fun d hd => hc ▸ hr d hd)
          · rw [if_neg (by omega)]
            split
            · exact Flash.read_lt (fun d hd => Nat.lt_trans ‹_› (hr d hd))
            · rfl
        · simp only [Flash.read, hc]
          by_cases hx : x = a
          · simp [hx]
          · simp [hx, Ne.symm hx]
      · split
        · subst b
          split
          · subst x; simp only [Flash.read]; rw [if_neg (by omega), if_pos (by omega)]
          · rfl
        · simp only [Flash.read]
          by_cases hx : x = a
          · simp [hx]
          · rw [if_neg (Ne.symm hx), if_neg hx]
            split
            · rw [if_neg (by omega), if_pos (by omega)]
            · rfl

/-- What a read sees after one byte is set. -/
theorem Flash.read_put {m : Flash} (a : Nat) (b : Byte) (h : m.wf = true) (x : Nat) :
    (m.put a b).read x = if x = a ∧ a < flashSize then b else m.read x := by
  unfold Flash.put
  split
  · rw [if_neg (by omega)]
  · rw [Flash.read_put_go a b h x]
    have : a < flashSize := by omega
    simp [this]

/-- R171: erasing sets every byte of the sector to FFH and no other byte. -/
theorem Flash.read_erase (m : Flash) (sector x : Nat) (h : m.wf = true) :
    (m.erase sector).read x = if x / 0x10000 = sector then erasedByte else m.read x := by
  induction m with
  | nil => simp [Flash.erase, Flash.read]
  | cons c rest ih =>
    have ht := Flash.wf_tail h
    obtain ⟨_, _, hr⟩ := Flash.wf_head h
    have ih := ih ht
    unfold Flash.erase at ih ⊢
    rw [List.filter_cons]
    by_cases hc : c.1 / 0x10000 = sector
    case neg =>
      rw [if_pos (by simpa using hc)]
      simp only [Flash.read, ih]
      split
      · subst x; rw [if_neg hc]
      · split
        · split <;> rfl
        · rfl
    case pos =>
      rw [if_neg (by simpa using hc), ih]
      split
      · rfl
      · simp only [Flash.read]
        rw [if_neg (fun e => by subst x; contradiction)]
        split
        · exact Flash.read_lt (fun d hd => Nat.lt_trans ‹_› (hr d hd))
        · rfl

/-- R176: programming makes each byte of the run the AND of its former value and the buffer byte, and no other. -/
theorem Flash.read_program {m : Flash} (a : Nat) (bs : List Byte) (h : m.wf = true) (hs : a + bs.length ≤ flashSize) (x : Nat) :
    (m.program a bs).read x = if h : a ≤ x ∧ x < a + bs.length then m.read x &&& bs[x - a]'(by omega) else m.read x := by
  induction bs generalizing m a with
  | nil => simp only [Flash.program]; rw [dif_neg (by simp)]
  | cons b bs ih =>
    simp only [Flash.program, List.length_cons] at hs ⊢
    rw [ih _ (Flash.wf_put _ _ h) (by omega), Flash.read_put _ _ h]
    by_cases hx : x = a
    · subst x
      rw [dif_neg (by omega), dif_pos (by omega), if_pos ⟨rfl, by omega⟩]
      simp
    · simp only [hx, false_and, if_false]
      by_cases hr : a + 1 ≤ x ∧ x < a + 1 + bs.length
      · rw [dif_pos hr, dif_pos (by omega)]
        congr 1
        have : x - a = (x - (a + 1)) + 1 := by omega
        simp [this]
      · rw [dif_neg hr, dif_neg (by omega)]

/-- The flash right after reset is in canonical form. -/
theorem reset_flash_wf : State.reset.store.flash.wf = true := rfl

end Sys2Proof.Machine
end

