-- ==== Sys2Proof/Laws/Operations.lean ====
section
/-! SUPPORT. What each shared operation does: requests and answers, sets of zones, pushes and removals, fresh ids and
numbers. -/

namespace Sys2Proof.Machine

/-! ## Requests -/

/-- A request that waits for its unit is taken and answered as the unit says. -/
theorem takeRequest_waiting {code : Byte} {p : Port} {s : State} {ps : List Byte} (unit : List Byte → State → Answer)
    (h : (s.ports.get p).request = some ⟨code, ps⟩) :
    takeRequest code p s unit = .next (respond p (unit ps (withoutRequest p s))) := by
  simp [takeRequest, h]

/-- With no such request waiting nothing is taken. -/
theorem takeRequest_absent {code : Byte} {p : Port} {s : State} (unit : List Byte → State → Answer)
    (h : ∀ r, (s.ports.get p).request = some r → r.code ≠ code) : takeRequest code p s unit = .next s := by
  unfold takeRequest
  split
  · next r hr => rw [if_neg (h r hr)]
  · rfl

/-- Taking a request always answers a next state. -/
theorem takeRequest_next (code : Byte) (p : Port) (s : State) (unit : List Byte → State → Answer) :
    ∃ t, takeRequest code p s unit = .next t := by
  unfold takeRequest
  split
  · split <;> exact ⟨_, rfl⟩
  · exact ⟨_, rfl⟩

@[simp] theorem withoutRequest_tag (p : Port) (s : State) : ((withoutRequest p s).ports.get p).tag = (s.ports.get p).tag := by
  simp [withoutRequest]

/-- R191: an answered port is READY with the status, its request's tag and the payload, and awaits nothing. -/
theorem answer_ready (p : Port) (st : Status) (pl : List Byte) (s : State) :
    ((answer p st pl s).ports.get p).state = .ready ∧
    ((answer p st pl s).ports.get p).reply = some ⟨st, (s.ports.get p).tag.getD 0, pl⟩ ∧
    ((answer p st pl s).ports.get p).tag = none ∧ ((answer p st pl s).ports.get p).request = none := by
  simp [answer]

/-- The other ports do not change. -/
theorem answer_other {p q : Port} (st : Status) (pl : List Byte) (s : State) (h : p ≠ q) :
    (answer p st pl s).ports.get q = s.ports.get q := by
  simp [answer, PerPort.get_set_ne _ _ h]

/-! ## Sets of zones -/

theorem mem_zonesOf {z : ZoneNo} {zs : ZoneSet} : z ∈ zonesOf zs ↔ zoneIn z zs = true := by
  simp [zonesOf, Table.mem_finUpTo]

theorem zoneIn_oneZone (z x : ZoneNo) : zoneIn x (oneZone z) = decide (z = x) := by
  unfold zoneIn oneZone
  rw [BitVec.getLsbD_twoPow]
  have : (z = x) ↔ (z.val = x.val) := Fin.ext_iff
  simp [this, z.isLt]

theorem zoneIn_fold (p : ZoneNo → Bool) (l : List ZoneNo) (zs : ZoneSet) (z : ZoneNo) :
    zoneIn z (l.foldl (fun a x => if p x then a ||| oneZone x else a) zs) = (zoneIn z zs || (p z && decide (z ∈ l))) := by
  induction l generalizing zs with
  | nil => simp
  | cons x l ih =>
    rw [List.foldl_cons, ih]
    by_cases hp : p x
    · rw [if_pos hp]
      have : zoneIn z (zs ||| oneZone x) = (zoneIn z zs || decide (x = z)) := by
        rw [← zoneIn_oneZone]; simp [zoneIn]
      rw [this]
      by_cases hz : z = x
      · subst hz; simp [hp]
      · simp [hz, Ne.symm hz]
    · rw [if_neg hp]
      by_cases hz : z = x
      · subst hz; simp [hp]
      · simp [hz]

/-- The set of the zones that meet a test. -/
@[simp] theorem zoneIn_zoneSetOf (p : ZoneNo → Bool) (z : ZoneNo) : zoneIn z (zoneSetOf p) = p z := by
  unfold zoneSetOf
  rw [zoneIn_fold]
  simp [zoneIn, Table.mem_finUpTo]

/-- A set of zones is its members. -/
theorem zoneSet_ext {a b : ZoneSet} (h : ∀ z, zoneIn z a = zoneIn z b) : a = b :=
  BitVec.eq_of_getLsbD_eq fun i hi => h ⟨i, hi⟩

theorem zoneSet_eq_zero {a : ZoneSet} : a = 0 ↔ ∀ z, zoneIn z a = false := by
  constructor
  · rintro rfl z; simp [zoneIn]
  · intro h; exact zoneSet_ext fun z => by rw [h z]; simp [zoneIn]

/-! ## Pushes and removals (R38, R39) -/

/-- R38: a push is accepted exactly when every target zone passes the four tests. -/
theorem push_accepted_iff (q : PushRequest) (s : State) :
    (push q s).1 = true ↔ ∀ z, zoneIn z q.targets = true → pushTest s.zoneUnit q z = none := by
  have : pushFailures s.zoneUnit q = [] ↔ ∀ z, zoneIn z q.targets = true → pushTest s.zoneUnit q z = none := by
    simp [pushFailures, List.filterMap_eq_nil_iff, mem_zonesOf]
  unfold push
  dsimp only
  split
  · next h => simpa using this.mp h
  · next h => simpa using fun k => h (this.mpr k)

/-- R38: an accepted push places its entry on top of every target stack, and moves none of the others. -/
theorem push_accepted_stack {q : PushRequest} {s : State} (h : (push q s).1 = true) (z : ZoneNo) :
    ((push q s).2.zoneUnit.zones.get z).stack =
      if zoneIn z q.targets then entryFor q (s.zoneUnit.zones.get z) :: (s.zoneUnit.zones.get z).stack
      else (s.zoneUnit.zones.get z).stack := by
  unfold push at h ⊢
  dsimp only at h ⊢
  split at h
  · next hf =>
    rw [if_pos hf]
    simp only [handReport_zoneUnit, setZoneUnit_zoneUnit, ZoneUnit.place, Table.get_mapIdx]
    split <;> rfl
  · cases h

/-- R38: a refused push changes no zone. -/
theorem push_refused_zones {q : PushRequest} {s : State} (h : (push q s).1 = false) :
    (push q s).2.zoneUnit.zones = s.zoneUnit.zones := by
  unfold push at h ⊢
  dsimp only at h ⊢
  split at h
  · cases h
  · next hf => rw [if_neg hf]; rfl

/-- R39: after a removal no named stack holds an entry of the owner, and every other entry keeps its order. -/
theorem remove_stack (o : Owner) (zs : ZoneSet) (s : State) (z : ZoneNo) :
    ((remove o zs s).zoneUnit.zones.get z).stack =
      if zoneIn z zs then (s.zoneUnit.zones.get z).stack.filter (fun e => e.owner != o) else (s.zoneUnit.zones.get z).stack := by
  unfold remove
  dsimp only
  split
  · next h =>
    have hz := zoneSet_eq_zero.mp h z
    simp only [removedZones, zoneIn_zoneSetOf, Bool.and_eq_false_iff] at hz
    simp only [setZoneUnit_zoneUnit]
    split
    · next hin =>
      rcases hz with hz | hz
      · rw [hin] at hz; cases hz
      · rw [List.filter_eq_self.mpr]
        intro e he
        simp only [holdsOn, List.any_eq_false, decide_eq_true_eq] at hz
        simpa using hz e he
    · rfl
  · simp only [handReport_zoneUnit, setZoneUnit_zoneUnit, ZoneUnit.takeOut, Table.get_mapIdx]
    split <;> rfl

/-- R38: the four tests keep the law of the stacks. -/
theorem push_keeps_law {u : ZoneUnit} {q : PushRequest} {z : ZoneNo} (h : pushTest u q z = none)
    (law : StackLaw (u.zones.get z).stack) : StackLaw (entryFor q (u.zones.get z) :: (u.zones.get z).stack) := by
  simp only [pushTest] at h
  split at h
  · cases h
  · split at h
    · cases h
    · split at h
      · cases h
      · next hl hp ho =>
        obtain ⟨_, hpw, hn⟩ := law
        refine ⟨by simpa using by omega, ?_, ?_⟩
        · rw [List.pairwise_cons]
          refine ⟨?_, hpw⟩
          cases hs : (u.zones.get z).stack with
          | nil => simp
          | cons t rest =>
            rw [hs] at hp hpw
            have ht : t.priority < q.priority := by simpa using hp
            intro e he
            rcases List.mem_cons.mp he with rfl | he
            · exact ht
            · exact Nat.lt_trans ((List.pairwise_cons.mp hpw).1 e he) ht
        · rw [List.map_cons, List.nodup_cons]
          refine ⟨?_, hn⟩
          intro hm
          obtain ⟨e, he, heq⟩ := List.mem_map.mp hm
          exact ho (List.any_eq_true.mpr ⟨e, he, by simpa [entryFor] using heq⟩)

/-- R39: a removal keeps the law of the stacks. -/
theorem filter_keeps_law {stack : List Overlay} (p : Overlay → Bool) (law : StackLaw stack) : StackLaw (stack.filter p) :=
  ⟨Nat.le_trans (List.length_filter_le _ _) law.1, law.2.1.filter p, (List.filter_sublist.map _).nodup law.2.2⟩

/-! ## Fresh ids and numbers (R87, R130) -/

/-- The values a counter tries: after k tries from n, in 1 to m. -/
def counterAt (m n k : Nat) : Nat := (n - 1 + k) % m + 1

/-- Distinct values outnumber a shorter list: some value that a counter tries is not in it. -/
theorem exists_untaken (m n : Nat) (taken : List Nat) (h : taken.length < m) :
    ∃ j, j < m ∧ counterAt m n j ∉ taken := by
  by_contra hc
  push Not at hc
  have hsub : (Finset.range m).image (counterAt m n) ⊆ taken.toFinset := by
    intro x hx
    obtain ⟨j, hj, rfl⟩ := Finset.mem_image.mp hx
    exact List.mem_toFinset.mpr (hc j (Finset.mem_range.mp hj))
  have hinj : Set.InjOn (counterAt m n) (Finset.range m) := by
    intro a ha b hb hab
    simp only [Finset.coe_range, Set.mem_Iio] at ha hb
    simp only [counterAt, Nat.add_right_cancel_iff] at hab
    have := (Nat.ModEq.add_left_cancel' (n - 1) hab : a ≡ b [MOD m])
    exact Nat.ModEq.eq_of_lt_of_lt this ha hb
  have hcard := Finset.card_le_card hsub
  rw [Finset.card_image_of_injOn hinj, Finset.card_range] at hcard
  exact absurd (Nat.le_trans hcard (List.toFinset_card_le taken)) (by omega)

theorem freeId_spec (l : List Call) (k n : Nat) (hn : 1 ≤ n ∧ n ≤ 255)
    (he : ∃ j, j < k ∧ ¬ l.any (fun q => q.id = counterAt 255 n j)) :
    ¬ l.any (fun q => q.id = freeId l k n) ∧ 1 ≤ freeId l k n ∧ freeId l k n ≤ 255 := by
  induction k generalizing n with
  | zero => obtain ⟨j, hj, _⟩ := he; omega
  | succ k ih =>
    have h0 : counterAt 255 n 0 = n := by simp only [counterAt]; omega
    have hnext : 1 ≤ nextId n ∧ nextId n ≤ 255 := by unfold nextId; split <;> omega
    have hshift : ∀ j, counterAt 255 (nextId n) j = counterAt 255 n (j + 1) := by
      intro j; unfold counterAt nextId; split <;> omega
    by_cases hm : l.any (fun q => q.id = n)
    · have heq : freeId l (k + 1) n = freeId l k (nextId n) := if_pos hm
      simp only [heq]
      apply ih _ hnext
      obtain ⟨j, hj, hq⟩ := he
      cases j with
      | zero => rw [h0] at hq; exact absurd hm hq
      | succ j => exact ⟨j, by omega, by rw [hshift]; exact hq⟩
    · have heq : freeId l (k + 1) n = n := if_neg hm
      simp only [heq]
      exact ⟨hm, hn⟩

/-- R130: the id given to a call is in range and no call in the queue holds it. -/
theorem freeId_fresh (l : List Call) (n : Nat) (hn : 1 ≤ n ∧ n ≤ 255) (hl : l.length < 255) :
    freeId l 255 n ∉ l.map Call.id ∧ 1 ≤ freeId l 255 n ∧ freeId l 255 n ≤ 255 := by
  obtain ⟨j, hj, hjn⟩ := exists_untaken 255 n (l.map Call.id) (by simpa using hl)
  have h := freeId_spec l 255 n hn ⟨j, hj, fun ha => hjn (by
    obtain ⟨c, hc, hi⟩ := List.any_eq_true.mp ha
    exact List.mem_map.mpr ⟨c, hc, by simpa using hi⟩)⟩
  refine ⟨fun hmem => h.1 ?_, h.2⟩
  obtain ⟨c, hc, hi⟩ := List.mem_map.mp hmem
  exact List.any_eq_true.mpr ⟨c, hc, by simpa using hi⟩

theorem freeNumber_spec (l : List Party) (k n : Nat) (hn : 1 ≤ n ∧ n ≤ 999)
    (he : ∃ j, j < k ∧ ¬ l.any (fun q => q.number = counterAt 999 n j)) :
    ¬ l.any (fun q => q.number = freeNumber l k n) ∧ 1 ≤ freeNumber l k n ∧ freeNumber l k n ≤ 999 := by
  induction k generalizing n with
  | zero => obtain ⟨j, hj, _⟩ := he; omega
  | succ k ih =>
    have h0 : counterAt 999 n 0 = n := by simp only [counterAt]; omega
    have hnext : 1 ≤ nextNumber n ∧ nextNumber n ≤ 999 := by unfold nextNumber; split <;> omega
    have hshift : ∀ j, counterAt 999 (nextNumber n) j = counterAt 999 n (j + 1) := by
      intro j; unfold counterAt nextNumber; split <;> omega
    by_cases hm : l.any (fun q => q.number = n)
    · have heq : freeNumber l (k + 1) n = freeNumber l k (nextNumber n) := if_pos hm
      simp only [heq]
      apply ih _ hnext
      obtain ⟨j, hj, hq⟩ := he
      cases j with
      | zero => rw [h0] at hq; exact absurd hm hq
      | succ j => exact ⟨j, by omega, by rw [hshift]; exact hq⟩
    · have heq : freeNumber l (k + 1) n = n := if_neg hm
      simp only [heq]
      exact ⟨hm, hn⟩

/-- R87: the number given to a party is in range and no party in the list holds it. -/
theorem freeNumber_fresh (l : List Party) (n : Nat) (hn : 1 ≤ n ∧ n ≤ 999) (hl : l.length < 999) :
    freeNumber l 999 n ∉ l.map Party.number ∧ 1 ≤ freeNumber l 999 n ∧ freeNumber l 999 n ≤ 999 := by
  obtain ⟨j, hj, hjn⟩ := exists_untaken 999 n (l.map Party.number) (by simpa using hl)
  have h := freeNumber_spec l 999 n hn ⟨j, hj, fun ha => hjn (by
    obtain ⟨c, hc, hi⟩ := List.any_eq_true.mp ha
    exact List.mem_map.mpr ⟨c, hc, by simpa using hi⟩)⟩
  refine ⟨fun hmem => h.1 ?_, h.2⟩
  obtain ⟨c, hc, hi⟩ := List.mem_map.mp hmem
  exact List.any_eq_true.mpr ⟨c, hc, by simpa using hi⟩

end Sys2Proof.Machine
end

