-- ==== Sys2Proof/WellFormed.lean ====
section
/-! DEFINITION. Which command terms stand for something that can come to the part: the operands in the ranges the
rules give them. The machine is total on ill-formed terms too. -/

namespace Sys2Proof

/-- R37, R129: an owner: a call id is 1–255. -/
def Owner.wf : Owner → Bool
  | .call id => decide (1 ≤ id) && decide (id ≤ 255)
  | .channel _ => true

/-- R37, R38: a push: priority 0–7, a non-empty target set, and a duck depth of −60..0 exactly from a description
channel's DUCK; the exemption only from a call (R42, R161). -/
def PushRequest.wf (q : PushRequest) : Bool :=
  q.owner.wf && decide (q.priority ≤ 7) && q.targets != 0 &&
    (match q.owner, q.depth with
     | .call _, none => true
     | .channel _, some d => decide (-60 ≤ d) && decide (d ≤ 0) && q.mode == .duck && !q.exempt
     | _, _ => false)

/-- R171: cells of the flash: addresses strictly rising and below 1000000H. -/
def cellsWf : List Host.Cell → Bool
  | [] => true
  | [c] => decide (c.1 < 0x1000000)
  | c :: d :: rest => decide (c.1 < d.1) && cellsWf (d :: rest)

/-- A well-formed command. -/
def Instr.wf : Instr → Bool
  | .inputFrame _ _ slots => slots.length == 8
  | .mixBlock sense => sense.length == 8 && sense.all fun l => l.length == 48
  | .overlayPush q => q.wf
  | .overlayRemoval owner zones => owner.wf && zones != 0
  | .callDeadlineExpiry id => decide (1 ≤ id) && decide (id ≤ 255)
  | .liveTimeout id => decide (1 ≤ id) && decide (id ≤ 255)
  | .eraseComplete left => cellsWf left
  | .saveComplete left => cellsWf left
  | _ => true

end Sys2Proof
end

