-- ==== Sys2Proof/Tests/Slice0.lean ====
section
/-! SUPPORT. Tests on small states: the well-formedness checks, values of the manual's tables and worked cases, and for
every obligation with hypotheses a state and operands that meet them. Each is about one step. -/

namespace Sys2Proof.Tests

-- One theorem at a time: each evaluates in the kernel, and so many at once would need a thread for each.
set_option Elab.async false

open Sys2Proof Sys2Proof.Machine

/-! ## Building small states and reading what a step leaves -/

/-- The state a command leaves. -/
def after (c : Instr) (s : State) : State :=
  match exec c s with
  | .next t => t
  | _ => s

/-- A state in which a request waits at a port, with tag 2AH. -/
def asking (p : Port) (code : Byte) (ps : List Byte) (s : State) : State :=
  { s with ports := s.ports.modify p fun r => { r with state := .pending, tag := some 0x2A, request := some ⟨code, ps⟩ } }

/-- The reply that a port holds. -/
def reply (s : State) (p : Port) : Option (Status × List Byte) := (s.ports.get p).reply.map fun r => (r.status, r.payload)

/-- What a request command answers at its port. -/
def answered (c : Instr) (p : Port) (code : Byte) (ps : List Byte) (s : State) : Option (Status × List Byte) :=
  reply (after c (asking p code ps s)) p

def hall (h : Hall) (f : HallRecord → HallRecord) (s : State) : State := setHall h (f (hallOf s h)) s

def mailed (f : Mail → Mail) (s : State) : State := { s with mail := f s.mail }

def admission (f : AdmissionUnit → AdmissionUnit) (s : State) : State := { s with admission := f s.admission }

def calls (f : CallUnit → CallUnit) (s : State) : State := { s with call := f s.call }

def zones (f : ZoneUnit → ZoneUnit) (s : State) : State := { s with zoneUnit := f s.zoneUnit }

def panel (f : Panel → Panel) (s : State) : State := { s with panel := f s.panel }

def store (f : Store → Store) (s : State) : State := { s with store := f s.store }

def started : State := { State.reset with engine := { State.reset.engine with started := true } }

def music : Segment := ⟨.music, .atEnd, .free, none, none⟩
def gaps : Segment := ⟨.speech, .atGaps, .gapsOnly, none, none⟩
def break5 : Segment := ⟨.interval, .never, .free, some 300, some 0⟩

/-- Hall A in a phase of a three-segment show. -/
def show3 (ph : Phase) (position : Nat) : State :=
  hall .a (fun r => { r with phase := ph, order := [gaps, break5, music], position := position }) State.reset

/-- A plan whose two steps ring pattern 0 at 600 s and at 0 s before the due time. -/
def ring (offset : Nat) : PlanStep := ⟨offset, .chime 0 1, 0b000001000000000000, 4, .duck⟩
def planned : State := { State.reset with programme := { State.reset.programme with plans := Table.fill 8 [ring 600, ring 0] } }

/-! ## Well-formed terms -/

theorem smoke_frame_of_seven_slots : (Instr.inputFrame .lane0 true (List.replicate 7 0)).wf = false := by decide +kernel
theorem smoke_block_of_seven_loops : (Instr.mixBlock (List.replicate 7 (List.replicate 48 0))).wf = false := by decide +kernel
theorem smoke_block_of_47_samples : (Instr.mixBlock (List.replicate 8 (List.replicate 47 0))).wf = false := by decide +kernel
theorem smoke_push_to_no_zone : (Instr.overlayPush ⟨.chime, .duck, none, 4, .call 1, 0, false⟩).wf = false := by decide +kernel
theorem smoke_push_of_priority_8 : (Instr.overlayPush ⟨.chime, .duck, none, 8, .call 1, 1, false⟩).wf = false := by decide +kernel
theorem smoke_push_of_call_0 : (Instr.overlayPush ⟨.chime, .duck, none, 4, .call 0, 1, false⟩).wf = false := by decide +kernel
theorem smoke_call_push_with_depth : (Instr.overlayPush ⟨.chime, .duck, some (-6), 4, .call 1, 1, false⟩).wf = false := by
  decide +kernel
theorem smoke_channel_push_without_depth : (Instr.overlayPush ⟨.desc 0, .duck, none, 6, .channel 0, 1, false⟩).wf = false := by
  decide +kernel
theorem smoke_channel_push_too_deep :
    (Instr.overlayPush ⟨.desc 0, .duck, some (-61), 6, .channel 0, 1, false⟩).wf = false := by decide +kernel
theorem smoke_exempt_channel_push :
    (Instr.overlayPush ⟨.desc 0, .duck, some (-60), 6, .channel 0, 1, true⟩).wf = false := by decide +kernel
theorem smoke_replacing_channel_push :
    (Instr.overlayPush ⟨.desc 0, .replace, some (-60), 6, .channel 0, 1, false⟩).wf = false := by decide +kernel
theorem smoke_removal_of_no_zone : (Instr.overlayRemoval (.call 1) 0).wf = false := by decide +kernel
theorem smoke_expiry_of_call_0 : (Instr.callDeadlineExpiry 0).wf = false := by decide +kernel
theorem smoke_timeout_of_call_256 : (Instr.liveTimeout 256).wf = false := by decide +kernel
theorem smoke_erase_cells_out_of_order : (Instr.eraseComplete [(5, 0), (5, 1)]).wf = false := by decide +kernel
theorem smoke_save_cell_beyond_flash : (Instr.saveComplete [(0x1000000, 0)]).wf = false := by decide +kernel
theorem smoke_well_formed_terms :
    (Instr.inputFrame .lane1 true (List.replicate 8 0)).wf = true ∧ (Instr.mixBlock (List.replicate 8 (List.replicate 48 0))).wf = true ∧
    (Instr.overlayPush ⟨.desc 3, .duck, some (-60), 6, .channel 3, 1, false⟩).wf = true ∧
    (Instr.eraseComplete [(5, 0), (6, 1)]).wf = true ∧ (Instr.callDeadlineExpiry 255).wf = true := by decide +kernel

/-! ## The block -/

theorem test_no_word_spells_a_command : decodeTableWord 8 0x10 = none ∧ State.reset.withFetchWord 8 0x10 = State.reset := ⟨rfl, rfl⟩

theorem witness_EmptyQueueIdles : State.reset.pending = [] := rfl

theorem witness_CommandsLeaveQueue :
    exec .houseClockTick { State.reset with pending := [.mixBlock []] } = .next { State.reset with clock := 1, pending := [.mixBlock []] } :=
  rfl

/-! ## Programme unit -/

theorem witness_OrderClear :
    answered (.orderClear .house) .house 0x10 [0] (hall .a (fun r => { r with order := [music], position := 1 }) State.reset) =
      some (.ok, []) ∧
    answered (.orderClear .stage) .stage 0x10 [0] (show3 .playing 0) = some (.state, []) ∧
    (hallOf (after (.orderClear .stage) (asking .stage 0x10 [0] (show3 .dark 1))) .a).order = [] := by decide +kernel

theorem witness_OrderPut :
    let put := fun ps s => answered (.orderPut .stage) .stage 0x11 ps s
    let one : List Byte := [0, 1, 0, 0xFF, 0xFF, 0xFF]
    put [0, 0, 0] State.reset = some (.range, []) ∧ put ([2, 0, 1] ++ one) State.reset = some (.range, []) ∧
    put ([0, 0, 1] ++ one) (show3 .opened 0) = some (.state, []) ∧
    put ([0, 1, 1] ++ one) State.reset = some (.range, []) ∧
    put ([0, 0, 1, 3] ++ one.drop 1) State.reset = some (.range, []) ∧
    put ([0, 0, 1] ++ one) State.reset = some (.ok, []) ∧
    put ([0, 3, 1] ++ one) (show3 .dark 0) = some (.ok, []) ∧
    (hallOf (after (.orderPut .stage) (asking .stage 0x11 ([0, 3, 1] ++ one) (show3 .dark 0))) .a).order =
      [gaps, break5, music, music] := by decide +kernel

theorem witness_OrderAppend :
    let add := fun ps s => answered (.orderAppend .stage) .stage 0x12 ps s
    let one : List Byte := [0, 0, 1, 0, 0xFF, 0xFF, 0xFF]
    add [0, 3, 1, 0, 0xFF, 0xFF, 0xFF] (show3 .playing 0) = some (.range, []) ∧
    add [0, 2, 1, 0, 0, 60, 0xFF] (show3 .playing 0) = some (.range, []) ∧ add one State.reset = some (.state, []) ∧
    add one (hall .a (fun r => { r with phase := .playing, order := List.replicate 40 music }) State.reset) = some (.full, []) ∧
    add one (show3 .playing 0) = some (.ok, []) ∧ add [0, 0, 1, 0, 0, 60, 0xFF] (show3 .playing 0) = some (.adjusted, []) ∧
    (hallOf (after (.orderAppend .stage) (asking .stage 0x12 one (show3 .ended 3))) .a).phase = .onBreak := by decide +kernel

theorem witness_HallOpen :
    let open_ := fun ps s => answered (.hallOpen .stage) .stage 0x13 ps s
    let t := after (.hallOpen .stage) (asking .stage 0x13 [0, 0, 30]
      (hall .a (fun r => { r with order := [music], settings := { r.settings with preshow := some 0 } }) planned))
    open_ [0, 0xFF, 0xFF] (show3 .playing 0) = some (.state, [0, 0xFF]) ∧
    open_ [0, 0xFF, 0xFF] (store (fun u => { u with state := .opened, owner := some .stage }) State.reset) = some (.state, [1, 0xFF]) ∧
    open_ [0, 0xFF, 0xFF] State.reset = some (.state, [2, 0]) ∧
    open_ [0, 0xFF, 0xFF] (show3 .dark 0) = some (.state, [7, 1]) ∧
    open_ [0, 0xFF, 0xFF] (hall .a (fun r => { r with order := [music] }) State.reset) = some (.ok, []) ∧
    reply t .stage = some (.adjusted, []) ∧ (hallOf t .a).due = some 600 ∧ (hallOf t .a).steps = [⟨0, 1, 600⟩] := by decide +kernel

theorem witness_RunningOrderCheck :
    orderFault planned.programme.plans [gaps, break5, music] = none ∧
    orderFault planned.programme.plans [break5, music] = some (3, 0) ∧ orderFault planned.programme.plans [music, break5] = some (4, 1) ∧
    orderFault planned.programme.plans [music, break5, break5, music] = some (5, 2) ∧
    orderFault planned.programme.plans [music, { break5 with length := none }, music] = some (6, 1) ∧
    orderFault State.reset.programme.plans [music, break5, music] = some (7, 1) ∧
    orderFault planned.programme.plans [{ break5 with length := none }] = some (3, 0) ∧
    orderFault planned.programme.plans [music, break5, { break5 with length := none }] = some (4, 2) ∧
    orderFault planned.programme.plans [music, break5, { break5 with length := none }, music] = some (5, 2) ∧
    orderFault State.reset.programme.plans [music, { break5 with length := none }, music] = some (6, 1) := by decide +kernel

theorem witness_SegStart :
    let go := fun e s => after (.segStart .stage) (asking .stage 0x14 [0, e] s)
    reply (go 1 (show3 .onBreak 2)) .stage = some (.state, []) ∧ reply (go 0xFF (show3 .gap 0)) .stage = some (.state, []) ∧
    (hallOf (go 2 (show3 .onBreak 2)) .a).phase = .playing ∧ (hallOf (go 0xFF (show3 .opened 0)) .a).phase = .playing ∧
    (hallOf (go 0xFF (show3 .interval 1)) .a).position = 2 ∧ (hallOf (go 1 (show3 .onBreak 1)) .a).phase = .interval ∧
    (hallOf (go 1 (show3 .onBreak 1)) .a).due = some 3000 := by decide +kernel

theorem witness_SegEnd :
    let go := fun e s => after (.segEnd .stage) (asking .stage 0x15 [0, e] s)
    reply (go 1 (show3 .playing 2)) .stage = some (.state, []) ∧ reply (go 0xFF (show3 .onBreak 0)) .stage = some (.state, []) ∧
    (hallOf (go 0xFF (show3 .playing 2)) .a).phase = .ended ∧ (hallOf (go 0 (show3 .gap 0)) .a).phase = .onBreak ∧
    (hallOf (go 0xFF (show3 .interval 1)) .a).phase = .onBreak := by decide +kernel

theorem witness_GapMarkAndEnd :
    answered (.gapMark .stage) .stage 0x16 [0] (show3 .playing 0) = some (.ok, []) ∧
    answered (.gapMark .stage) .stage 0x16 [0] (show3 .playing 2) = some (.state, []) ∧
    answered (.gapEnd .stage) .stage 0x17 [0] (show3 .gap 0) = some (.ok, []) ∧
    answered (.gapEnd .stage) .stage 0x17 [0] (show3 .playing 0) = some (.state, []) := by decide +kernel

theorem witness_HallLevelEvents :
    let heard := fun (v : LevelState) (s : State) =>
      mailed (fun m => { m with hallLevels := ⟨[v], []⟩ })
        { s with engine := { s.engine with lanes := { s.engine.lanes with lane0 := { s.engine.lanes.lane0 with locked := true } } } }
    (hallOf (after (.hallQuietEvent .a) (heard .quiet (show3 .playing 0))) .a).phase = .gap ∧
    (hallOf (after (.hallQuietEvent .a) (heard .quiet (show3 .playing 2))) .a).phase = .playing ∧
    (hallOf (after (.hallSoundEvent .a) (heard .sound (show3 .gap 0))) .a).phase = .playing ∧
    (after (.hallSoundEvent .a) (heard .sound (show3 .onBreak 0))).mail.hallLevels.a = [] ∧
    (hallOf (after (.hallSoundEvent .a) (mailed (fun m => { m with hallLevels := ⟨[.sound], []⟩ }) (show3 .gap 0))) .a).phase = .gap := by
  decide +kernel

theorem witness_HallDark :
    let dark := fun f s => after (.hallDark .house) (asking .house 0x18 [0, f] s)
    reply (dark 0 State.reset) .house = some (.ok, []) ∧ reply (dark 0 (show3 .interval 1)) .house = some (.state, []) ∧
    (hallOf (dark 0 (show3 .ended 3)) .a).phase = .dark ∧ (hallOf (dark 1 (show3 .playing 1)) .a).phase = .dark := by decide +kernel

theorem witness_requests_that_name_no_hall :
    let requests : List ((Port → Instr) × Byte × List Byte) :=
      [(.orderClear, 0x10, [2]), (.orderAppend, 0x12, [2, 0, 1, 0, 0xFF, 0xFF, 0xFF]), (.hallOpen, 0x13, [2, 0xFF, 0xFF]),
       (.segStart, 0x14, [2, 0xFF]), (.segEnd, 0x15, [2, 0xFF]), (.gapMark, 0x16, [2]), (.gapEnd, 0x17, [255]),
       (.hallDark, 0x18, [2, 0]), (.hallDark, 0x18, [0, 2]), (.admitNow, 0x35, [2, 0, 30]), (.admitExtend, 0x36, [2, 30]),
       (.admitClose, 0x37, [2])]
    ∀ r ∈ requests, answered (r.1 .house) .house r.2.1 r.2.2 (show3 .ended 3) = some (.range, []) := by decide +kernel

theorem witness_PlanStepAndIntervalDue :
    let s := hall .a (fun r => { r with phase := .interval, due := some 0, steps := [⟨0, 1, 0⟩] }) planned
    (after (.planStepFire .a) s).mail.toCall =
      [.submit ⟨.plan 0 1, .a, 4, .chime 0 1, .duck, 0b000001000000000000, 0⟩] ∧
    (after (.intervalDue .a) s).mail.offers.length = 1 ∧
    (after (.intervalDue .a) (hall .a (fun r => { r with dueOffered := true }) s)).mail.offers = [] := by decide +kernel

theorem witness_PlanPutAndHallSet :
    let step : List Byte := [0, 60, 1, 0, 1, 0xFF, 0xFF, 0xFF, 0xFF, 0xFF, 0, 0x10, 0, 4, 0]
    answered (.hallSet .stage) .stage 0x1A [0, 0, 45, 20, 10, 1, 0xFF] State.reset = some (.ok, []) ∧
    answered (.hallSet .stage) .stage 0x1A [0, 0, 5, 20, 31, 1, 0xFF] State.reset = some (.adjusted, []) ∧
    planInUse 0 State.reset = false ∧
    answered (.planPut .house) .house 0x19 ([0, 0, 1] ++ step) State.reset = some (.ok, []) ∧
    answered (.planPut .house) .house 0x19 ([0, 5, 1] ++ step)
      { State.reset with programme := { State.reset.programme with plans := Table.fill 8 (List.replicate 5 (ring 0)) } } = some (.ok, []) ∧
    answered (.planPut .house) .house 0x19 [0, 2, 0] planned = some (.ok, []) := by decide +kernel

theorem witness_PlanPutAndHallSetRefused :
    let step : List Byte := [0, 60, 1, 0, 1, 0xFF, 0xFF, 0xFF, 0xFF, 0xFF, 0, 0x10, 0, 255, 0]
    let put := fun ps s => answered (.planPut .house) .house 0x19 ps s
    let saving_ := store (fun u => { u with state := .saving [] }) State.reset
    put ([0, 0, 1] ++ step) State.reset = some (.adjusted, []) ∧ put ([8, 0, 1] ++ step) State.reset = some (.range, []) ∧
    put ([0, 0, 2] ++ step) State.reset = some (.range, []) ∧ put [0, 0, 1] State.reset = some (.range, []) ∧
    put ([0, 0, 0] ++ step) saving_ = some (.range, []) ∧ put [0, 0, 0] saving_ = some (.busy, []) ∧
    planInUse 0 (show3 .opened 0) = true ∧ put [0, 0, 0] (show3 .opened 0) = some (.state, []) := by decide +kernel

theorem witness_PlanPutRefused_range :
    let step : List Byte := [0, 60, 1, 0, 1, 0xFF, 0xFF, 0xFF, 0xFF, 0xFF, 0, 0x10, 0, 255, 0]
    let put := fun ps s => answered (.planPut .house) .house 0x19 ps s
    put [0, 1, 0] State.reset = some (.range, []) ∧ put [0, 6, 0] State.reset = some (.range, []) ∧
    put ([0, 0, 1] ++ step.set 2 2) State.reset = some (.range, []) ∧ put ([0, 0, 1] ++ step.set 3 8) State.reset = some (.range, []) ∧
    put ([0, 0, 1] ++ step.set 11 0) State.reset = some (.range, []) ∧ put ([0, 0, 1] ++ step.set 14 2) State.reset = some (.range, []) := by decide +kernel

theorem witness_HallSetRefused :
    let set := fun ps s => answered (.hallSet .stage) .stage 0x1A ps s
    let saving_ := store (fun u => { u with state := .saving [] }) State.reset
    set [2, 0, 45, 20, 10, 1, 0xFF] saving_ = some (.range, []) ∧ set [1, 0, 45, 20, 10, 1, 8] saving_ = some (.busy, []) ∧
    set [1, 0, 45, 20, 10, 1, 8] State.reset = some (.range, []) ∧ set [1, 0, 45, 20, 10, 1, 7] State.reset = some (.ok, []) := by
  decide +kernel

/-! ## Zone unit -/

def L0 : ZoneNo := 0
def F0 : ZoneNo := 12
def D0 : ZoneNo := 8

/-- An overlay of a call, and of a channel. -/
def ofCall (id priority : Nat) : Overlay := ⟨.player 0, .duck (-24), priority, .call id⟩
def ofChannel (c : Fin 4) : Overlay := ⟨.desc c, .duck (-24), 6, .channel c⟩

def stacked (z : ZoneNo) (l : List Overlay) (s : State) : State :=
  zones (fun u => u.modifyZone z fun r => { r with stack := l }) s

def loop (l : Fin 8) (f : LoopRecord → LoopRecord) (s : State) : State := zones (fun u => u.modifyLoop l f) s

def callTo (targets : ZoneSet) (priority : Nat) : PushRequest := ⟨.player 0, .duck, none, priority, .call 9, targets, false⟩

def opening : PhaseEvent := ⟨.a, .dark, .opened, 0, 1, none, none, .hallOpen⟩

theorem witness_ZonePhaseEvent :
    let t := after .zonePhaseEvent (mailed (fun m => { m with toZone := [opening] }) State.reset)
    let u := after .zonePhaseEvent (mailed (fun m => { m with toZone := [{ opening with old := .opened, new := .playing }] }) t)
    (t.zoneUnit.zones.get L0).baseSource = .hallA ∧ (t.zoneUnit.zones.get D0).baseSource = .hallA ∧
    (t.zoneUnit.zones.get F0).baseSource = .silence ∧ t.mail.zoneToCall = [] ∧
    (u.zoneUnit.loops.get 0).hushed = true ∧ u.mail.zoneToCall.length = 1 := by decide +kernel

theorem witness_DescriptionBase :
    let channels := factorySettings.channels.map fun c => (⟨c, .off, none⟩ : Channel)
    descBase ⟨.opened, .dark⟩ channels 1 = (.hallA, 0) ∧ descBase ⟨.opened, .dark⟩ channels 2 = (.silence, -121) := by decide +kernel

theorem witness_RelayAndChannelChange :
    ((after .relayRequest (mailed (fun m => { m with relays := [⟨0, some .b⟩] }) State.reset)).zoneUnit.zones.get F0).baseGain = -12 ∧
    (after .channelChangeReport (mailed (fun m => { m with channelChanges := [⟨0, 3⟩] }) State.reset)).mail.channelChanges = [] := by
  decide +kernel

theorem witness_PushIsAllOrNothing :
    (push (callTo 1 4) State.reset).1 = true ∧ (push (callTo 1 4) (stacked L0 [ofCall 1 3] State.reset)).1 = true ∧
    (push (callTo 1 3) (stacked L0 [ofCall 1 3] State.reset)).1 = false ∧
    (push (callTo 1 7) (stacked L0 [ofCall 3 3, ofCall 2 2, ofCall 1 1] State.reset)).1 = false ∧
    pushFailures (stacked L0 [ofCall 9 3] State.reset).zoneUnit (callTo 3 4) = [(L0, .owner)] ∧
    pushFailures (stacked L0 [ofCall 3 3, ofCall 2 2, ofCall 1 1] State.reset).zoneUnit (callTo 1 3) = [(L0, .full)] ∧
    pushFailures (stacked L0 [ofCall 9 3] State.reset).zoneUnit (callTo 3 3) = [(L0, .priority)] ∧
    pushFailures (loop 0 (fun r => { r with hushed := true }) State.reset).zoneUnit (callTo 1 5) = [(L0, .hushed)] ∧
    (push (callTo 1 6) (loop 0 (fun r => { r with hushed := true }) State.reset)).1 = true := by decide +kernel

theorem witness_RemovalTakesOwnersEntries :
    ((remove (.call 1) 1 (stacked L0 [ofCall 2 4, ofCall 1 3] State.reset)).zoneUnit.zones.get L0).stack = [ofCall 2 4] ∧
    (remove (.call 3) 1 (stacked L0 [ofCall 2 4] State.reset)).zoneUnit.removalAnswer = some .notPresent := by decide +kernel

theorem witness_StackReportGivesCoverage :
    (push (callTo 1 4) (stacked L0 [ofCall 1 3] State.reset)).1 = true ∧
    (push (callTo 1 4) (stacked L0 [ofCall 1 3] State.reset)).2.mail.zoneToDescription =
      [⟨1, [(.call 1, 0), (.call 9, 1)]⟩] ∧
    (push (callTo 1 3) (stacked L0 [ofCall 1 3] State.reset)).1 = false ∧
    (remove (.call 2) 3 (stacked L0 [ofCall 2 4, ofCall 1 3] State.reset)).mail.zoneToCall = [.report ⟨1, [(.call 1, 1)]⟩] ∧
    (remove (.call 3) 3 (stacked L0 [ofCall 2 4, ofCall 1 3] State.reset)).mail.zoneToCall = [] := by decide +kernel

theorem witness_OverCurrentFoldsBack :
    let s := mailed (fun m => { m with loopEvents := m.loopEvents.set 0 [.overCurrent] }) State.reset
    let go := fun b sh => ((after (.overCurrentEvent 0) (loop 0 (fun r => { r with foldBack := b, shut := sh }) s)).zoneUnit.loops.get 0)
    (go .none false).foldBack = .by12 ∧ (go .by12 false).foldBack = .by24 ∧ (go .by24 false).foldBack = .by36 ∧
    (go .by36 false).shut = true ∧ (go .none true).foldBack = .none := by decide +kernel

theorem witness_LoopRecoveryOpenAndReset :
    let go := fun n b => ((after (.foldBackRecovery 7) (loop 7 (fun r => { r with foldBack := b, recovery := n }) State.reset)).zoneUnit.loops.get 7)
    let s := mailed (fun m => { m with loopEvents := (m.loopEvents.set 0 [.openBegin]).set 1 [.openEnd] }) State.reset
    (go 1000 .by36).foldBack = .by24 ∧ (go 999 .by36).foldBack = .by36 ∧
    ((after (.openLoopBegin 0) s).zoneUnit.loops.get 0).openFlag = true ∧
    ((after (.openLoopEnd 1) (loop 1 (fun r => { r with openFlag := true }) s)).zoneUnit.loops.get 1).openFlag = false ∧
    (let u := after (.openLoopEnd 1) (loop 1 (fun r => { r with openFlag := true, shut := true }) s);
     (u.zoneUnit.loops.get 1).openFlag = true ∧ u.mail.loopEvents.get 1 = [] ∧ u.mail.offers = []) ∧
    (let u := after (.openLoopBegin 0) (loop 0 (fun r => { r with shut := true }) s);
     (u.zoneUnit.loops.get 0).openFlag = false ∧ u.mail.offers = []) ∧
    answered (.loopReset .stage) .stage 0x2A [7] (loop 7 (fun r => { r with shut := true }) State.reset) = some (.ok, []) ∧
    answered (.loopReset .stage) .stage 0x2A [8] State.reset = some (.range, []) := by decide +kernel

theorem witness_ZoneSetRequest :
    let set := fun z s => answered (.zoneSet .stage) .stage 0x20 ([z, 0, 0, 2, 10, 0xE8, 1, 0xE8, 0xF4, 0xFF, 7, 8]) s
    set 0 State.reset = some (.ok, []) ∧ set 8 State.reset = some (.ok, []) ∧ set 17 State.reset = some (.ok, []) ∧
    set 18 State.reset = some (.range, []) ∧
    set 8 (stacked D0 [ofChannel 0] State.reset) = some (.state, []) ∧
    set 0 (store (fun u => { u with state := .saving [] }) State.reset) = some (.busy, []) ∧
    answered (.zoneSet .stage) .stage 0x20 [0, 2, 0, 2, 10, 0xE8, 1, 0xE8, 0xF4, 0xFF, 7, 8] State.reset = some (.range, []) ∧
    answered (.zoneSet .stage) .stage 0x20 [12, 0, 25, 2, 10, 0xE8, 2, 0xE8, 0xF4, 0xFF, 7, 8] State.reset = some (.range, []) := by
  decide +kernel

/-! ## Lanes, mix and level monitor -/

def lane (l : Lane) (f : LaneRecord → LaneRecord) (s : State) : State :=
  { s with engine := { s.engine with lanes := s.engine.lanes.set l (f (s.engine.lanes.get l)) } }

theorem test_input_frame_locks_on_the_eighth :
    let go := fun n => (after (.inputFrame .lane0 true [1, 2]) (lane .lane0 (fun r => { r with run := n }) State.reset)).engine.lanes.lane0
    (go 7).locked = true ∧ (go 7).received = [[1, 2, 0, 0, 0, 0, 0, 0]] ∧ (go 6).locked = false ∧ (go 6).run = 7 := by decide +kernel

theorem test_input_frame_unlocks_on_the_second_missing :
    let go := fun n => (after (.inputFrame .lane1 false [])
      (lane .lane1 (fun r => { r with locked := true, missing := n }) State.reset)).engine.lanes.lane1
    (go 0).locked = true ∧ (go 1).locked = false := by decide +kernel

theorem witness_FrameReachesLevelMonitor :
    ((after (.inputFrame .lane1 true [0, 0, 0, 5]) (lane .lane1 (fun r => { r with locked := true }) started)).level.sound.get 5).peak = 5 := by
  decide +kernel

theorem test_coefficient_anchors :
    [24, 12, 0, -12, -24, -40, -80, -120, -121].map coefficient =
      [4174456, 2092184, 1048576, 525533, 263390, 104858, 10486, 1049, 0] := by decide +kernel

theorem test_threshold_anchors :
    [0, -2, -20, -40, -60, -72, -80, -84, -92, -100, -120].map threshold =
      [8388607, 7476354, 2652710, 838861, 265271, 132950, 83886, 66633, 42043, 26527, 8389] := by decide +kernel

theorem test_rounding_table :
    [1572864, 524288, 524287, -524288, -524289, -1572864].map rounded = [2, 1, 0, 0, -1, -1] := by decide +kernel

theorem witness_MixArithmetic :
    effectiveStep 0 24 1 = 24 ∧ effectiveStep 0 24 0 = 24 ∧ effectiveStep (-108) 0 (-12) = -120 ∧ effectiveStep (-109) 0 (-12) = -121 ∧
    saturated 8388608 = 8388607 ∧ saturated (-8388609) = -8388608 ∧
    (let l : LoopRecord := ⟨⟨.a, 1800⟩, .none, false, false, 0, false⟩
     loopDuty l 8388607 = 3848 ∧ loopDuty l (-8388608) = 248 ∧ loopDuty l (-1) = 2047 ∧ loopDuty { l with shut := true } 8388607 = 2048) := by
  decide +kernel

theorem witness_BackgroundTarget :
    backgroundTarget 0 (some (ofCall 1 4)) = -24 ∧ backgroundTarget (-97) (some (ofCall 1 4)) = -121 ∧
    backgroundTarget (-121) (some (ofCall 1 4)) = -121 ∧
    backgroundTarget 0 (some { ofCall 1 4 with mode := .replace }) = -121 := by decide +kernel

theorem witness_RampStep :
    let go := fun goal step => ((after (.rampStep 3) (zones (fun u => u.modifyZone 3 fun r =>
      { r with target := goal, bgStep := step, rampDue := true }) State.reset)).zoneUnit.zones.get 3).bgStep
    go (-121) (-120) = -121 ∧ go (-120) (-121) = -120 ∧
    ((after (.rampStep 3) State.reset).zoneUnit.zones.get 3).bgStep = -121 := by decide +kernel

/-- A block of a duck: the hall's feed at −24 steps under a chime's first sample at unity. -/
theorem test_mix_block_of_a_chime :
    let s := zones (fun u => u.modifyZone 0 fun r => { r with
        baseSource := .hallA, baseGain := 0, bgStep := -24, target := -24, stack := [⟨.chime, .duck (-24), 4, .call 1⟩] })
      (lane .lane0 (fun r => { r with received := List.replicate 48 [4194304, 0, 0, 0, 0, 0, 0, 0] })
        (calls (fun u => { u with chime := some (.begin 1 0 1) }) started))
    ((after (.mixBlock []) s).engine.made.get 0).take 1 = [2097152 + 1053560] := by decide +kernel

theorem witness_MixBlockClips :
    let s := fun now last => { zones (fun u => u.modifyZone 0 fun r => { r with
        baseSource := .hallA, baseGain := 0, bgStep := 0, target := 0, lastClip := last, settings := { r.settings with trim := 12 } })
      (lane .lane0 (fun r => { r with received := List.replicate 48 [-8388608, 0, 0, 0, 0, 0, 0, 0] }) started) with clock := now }
    let t := fun now last => after (.mixBlock []) (s now last)
    let told := fun u : State => u.mail.offers.map fun o => (o.kind, o.detail0, o.detail1)
    ((t 30 none).zoneUnit.zones.get 0).lastClip = some 30 ∧ told (t 30 none) = [(14, 0, 1)] ∧ told (t 30 (some 19)) = [(14, 0, 1)] ∧
    told (t 30 (some 20)) = [] ∧ ((t 30 (some 20)).zoneUnit.zones.get 0).lastClip = some 30 ∧
    ((t 30 none).zoneUnit.zones.get 1).lastClip = none := by decide +kernel

theorem test_mix_block_sends_the_duties_made_before :
    let s := fun shut => loop 0 (fun r => { r with shut := shut }) { started with engine := { started.engine with
      made := started.engine.made.set 0 (8388607 :: List.replicate 47 (-1)), dutyNext := started.engine.dutyNext.set 0 4000 } }
    let t := fun shut => (after (.mixBlock []) (s shut)).engine
    ((t false).dutyOut.get 0).take 3 = [3848, 3848, 2047] ∧ (t false).dutyNext.get 0 = 2047 ∧
    ((t true).dutyOut.get 0).take 3 = [2048, 2048, 2048] := by decide +kernel

theorem witness_MixBlockPeaks :
    let t := fun s => after (.mixBlock [List.replicate 48 (BitVec.ofInt 24 (-5))]) s
    let quiet := lane .lane0 (fun r => { r with locked := true }) State.reset
    (((t started).level.sense.get 0).peak, ((t started).level.sense.get 1).peak) = (5, 0) ∧
    (t quiet).level.unlocked = ⟨false, true⟩ ∧
    (t (lane .lane0 (fun r => { r with locked := true }) started)).level.unlocked = ⟨true, true⟩ := by decide +kernel

theorem test_chime_samples : noteSample 24 0 = 2097152 ∧ noteSample 24 24 = -2097152 ∧ noteSample 24 960 = 2 * 989920 := by
  decide +kernel

theorem witness_PlayerAndChimeSamples :
    let p : Player := ⟨1, false, 0, 0, ⟨65536, 17, 0⟩, .phrase 1⟩
    let m : Flash := [(65568, 0x12), (65569, 0x34)]
    let g : ChimeGenerator := .begin 1 0 1
    (p.samples m).take 4 = [0x341200, 0x341200, 0x341200, 0] ∧ ({ p with held := true }.samples m)[47]? = some 0 ∧
    ({ p with stage := .silence 3 }.samples m)[0]? = some 0 ∧ ((chimeNotes g.pattern)[g.note]?).isSome = true ∧
    g.samples[0]? = some 2097152 ∧ ({ g with strikeBlocks := 1200 }.samples)[0]? = some 0 ∧ ({ g with note := 9 }.samples)[0]? = some 0 := by
  decide +kernel

theorem witness_LevelPeriodSoundChannels :
    let go := fun state run peak =>
      let t := after .levelPeriodEnd (lane .lane0 (fun r => { r with locked := true })
        { started with level := { started.level with
            unlocked := ⟨false, false⟩
            sound := started.level.sound.modify 0 fun r => { r with state := state, run := run, peak := peak } } })
      (t.level.sound.get 0, t.mail.hallLevels.a)
    (go .quiet 4 83886).2 = [.sound] ∧ (go .quiet 3 83886).1.run = 4 ∧ (go .quiet 4 83885).1.run = 0 ∧
    (go .sound 299 42042).2 = [.quiet] ∧ (go .sound 298 42042).1.run = 299 ∧ (go .sound 299 42043).1.run = 0 ∧
    ((after .levelPeriodEnd started).level.sound.get 0).run = 0 ∧
    (after .levelPeriodEnd (lane .lane1 (fun r => { r with locked := true }) started)).level.unlocked = ⟨true, false⟩ ∧
    after .levelPeriodEnd State.reset = State.reset := by decide +kernel

theorem witness_LevelPeriodSenseChannels :
    let go := fun (flag shut : Bool) run peak drive =>
      let t := after .levelPeriodEnd (loop 2 (fun r => { r with openFlag := flag, shut := shut, foldBack := .by12, recovery := 999 })
        { started with level := { started.level with
            sense := started.level.sense.modify 2 fun r => { r with openRun := run, peak := peak, drive := drive } } })
      ((t.level.sense.get 2).openRun, t.mail.loopEvents.get 2, (t.zoneUnit.loops.get 2).recovery)
    go false false 199 26526 265271 = (0, [.openBegin], 1000) ∧ go false false 198 26526 265271 = (199, [], 1000) ∧
    go false false 199 26527 265271 = (0, [], 1000) ∧ go false false 199 26526 265270 = (0, [], 1000) ∧
    go true false 5 26527 0 = (0, [.openEnd], 1000) ∧ go true false 5 26526 0 = (5, [], 1000) ∧
    go false false 0 7476354 0 = (0, [.overCurrent], 1000) ∧ go false true 7 7476354 0 = (0, [], 999) := by decide +kernel

theorem witness_LevelPeriodSenseChannels_recovery_left_due :
    let go := fun f =>
      let r := (after .levelPeriodEnd (loop 2 (fun r => { r with foldBack := f, recovery := 1000 }) started)).zoneUnit.loops.get 2
      (r.foldBack, r.recovery)
    go .by36 = (.by24, 1) ∧ go .by12 = (.none, 0) := by decide +kernel

theorem witness_LevelSetRequest :
    let set := fun ps s => answered (.levelSet .stage) .stage 0x28 ps s
    set [5, 0xB8, 0xAC, 0, 3, 0, 80] State.reset = some (.ok, []) ∧ set [6, 0xFE, 0x9C, 0xC4, 0, 200] State.reset = some (.ok, []) ∧
    set [13, 0xFE, 0x9C, 0xC4, 1, 0xF5] State.reset = some (.adjusted, []) ∧ set [14, 0, 0, 0, 0, 0] State.reset = some (.range, []) ∧
    set [5, 0, 0, 0, 0, 0] State.reset = some (.range, []) ∧ set [0, 0, 0, 0, 1, 0, 1] (show3 .opened 0) = some (.state, []) ∧
    set [0, 0, 0, 0, 1, 0, 1] (store (fun u => { u with state := .saving [] }) State.reset) = some (.busy, []) := by decide +kernel

/-! ## Call unit -/

/-- A QUEUED chime call of HOUSE to some zones, and the same call playing. -/
def queued (id priority : Nat) (targets : ZoneSet) : Call :=
  ⟨id, .house, priority, .chime 0 1, 0, .duck, targets, none, none, none, .queued, none⟩
def playing (id : Nat) : Call := { queued id 4 1 with state := .started .chime 1 false }
def paging : Call := { queued 3 5 1 with content := .live 0, state := .started (.mic 0) 1 false, liveStart := some 0 }

def withCalls (l : List Call) : State := calls (fun u => { u with queue := l }) State.reset

/-- The nineteen bytes of a chime call to zone F0. -/
def chimeBytes (priority link : Byte) : List Byte :=
  [priority, 1, 0, 1, 0xFF, 0xFF, 0xFF, 0xFF, 0xFF, 0, 0, 0, 0x10, 0, 1, 0, 0xFF, 0xFF, link]
/-- The nineteen bytes of a call of phrase 1 to a zone. -/
def phraseBytes (z1 z0 : Byte) : List Byte :=
  [4, 0, 1, 1, 0xFF, 0xFF, 0xFF, 0xFF, 0xFF, 0, 0, 0, z1, z0, 1, 0, 0xFF, 0xFF, 0xFF]

def withPhrase (s : State) : State := store (fun u => { u with directory := u.directory.set 1 (some ⟨0x10000, 100, 0⟩) }) s

theorem witness_CallSubmit :
    let submit := fun p ps s => answered (.callSubmit p) p 0x50 ps s
    submit .house ((chimeBytes 4 0xFF).set 1 3) State.reset = some (.range, []) ∧
    submit .booth (chimeBytes 4 0xFF) State.reset = some (.denied, []) ∧
    submit .house (phraseBytes 0x01 0) (withPhrase State.reset) = some (.range, []) ∧
    submit .house (chimeBytes 4 0) State.reset = some (.state, []) ∧
    submit .house (phraseBytes 0x10 0) (withPhrase (store (fun u => { u with state := .opened }) State.reset)) = some (.busy, []) ∧
    submit .house (phraseBytes 0x10 0) State.reset = some (.notFound, []) ∧
    submit .house (chimeBytes 4 0xFF) (withCalls ((List.range 16).map fun i => queued (i + 1) 7 1)) = some (.full, []) ∧
    submit .house (chimeBytes 4 0xFF) (withCalls ((List.range 15).map fun i => queued (i + 2) 7 1)) = some (.ok, [1, 0]) ∧
    submit .booth (phraseBytes 0x01 0) (withPhrase State.reset) = some (.ok, [1, 1]) := by decide +kernel

theorem witness_CallSubmit_clamps :
    let submit := fun p ps s => answered (.callSubmit p) p 0x50 ps s
    submit .house ((chimeBytes 4 0xFF).set 3 4) State.reset = some (.ok, [1, 1]) ∧
    submit .house ((chimeBytes 4 0xFF).set 3 5) State.reset = some (.adjusted, [1, 1]) ∧
    submit .house ((chimeBytes 4 0xFF).set 14 4) State.reset = some (.adjusted, [1, 1]) ∧
    submit .booth ((phraseBytes 0x01 0).set 0 6) (withPhrase State.reset) = some (.adjusted, [1, 1]) := by decide +kernel

theorem witness_QueueOrderAndFreeIds :
    (insertCall (queued 9 4 1) [queued 1 5 1, queued 2 4 1, queued 3 3 1]).map Call.id = [1, 2, 9, 3] ∧
    freeId [queued 255 4 1, queued 1 4 1] 255 255 = 2 := by decide +kernel

theorem witness_NoCallOvertakes :
    let s := withCalls [queued 1 4 3, queued 2 4 4, queued 3 4 1]
    s.call.queue = [] ++ queued 1 4 3 :: ([queued 2 4 4] ++ queued 3 4 1 :: []) ∧
    (queued 1 4 3).targets &&& (queued 3 4 1).targets ≠ 0 ∧
    (pass s).call.queue.map (fun c => (c.id, isQueued c)) = [(1, false), (2, true), (3, true)] := by decide +kernel

theorem witness_NoCallOvertakes_law : QueueLaw (withCalls [queued 1 4 3, queued 2 4 4, queued 3 4 1]).call :=
  ⟨by decide +kernel, by decide +kernel, by decide +kernel, by decide +kernel, by decide +kernel⟩

theorem witness_CallStart :
    let s := withCalls [queued 1 4 1]
    freeResource s.call (queued 1 4 1).content = some .chime ∧ (zonesOf 1).all (available s.zoneUnit (queued 1 4 1)) = true ∧
    (tryCall 2 (queued 1 4 1) s).1 = true ∧ (tryCall 1 (queued 1 4 1) s).1 = false := by decide +kernel

theorem witness_CallEnding :
    (endCall .cancelled (withCalls [queued 1 4 1]) (queued 1 4 1)).call.queue = [] ∧
    (let s := calls (fun u => { u with chime := some (.begin 2 0 1) }) (stacked 0 [{ ofCall 2 4 with source := .chime }] (withCalls [playing 2]))
     let t := endCall .done s (playing 2)
     t.call.chime = none ∧ (t.zoneUnit.zones.get 0).stack = [] ∧ t.mail.offers.map Offer.detail0 = [2]) := by decide +kernel

theorem witness_CallCancelAndLiveEnd :
    answered (.callCancel .stage) .stage 0x51 [1] State.reset = some (.notFound, []) ∧
    answered (.callCancel .booth) .booth 0x51 [1] (withCalls [queued 1 4 1]) = some (.denied, []) ∧
    answered (.callCancel .stage) .stage 0x51 [1] (withCalls [queued 1 4 1]) = some (.ok, []) ∧
    answered (.liveEnd .house) .house 0x52 [9] State.reset = some (.notFound, []) ∧
    answered (.liveEnd .house) .house 0x52 [1] (withCalls [queued 1 4 1]) = some (.state, []) ∧
    answered (.liveEnd .stage) .stage 0x52 [3] (withCalls [paging]) = some (.denied, []) ∧
    answered (.liveEnd .house) .house 0x52 [3] (withCalls [paging]) = some (.ok, []) := by decide +kernel

theorem witness_CallExpiryAndTimeout :
    (after (.callDeadlineExpiry 1) (withCalls [{ queued 1 4 1 with deadline := some 0 }])).call.queue = [] ∧
    (after (.callDeadlineExpiry 2) (withCalls [{ playing 2 with deadline := some 0 }])).call.queue.length = 1 ∧
    (after (.liveTimeout 3) { withCalls [paging] with clock := 1200 }).call.queue = [] ∧
    (after (.liveTimeout 3) { withCalls [paging] with clock := 1199 }).call.queue.length = 1 := by decide +kernel

theorem witness_CallPhaseAndCancels :
    let linked := { queued 1 4 1 with link := some .a, origin := .plan }
    (after .callPhaseEvent (mailed (fun m => { m with toCall := [.phase opening] }) State.reset)).call.view.a = .opened ∧
    (after .callPhaseEvent (mailed (fun m => { m with toCall := [.phase { opening with old := .playing }] }) State.reset)).call.view.a =
      .dark ∧
    (after .hallCallCancel (mailed (fun m => { m with toCall := [.cancelHall .a] }) (withCalls [linked]))).call.queue = [] ∧
    (after .planCallCancel (mailed (fun m => { m with toCall := [.cancelPlan .a] }) (withCalls [linked]))).call.queue = [] ∧
    (after .admissionCallCancel (mailed (fun m => { m with admissionToCall := [.cancel .a] })
      (withCalls [{ linked with origin := .admission }]))).call.queue = [] := by decide +kernel

theorem witness_CallStackReport :
    let s := calls (fun u => { u with chime := some { ChimeGenerator.begin 2 0 1 with strikeBlocks := 9, noteBlocks := 9 } }) (withCalls [playing 2])
    let report := fun zs => after .callStackReport (mailed (fun m => { m with zoneToCall := [.report ⟨1, [(.call 2, zs)]⟩] }) s)
    (report 0).call.queue.map (fun c => stateCode c.state) = [2] ∧ ((report 0).call.chime.map ChimeGenerator.held) = some true ∧
    (report 1).call.queue.map (fun c => stateCode c.state) = [1] ∧
    (after .callHushChange (mailed (fun m => { m with zoneToCall := [.hush [(0, true)]] }) s)).mail.zoneToCall = [] ∧
    (takeCoverage (withCalls [paging]).call (.call 3, 0)).queue.map (fun c => stateCode c.state) = [1] := by decide +kernel

theorem witness_UnitCallSubmission :
    let c : Submission := ⟨.plan 2 3, .a, 4, .chime 0 1, .duck, 1, 100⟩
    let sent := fun s => after (.unitCallSubmission .programme) (mailed (fun m => { m with toCall := [.submit c] }) s)
    let opened := calls (fun u => { u with view := ⟨.opened, .dark⟩ })
    (sent State.reset).mail.offers.map Offer.detail1 = [128 + 16 + 3] ∧ (sent (opened State.reset)).call.queue.length = 1 ∧
    ((sent (opened (withCalls ((List.range 16).map fun i => queued (i + 1) (if i = 15 then 3 else 5) 1)))).call.queue.map Call.priority).contains 3 =
      false ∧
    (sent (opened (withCalls ((List.range 16).map fun i => queued (i + 1) 4 1)))).mail.offers.map Offer.detail0 = [0] ∧
    (after (.unitCallSubmission .admission) (mailed (fun m => { m with admissionToCall := [.submit { c with origin := .admission }] })
      State.reset)).mail.offers = [] := by decide +kernel

theorem witness_UnitCallSubmission_answers :
    let c : Submission := ⟨.plan 2 3, .a, 4, .phrases [1], .duck, 1, 100⟩
    let sent := fun s => (after (.unitCallSubmission .programme) (mailed (fun m => { m with toCall := [.submit c] })
      (calls (fun u => { u with view := ⟨.opened, .dark⟩ }) s))).call.submitted
    let ring := fun s => (after (.unitCallSubmission .programme) (mailed (fun m => { m with toCall := [.submit { c with content := .chime 0 1 }] })
      (calls (fun u => { u with view := ⟨.opened, .dark⟩ }) s))).call.submitted
    (after (.unitCallSubmission .programme) (mailed (fun m => { m with toCall := [.submit c] }) State.reset)).call.submitted =
      some (.refused .state) ∧
    sent (store (fun u => { u with state := .opened }) State.reset) = some (.refused .busy) ∧ sent State.reset = some (.refused .notFound) ∧
    sent (withPhrase State.reset) = some (.accepted 1) ∧
    ring (withCalls ((List.range 16).map fun i => queued (i + 1) (if i = 15 then 3 else 5) 1)) = some (.accepted 16) ∧
    ring (withCalls ((List.range 16).map fun i => queued (i + 1) 4 1)) = some .dropped ∧
    ring (withCalls ((List.range 16).map fun i => playing (i + 1))) = some .dropped := by decide +kernel

theorem witness_PlayersAndChime :
    let c : Call := { queued 1 4 1 with content := .phrases [1, 1], repeats := some 2, state := .started (.player 0) 1 false }
    let at_ := fun (p : Player) => withPhrase (calls (fun u => { u with players := u.players.set 0 (some p) }) (withCalls [c]))
    let p : Player := { Player.begin State.reset.store.directory 1 [1, 1] with stage := .ended }
    let got := fun (s : State) => (s.call.players.get 0).map Player.stage
    got (after (.playerPhraseEnd 0) (at_ p)) = some (.phrase 0) ∧
    got (after (.playerPhraseEnd 0) (at_ { p with index := 1 })) = some (.silence 0) ∧
    (after (.playerPhraseEnd 0) (at_ { p with index := 1, pass := 1 })).call.queue = [] ∧
    got (after (.repeatSilenceEnd 0) (at_ { p with stage := .silence 1000 })) = some (.phrase 0) := by decide +kernel

theorem witness_PlayersAndChime_strikes :
    let at_ := fun g : ChimeGenerator => calls (fun u => { u with chime := some g }) (withCalls [playing 2])
    let g : ChimeGenerator := .begin 2 1 2
    ((after .chimeNoteEnd (at_ { g with noteBlocks := 600 })).call.chime.map ChimeGenerator.note) = some 1 ∧
    ((after .chimeStrikeEnd (at_ { g with strikeBlocks := 1200 })).call.chime.map ChimeGenerator.done) = some 1 ∧
    (after .chimeStrikeEnd (at_ { g with strikeBlocks := 1200, done := 1 })).call.chime = none := by decide +kernel

theorem witness_MixBlockResources :
    let c : Call := { queued 1 4 1 with content := .phrases [1, 1], repeats := some 2, state := .started (.player 0) 1 false }
    let p : Player := ⟨1, false, 0, 0, ⟨65536, 32, 0⟩, .phrase 0⟩
    let stage := fun (p : Player) => ((after (.mixBlock []) (withPhrase (calls (fun u => { u with players := u.players.set 0 (some p) })
      (withCalls [c])))).call.players.get 0).map Player.stage
    let struck := fun (g : ChimeGenerator) => ((after (.mixBlock []) (calls (fun u => { u with chime := some g })
      (withCalls [playing 2]))).call.chime).map ChimeGenerator.strikeBlocks
    let g : ChimeGenerator := .begin 2 1 2
    stage p = some (.phrase 1) ∧ stage { p with stage := .phrase 1 } = some .ended ∧ stage { p with held := true } = some (.phrase 0) ∧
    stage { p with stage := .silence 999 } = some (.silence 1000) ∧
    stage { p with stage := .ended } = some (.phrase 1) ∧ struck g = some 1 ∧ struck { g with held := true } = some 0 ∧
    struck { g with strikeBlocks := 1199 } = some 1200 ∧ struck { g with strikeBlocks := 1200 } = some 1 := by decide +kernel

/-- R147: a call whose content ended in a block does not outlive the next. -/
theorem test_block_ends_a_call :
    (after (.mixBlock []) (calls (fun u => { u with chime := some { ChimeGenerator.begin 2 0 1 with strikeBlocks := 1200 } })
      (withCalls [playing 2]))).call.queue = [] := by decide +kernel

theorem witness_HoldAndResume :
    let p : Player := ⟨1, true, 0, 0, ⟨65536, 32, 0⟩, .silence 999⟩
    let g : ChimeGenerator := { ChimeGenerator.begin 1 0 1 with held := true, strikeBlocks := 1199 }
    p.resume.stage = .silence 0 ∧ { p with stage := .silence 1000 }.resume.stage = .silence 1000 ∧
    { p with stage := .phrase 1 }.resume.stage = .phrase 0 ∧ { p with stage := .ended }.resume.stage = .ended ∧
    g.resume.strikeBlocks = 0 ∧ { g with strikeBlocks := 1200 }.resume.strikeBlocks = 1200 := by decide +kernel

theorem witness_OverlayPushAndRemoval :
    let s := withCalls [queued 1 4 1]
    (after (.overlayPush (callPush (queued 1 4 1) .chime)) s).call.queue.map isQueued = [false] ∧
    (after (.overlayPush (callPush (queued 3 4 1) .chime)) (withCalls [queued 1 4 1, queued 3 4 1])).call.queue.map isQueued = [true, true] ∧
    (after (.overlayRemoval (.call 7) 1) s).zoneUnit.removalAnswer = some .notPresent ∧
    (after (.overlayRemoval (.call 2) 1) (calls (fun u => { u with chime := some { ChimeGenerator.begin 2 0 1 with strikeBlocks := 1200 } })
      (stacked 0 [{ ofCall 2 4 with source := .chime }] (withCalls [playing 2])))).call.queue = [] := by decide +kernel

/-! ## Description unit -/

def channel (c : Fin 4) (f : Channel → Channel) (s : State) : State := setChannel c (f (channelOf s c)) s

def describer (d : Fin 4) (f : Describer → Describer) (s : State) : State :=
  { s with description := { s.description with describers := s.description.describers.modify d f } }

/-- Hall A in a phase in the Description unit's view, with a description mode at the position. -/
def described (p : Phase) (m : DescMode) : State :=
  { State.reset with description := { State.reset.description with view := ⟨⟨p, some m⟩, ⟨.dark, none⟩⟩ } }

theorem witness_OverlayPush_unsent :
    let s := withCalls [queued 1 4 1]
    let blocked := stacked 0 [ofCall 9 5] s
    let q := callPush (queued 1 4 1) .chime
    heldOff [queued 1 4 1, queued 3 4 1] (queued 3 4 1) = true ∧ heldOff [playing 1, queued 3 4 1] (queued 3 4 1) = false ∧
    (push q blocked).1 = false ∧ (after (.overlayPush q) blocked).zoneUnit.pushAnswer = some (.refused [(0, .priority)]) ∧
    after (.overlayPush { q with priority := 5 }) s = s ∧ after (.overlayPush { q with owner := .call 2 }) s = s ∧
    after (.overlayPush q) (withCalls [playing 1]) = withCalls [playing 1] ∧
    (let t := stacked 0 [{ ofCall 2 4 with source := .chime }] (withCalls [playing 2])
     after (.overlayRemoval (.call 2) 1) t = t ∧ after (.overlayRemoval (.call 2) 3) t = t) := by decide +kernel

theorem witness_OverlayPush_of_channels :
    let held := describer 0 fun r => { r with keys := 1 }
    let s := held (described .playing .free)
    let q := channelPush 0 (channelOf s 0).settings 0
    let on := fun talk u => stacked D0 [ofChannel 0] (channel 0 (fun ch => { ch with talk := talk }) u)
    let talk := fun u : State => (channelOf u 0).talk
    let gone := fun u => talk (after (.overlayRemoval (.channel 0) (oneZone D0)) u)
    talk (after (.overlayPush q) s) = .live ∧ talk (after (.overlayPush q) (stacked D0 [ofCall 1 7] s)) = .wait ∧
    after (.overlayPush q) (described .playing .free) = described .playing .free ∧ after (.overlayPush { q with depth := some (-60) }) s = s ∧
    gone (on .live (held (described .dark .free))) = .off ∧ gone (on .grace (described .playing .free)) = .idle ∧
    gone (on .live (held (described .playing .muted))) = .muted ∧
    gone (channel 0 (fun ch => { ch with settings := { ch.settings with grace := 0 } }) (on .live (held (described .playing .gapsOnly)))) = .cut ∧
    gone (on .live s) = .live ∧
    talk (after (.overlayRemoval (.channel 0) (oneZone D0 ||| 1)) (on .live (described .playing .free))) = .live := by decide +kernel

theorem witness_TalkAllowed :
    talkAllowed ⟨.gap, some .gapsOnly⟩ = true ∧ talkAllowed ⟨.playing, some .gapsOnly⟩ = false ∧
    talkAllowed ⟨.onBreak, some .muted⟩ = true ∧ talkAllowed ⟨.dark, some .free⟩ = false := by decide +kernel

theorem witness_TalkStateMachine :
    let held := describer 0 fun r => { r with keys := 1 }
    let on := fun talk => fun s => stacked D0 [ofChannel 0] (channel 0 (fun ch => { ch with talk := talk }) s)
    let talk := fun s => (channelOf (evaluate s 0) 0).talk
    talk (on .live (held (described .dark .free))) = .off ∧ talk (on .live (described .playing .free)) = .idle ∧
    talk (on .grace (held (described .playing .muted))) = .muted ∧ talk (on .live (held (described .playing .free))) = .live ∧
    talk (on .live (held (described .playing .gapsOnly))) = .grace ∧
    talk (on .live (held (channel 0 (fun ch => { ch with settings := { ch.settings with grace := 0 } }) (described .playing .gapsOnly)))) = .cut ∧
    talk (on .grace (held (described .gap .gapsOnly))) = .live ∧ talk (on .grace (held (described .playing .gapsOnly))) = .grace := by
  decide +kernel

theorem witness_TalkStateMachine_off_air :
    let held := describer 0 fun r => { r with keys := 1 }
    let on := fun talk s => channel 0 (fun ch => { ch with talk := talk }) s
    let talk := fun s => (channelOf (evaluate s 0) 0).talk
    talk (on .cut (described .playing .gapsOnly)) = .idle ∧ talk (on .cut (held (described .gap .free))) = .cut ∧
    talk (on .wait (described .playing .free)) = .idle ∧ talk (on .off (held (described .playing .muted))) = .muted ∧
    talk (on .idle (held (described .playing .gapsOnly))) = .wait ∧ talk (on .muted (held (described .playing .free))) = .live ∧
    talk (stacked D0 [ofCall 1 7] (on .idle (held (described .playing .free)))) = .wait := by decide +kernel

theorem witness_TalkStateEntry :
    let t := enter 0 .live none State.reset
    (channelOf t 0).talk = .live ∧ t.mail.offers.map Offer.detail1 = [3] ∧ t.mail.tallies = [(0, .live)] := by decide +kernel

theorem witness_TallyState :
    tallyState (channel 1 (fun ch => { ch with talk := .cut, settings := { ch.settings with input := some 0 } }) State.reset).description 0 =
      .cut ∧ tallyState (channel 3 (fun ch => { ch with settings := { ch.settings with input := none } }) State.reset).description 3 = .off := by
  decide +kernel

theorem witness_DescriptionEvents :
    let s := described .playing .free
    let key := fun e => mailed (fun m => { m with talkKeys := [⟨0, e⟩] })
    let held := describer 0 fun r => { r with keys := 64 }
    (channelOf (after .talkKeyPress (key .press s)) 0).talk = .live ∧
    ((after .talkKeyPress (key .press (held s))).description.describers.get 0).keys = 64 ∧
    ((after .talkKeyRelease (key .stuck (held s))).description.describers.get 0).keys = 63 ∧
    (channelOf (after (.describerLevelEvent 0) (mailed (fun m => { m with describerLevels := m.describerLevels.set 0 [.sound] })
      (channel 0 (fun ch => { ch with settings := { ch.settings with talkMode := .voice } }) s))) 0).talk = .live ∧
    answered (.talkOpen .booth) .booth 0x5A [0] s = some (.ok, []) ∧ answered (.talkClose .booth) .booth 0x5B [3] s = some (.ok, []) ∧
    answered (.talkOpen .booth) .booth 0x5A [4] s = some (.range, []) := by decide +kernel

theorem witness_DescriptionEvents_of_units :
    (channelOf (after .descPhaseEvent (mailed (fun m => { m with toDescription := [opening] }) State.reset)) 0).talk = .idle ∧
    (channelOf (after .descStackReport (mailed (fun m => { m with zoneToDescription := [⟨0b000000000100000000, []⟩] })
      (describer 0 (fun r => { r with latch := true }) (described .playing .free)))) 0).talk = .live ∧
    (let s := channel 0 (fun ch => { ch with talk := .grace, expiry := some 30 }) (described .playing .gapsOnly)
     (channelOf (after (.graceExpiry 0) { s with clock := 30 }) 0).talk = .cut ∧
     (channelOf (after (.graceExpiry 0) { s with clock := 29 }) 0).talk = .grace) := by decide +kernel

theorem witness_DescSet :
    let set := fun ps s => answered (.descSet .booth) .booth 0x58 ps s
    set [3, 8, 0, 0, 1, 0xE8, 0, 3] State.reset = some (.ok, []) ∧ set [0, 11, 1, 0xFF, 0, 0xE8, 0, 11] State.reset = some (.adjusted, []) ∧
    set [4, 8, 0, 0, 1, 0xE8, 0, 3] State.reset = some (.range, []) ∧ set [0, 12, 0, 0, 1, 0xE8, 0, 3] State.reset = some (.range, []) ∧
    set [0, 8, 0, 0, 1, 0xE8, 0, 3] (described .opened .free) = some (.state, []) ∧
    set [0, 8, 0, 0, 1, 0xE8, 0, 3] (store (fun u => { u with state := .saving [] }) State.reset) = some (.busy, []) ∧
    (let latched : State := { State.reset with description := { State.reset.description with
        describers := Table.fill 4 ⟨0, true, .quiet, .wait⟩ } }
     let t := after (.descSet .booth) (asking .booth 0x58 [0, 8, 0, 0xFF, 0, 0xE8, 0, 3] latched)
     t.mail.tallies = [(0, .off), (1, .off), (2, .off), (3, .off)] ∧
       t.description.describers.toList.map Describer.latch = (finUpTo 4).map (describerNamed t.description.channels)) := by
  decide +kernel

/-! ## Admission unit -/

/-- Hall A in a phase in the Admission unit's view, at a time. -/
def admitting (p : Phase) (now : Clock) : State :=
  admission (fun u => { u with view := ⟨p, .dark⟩ }) { State.reset with clock := now }

def party (n : Nat) (e : Fin 12) (size : Nat) (st : PartyState) : Party := ⟨n, e, .a, size, 0, st, .key, false⟩

def listing (l : List Party) (s : State) : State := admission (fun u => { u with parties := l }) s

/-- A GAP window of 20 s with its warn point 10 s before its end. -/
def gapWindow : Window := ⟨.gap, 0, some ⟨200, 100⟩, false, false⟩

def windowed (w : Window) (s : State) : State := admission (fun u => { u with windows := ⟨some w, none⟩ }) s

def lampsAt (s : State) (e : Fin 12) : EntranceLamp := (s.admission.entrances.get e).offered

theorem witness_ListChangeWorksRelaysAndLamps :
    let at_ := fun st w => listChanged (listing [party 1 0 2 st] (windowed w (admitting .gap 0)))
    lampsAt (at_ .admitting { gapWindow with closing := true }) 0 = .closing ∧ lampsAt (at_ .admitting gapWindow) 0 = .admitting ∧
    lampsAt (at_ .held gapWindow) 0 = .hold ∧ lampsAt (at_ .held gapWindow) 1 = .off ∧
    lampsAt (workLamps (modifyEntrance 1 (fun x => { x with usherPending := true }) State.reset)) 1 = .usher ∧
    (at_ .held gapWindow).mail.relays = [⟨0, some .a⟩] ∧ (at_ .held gapWindow).mail.lamps = [.offer 0 .hold] ∧
    (listChanged (listing [] (at_ .held gapWindow))).mail.relays = [⟨0, some .a⟩, ⟨0, none⟩] := by decide +kernel

theorem witness_SelectionStopsAtFirstMisfit :
    let l := [party 1 0 4 .held, party 2 1 1 .held, party 3 0 3 .held, party 4 0 1 .held]
    (l.map Party.number).Nodup ∧
    (selectByRoom 0 6 l).map Party.state = [.admitting, .held, .held, .held] ∧
    (selectByRoom 0 7 l).map Party.state = [.admitting, .held, .admitting, .held] ∧
    (selectByRoom 0 8 l).map Party.state = [.admitting, .held, .admitting, .admitting] := by decide +kernel

theorem witness_WindowOpens :
    let t := openWindow .a .gap (some 20) (listing [party 1 0 4 .held, party 2 0 3 .held] (admitting .gap 50))
    t.admission.windows.a = some ⟨.gap, 50, some ⟨250, 150⟩, false, false⟩ ∧ t.admission.parties.map Party.state = [.admitting, .held] ∧
    t.mail.admissionToCall = [.submit ⟨.admission, .a, 4, .phrases [1], .duck, 0b000001000000000000, 250⟩] ∧
    (openWindow .a .brk (some 10) (admitting .onBreak 50)).admission.windows.a.map Window.closing = some true ∧
    (openWindow .a .interval none (admitting .interval 50)).admission.windows.a = some ⟨.interval, 50, none, false, false⟩ := by
  decide +kernel

theorem witness_WindowOpens_without_a_call :
    let s := listing [party 1 0 4 .held] (admitting .gap 50)
    let silent := hall .a (fun r => { r with settings := { r.settings with phrase := none } }) s
    let told := fun t : State => (t.mail.admissionToCall.length, t.mail.offers.map Offer.detail1)
    told (openWindow .a .brk (some 10) s) = (1, [0, 2]) ∧ told (openWindow .a .interval none s) = (0, [16]) ∧
    told (openWindow .a .gap (some 20) silent) = (0, [8]) ∧ told (openWindow .b .gap (some 20) s) = (0, [8]) := by decide +kernel

theorem witness_WindowCloses :
    let t := closeWindow .a (windowed gapWindow (listing [party 1 0 4 .admitting] (admitting .gap 50)))
    t.admission.windows.a = none ∧ t.admission.parties.map Party.state = [.held] ∧ t.mail.admissionToCall = [.cancel .a] := by
  decide +kernel

theorem witness_AdmissionPhaseEvent :
    let go := fun (s : State) (old new : Phase) (ended : Option Admission) =>
      (after .admissionPhaseEvent (mailed (fun m => { m with toAdmission := [⟨.a, old, new, 0, 1, none, ended, .segEnd⟩] }) s)).admission.windows.a
    let bare := admitting .playing 0
    let open_ := windowed gapWindow (admitting .gap 0)
    go bare .dark .opened none = none ∧ go open_ .gap .playing none = none ∧ (go bare .opened .interval none).map Window.cause = some .interval ∧
    (go bare .interval .onBreak (some .atEnd)).map Window.cause = some .brk ∧ go bare .interval .onBreak (some .never) = none ∧
    (go bare .playing .gap none).map Window.cause = some .gap ∧ go open_ .playing .gap none = some gapWindow ∧
    go bare .gap .onBreak (some .never) = none ∧ (go bare .gap .onBreak (some .atGaps)).map Window.cause = some .brk ∧
    (go open_ .gap .onBreak (some .atGaps)).map Window.cause = some .brk ∧ go open_ .ended .onBreak none = some gapWindow ∧
    go open_ .gap .ended (some .atEnd) = none := by decide +kernel

theorem witness_WindowRetimes :
    let s := windowed gapWindow (admitting .onBreak 30)
    let short := hall .a (fun r => { r with settings := { r.settings with breakWindow := 10, warnTime := 30 } }) s
    let told := fun (w : Window) (t : State) => (retimeWindow .a w t).mail.offers.map fun o => (o.kind, o.detail0, o.detail1)
    (retimeWindow .a gapWindow s).admission.windows.a = some ⟨.brk, 0, some ⟨480, 380⟩, false, false⟩ ∧
    told gapWindow s = [(1, 0, 1)] ∧ told gapWindow short = [(1, 0, 1), (1, 0, 2)] ∧
    told { gapWindow with closing := true } short = [(1, 0, 1)] := by decide +kernel

theorem witness_WindowRequests :
    let s := fun n => windowed gapWindow (admitting .gap n)
    ((after (.windowWarn .a) (s 100)).admission.windows.a.map Window.closing) = some true ∧
    ((after (.windowWarn .a) (s 99)).admission.windows.a.map Window.closing) = some false ∧
    (after (.windowDeadline .a) (s 200)).admission.windows.a = none ∧ (after (.windowDeadline .a) (s 199)).admission.windows.a = some gapWindow ∧
    answered (.admitNow .house) .house 0x35 [0, 0, 10] (admitting .onBreak 0) = some (.ok, [0, 0, 0, 0, 0, 0, 0, 100]) ∧
    answered (.admitNow .house) .house 0x35 [0, 0, 10] (s 0) = some (.state, []) ∧
    answered (.admitNow .house) .house 0x35 [0, 0, 10] (admitting .interval 0) = some (.state, []) ∧
    answered (.admitExtend .house) .house 0x36 [0, 14] (s 0) = some (.adjusted, [0, 0, 0, 0, 0, 0, 1, 94]) ∧
    answered (.admitExtend .house) .house 0x36 [0, 15] (windowed { gapWindow with extended := true } (s 0)) = some (.state, []) ∧
    answered (.admitClose .house) .house 0x37 [0] (s 0) = some (.ok, []) ∧
    answered (.admitClose .house) .house 0x37 [0] State.reset = some (.state, []) := by decide +kernel

theorem witness_PartyRequests :
    let add := fun ps s => answered (.partyAdd .house) .house 0x31 ps s
    add [0, 9, 1] (admitting .playing 0) = some (.adjusted, [0, 1, 0]) ∧ add [1, 2, 1] (admitting .playing 0) = some (.range, []) ∧
    add [0, 0, 0] (admitting .playing 0) = some (.range, []) ∧ add [0, 2, 0] (admitting .opened 0) = some (.state, []) ∧
    add [0, 2, 0] (listing ((List.range 64).map fun i => party (i + 1) 0 1 .held) (admitting .gap 0)) = some (.full, []) ∧
    add [0, 8, 0] (listing ((List.range 63).map fun i => party (i + 2) 0 1 .held) (admitting .gap 0)) = some (.ok, [0, 1, 0]) ∧
    add [12, 2, 0] (admitting .playing 0) = some (.range, []) ∧ add [11, 2, 2] (admitting .playing 0) = some (.range, []) ∧
    answered (.partyMove .house) .house 0x33 [0, 1, 12] (admitting .playing 0) = some (.notFound, []) ∧
    answered (.partyMove .house) .house 0x33 [0, 1, 12] (listing [party 1 0 2 .held] (admitting .playing 0)) =
      some (.range, []) := by decide +kernel

theorem witness_PartyRequests_that_name_a_party :
    let s := listing [party 5 0 4 .admitting, party 6 0 4 .held] (admitting .gap 0)
    let remove := fun ps => answered (.partyRemove .house) .house 0x32 ps s
    let move := fun ps s => answered (.partyMove .house) .house 0x33 ps s
    remove [0, 7] = some (.notFound, []) ∧ remove [0, 5] = some (.ok, []) ∧ move [0, 7, 1] s = some (.notFound, []) ∧
    move [0, 6, 8] s = some (.range, []) ∧ move [0, 5, 1] s = some (.state, []) ∧ move [0, 6, 1] (windowed gapWindow s) = some (.state, []) ∧
    move [0, 6, 0] s = some (.ok, []) ∧
    (after (.partyMove .house) (asking .house 0x33 [0, 6, 1] s)).admission.parties.map Party.entrance = [0, 1] := by decide +kernel

theorem witness_PartyJoins :
    let s := admission (fun u => { u with counter := 999 }) (listing [party 999 0 1 .held] (admitting .gap 0))
    (addParty 0 2 .port false s).1 = 1 ∧ (addParty 0 2 .port false s).2.admission.counter = 2 ∧
    (addParty 0 2 .port false (listing [party 999 0 1 .held, party 1 0 1 .held] s)).1 = 2 := by decide +kernel

theorem witness_EntranceKeys :
    let hit := fun role event s => mailed (fun m => { m with entranceKeys := [⟨7, role, event⟩] }) s
    let s := listing [party 5 0 7 .held] (admission (fun u => { u with links := u.links.set 7 (some 5) }) (admitting .gap 0))
    let refusals := fun t : State => t.mail.lamps.countP fun m => decide (m = .refuse 0)
    (after .addKeyPress (hit (.add 0) .press (admitting .gap 0))).admission.parties.map Party.size = [1] ∧
    refusals (after .addKeyPress (hit (.add 0) .press (admitting .ended 0))) = 1 ∧
    (after .addKeyPress (hit (.add 0) .press (listing ((List.range 64).map fun i => party (i + 1) 0 1 .held) (admitting .gap 0)))).mail.offers.length = 1 ∧
    (after .addKeyRepeat (hit (.add 0) .again s)).admission.parties.map Party.size = [8] ∧
    refusals (after .addKeyRepeat (hit (.add 0) .again (listing [party 5 0 8 .held] s))) = 1 ∧
    refusals (after .addKeyRepeat (hit (.add 0) .again (admitting .gap 0))) = 1 := by decide +kernel

theorem witness_EntranceKeys_that_end_a_wait :
    let hit := fun role event s => mailed (fun m => { m with entranceKeys := [⟨7, role, event⟩] }) s
    let s := listing [party 5 0 3 .held, party 6 0 2 .held, party 7 0 2 .admitting] (admitting .gap 0)
    let refusals := fun t : State => t.mail.lamps.countP fun m => decide (m = .refuse 0)
    let numbers := fun t : State => t.admission.parties.map Party.number
    numbers (after .removeKeyPress (hit (.remove 0) .press s)) = [5, 7] ∧ refusals (after .removeKeyPress (hit (.remove 0) .press (listing [] s))) = 1 ∧
    numbers (after .removeKeyLong (hit (.remove 0) .long s)) = [7] ∧ numbers (after .doneKeyPress (hit (.done 0) .press s)) = [5, 6] ∧
    refusals (after .doneKeyPress (hit (.done 0) .press (listing [] s))) = 1 ∧
    (after .usherKeyPress (hit (.usher 0) .press s)).mail.offers.map Offer.detail1 = [0] ∧
    (after .usherKeyLong (hit (.usher 0) .long s)).mail.offers.map Offer.detail1 = [1] := by decide +kernel

theorem test_seat_count_stops :
    (seat (admission (fun u => { u with totals := ⟨65530, 0⟩ }) (listing [party 5 0 8 .admitting] (admitting .gap 0)))
      (party 5 0 8 .admitting)).admission.totals.a = 65535 := by decide +kernel

theorem witness_DoorSetAndUsherClear :
    let set := fun ps s => answered (.doorSet .house) .house 0x30 ps s
    answered (.usherClear .house) .house 0x38 [11] State.reset = some (.ok, []) ∧
    set [0, 0, 12, 6, 1, 0] State.reset = some (.ok, []) ∧ set [0, 0, 12, 17, 1, 0] State.reset = some (.adjusted, []) ∧
    set [0, 0, 12, 6, 1, 1] State.reset = some (.range, []) ∧ set [0, 0, 14, 6, 1, 0] State.reset = some (.range, []) ∧
    set [0, 0, 18, 6, 1, 0] State.reset = some (.range, []) ∧ set [0, 0, 12, 6, 1, 0] (admitting .opened 0) = some (.state, []) ∧
    set [0, 0, 12, 6, 1, 0] (store (fun u => { u with state := .saving [] }) State.reset) = some (.busy, []) ∧
    set [12, 0, 12, 6, 1, 0] (store (fun u => { u with state := .saving [] }) State.reset) = some (.range, []) ∧
    set [11, 0, 12, 6, 1, 11] State.reset = some (.ok, []) ∧
    answered (.usherClear .house) .house 0x38 [12] State.reset = some (.range, []) := by decide +kernel

/-! ## Panel unit -/

def timings : ScanTimings := ⟨20, 15, 400, 30⟩

def key (k : Fin 64) (r : KeyRecord) (s : State) : State := setKey k r s

theorem witness_SweepOfAKey :
    let sweep := fun down r => sweepKey timings down r
    (sweep true ⟨.up, 0, 0, 0, none⟩).state = .arming ∧ (sweep true ⟨.arming, 19, 0, 0, none⟩).due = some .debounced ∧
    (sweep true ⟨.arming, 18, 0, 0, none⟩).due = none ∧ (sweep false ⟨.arming, 19, 0, 0, none⟩).state = .up ∧
    (sweep true ⟨.down, 0, 1499, 0, none⟩).due = some .long ∧ (sweep true ⟨.down, 0, 1498, 0, none⟩).due = none ∧
    (sweep false ⟨.down, 19, 0, 0, none⟩).due = some .release ∧ (sweep true ⟨.longHeld, 0, 1899, 1900, none⟩).due = some .again ∧
    (sweep true ⟨.longHeld, 0, 1898, 1900, none⟩).due = none ∧ (sweep true ⟨.longHeld, 0, 29999, 30300, none⟩).due = some .stuck ∧
    (sweep true ⟨.stuck, 0, 30000, 0, none⟩).due = none ∧ (sweep true ⟨.ghost, 0, 0, 0, none⟩).state = .ghost := by decide +kernel

theorem witness_KeyScanSweep :
    (started.panel.sweepOpen = false ∧ started.panel.keys.all (fun r => r.due.isNone) = true) ∧
    ((after (.keyScanSweep 1) started).panel.keys.get 0).count = 1 ∧ after (.keyScanSweep 1) State.reset = State.reset := by
  decide +kernel

theorem witness_KeyScanSweep_with_a_key_left_due :
    let s := panel (fun u => { u with sweepOpen := true }) (key 9 ⟨.arming, 20, 0, 0, some .debounced⟩
      (key 8 ⟨.down, 20, 0, 0, some .release⟩ started))
    let left := after (.keyDebounceDone 9) (after (.keyRelease 8) s)
    let t := after (.keyScanSweep 0x300) s
    (left.panel.keys.get 9).state = .down ∧ left.panel.sweepOpen = false ∧
    (t.panel.keys.get 8, t.panel.keys.get 9) = (⟨.arming, 1, 0, 0, none⟩, ⟨.down, 0, 1, 0, none⟩) ∧
    t.mail.entranceKeys = left.mail.entranceKeys ∧ t.panel.sweepOpen = false := by decide +kernel

theorem witness_GhostKeys :
    let held : KeyRecord := ⟨.down, 0, 0, 0, none⟩
    let s := panel (fun u => { u with sweepOpen := true }) (key 0 held (key 1 held (key 8 held (key 9 ⟨.ghost, 0, 0, 0, none⟩ started))))
    completesRectangle s.panel.keys 9 = true ∧ ((closeSweep s).panel.keys.get 9).state = .ghost ∧
    ((closeSweep (key 8 ⟨.up, 0, 0, 0, none⟩ s)).panel.keys.get 9).state = .up ∧
    closeSweep (key 8 { held with due := some .long } s) = key 8 { held with due := some .long } s := by decide +kernel

theorem witness_KeyEvents :
    let at_ := fun st hold next due => panel (fun u => { u with sweepOpen := true }) (key 3 ⟨st, 20, hold, next, some due⟩ started)
    let state := fun t : State => (t.panel.keys.get 3).state
    state (after (.keyDebounceDone 3) (at_ .arming 0 0 .debounced)) = .down ∧
    state (after (.keyLong 3) (at_ .down 1500 0 .long)) = .longHeld ∧
    ((after (.keyRepeat 3) (at_ .longHeld 1900 1900 .again)).panel.keys.get 3).next = 2300 ∧
    state (after (.keyStuck 3) (at_ .longHeld 30000 0 .stuck)) = .stuck ∧ state (after (.keyRelease 3) (at_ .down 50 0 .release)) = .up ∧
    (after (.keyDebounceDone 48) (key 48 ⟨.arming, 20, 0, 0, some .debounced⟩ started)).mail.talkKeys = [⟨0, .press⟩] := by decide +kernel

theorem witness_PanelRequests :
    let map := fun ps s => answered (.keymapSet .stage) .stage 0x40 ps s
    map [63, 1, 0x62] State.reset = some (.ok, []) ∧ map [32, 32] State.reset = some (.range, []) ∧
    map ([32, 32] ++ List.replicate 32 0) State.reset = some (.ok, []) ∧ map ([33, 32] ++ List.replicate 32 0) State.reset = some (.range, []) ∧
    map [0, 1, 0x70] State.reset = some (.range, []) ∧ map [0, 1, 0] (show3 .opened 0) = some (.state, []) ∧
    map [0, 1, 0] (store (fun u => { u with state := .saving [] }) State.reset) = some (.busy, []) := by decide +kernel

theorem witness_PanelRequests_for_a_held_key :
    let s := panel (fun u => { u with down := 1 <<< 49 }) (key 48 ⟨.down, 5, 9, 0, none⟩ (key 49 ⟨.longHeld, 0, 9, 0, none⟩ State.reset))
    let t := after (.keymapSet .stage) (asking .stage 0x40 [48, 2, 0, 0] s)
    (t.panel.keys.get 48 = ⟨.up, 0, 0, 0, none⟩ ∧ t.panel.keys.get 49 = ⟨.arming, 0, 0, 0, none⟩) ∧
    t.mail.talkKeys.map TalkKey.event = [.release, .release] ∧ (t.panel.roles.get 48, t.panel.roles.get 50) = (.none, s.panel.roles.get 50) ∧
    (after (.keymapSet .stage) (asking .stage 0x40 [48, 1, 0x50] s)).panel.keys.get 48 = ⟨.down, 5, 9, 0, none⟩ := by decide +kernel

theorem witness_PanelRequests_for_scan_and_lamps :
    answered (.scanSet .stage) .stage 0x41 [20, 15, 1, 0x90, 30] State.reset = some (.ok, []) ∧
    answered (.scanSet .stage) .stage 0x41 [4, 15, 1, 0x90, 30] State.reset = some (.adjusted, []) ∧
    answered (.scanSet .stage) .stage 0x41 [20, 15, 1, 0x90, 30] (show3 .opened 0) = some (.state, []) ∧
    answered (.lampTest .booth) .booth 0x43 [11, 1, 5] State.reset = some (.denied, []) ∧
    answered (.lampTest .booth) .booth 0x43 [12, 4, 31] State.reset = some (.adjusted, []) ∧
    answered (.lampTest .stage) .stage 0x43 [0, 5, 0] State.reset = some (.ok, []) ∧
    answered (.lampTest .stage) .stage 0x43 [0, 6, 5] State.reset = some (.range, []) ∧
    answered (.lampTest .booth) .booth 0x43 [16, 1, 5] State.reset = some (.range, []) := by decide +kernel

theorem witness_LampPatterns :
    let r : Lamp := ⟨.slow, 3, none, false, none, none, 0⟩
    r.shown = 255 ∧ { r with frame := 4 }.shown = 0 ∧ { r with refuse := some 8 }.shown = 255 ∧ { r with refuse := some 7 }.shown = 0 ∧
    { r with refuse := some 8, test := some ⟨.dim, 0, 8⟩ }.shown = 64 := by decide +kernel

theorem witness_LampFrame :
    started.engine.started = true ∧
    ((after .lampFrame (panel (fun u => { u with entranceLamps := u.entranceLamps.set 0 .hold }) started)).panel.lamps.get 0).brightness = 64 ∧
    ((after .lampFrame (panel (fun u => { u with tallies := u.tallies.set 0 ⟨.cut, 15, false⟩ }) started)).panel.tallies.get 0).cut = 16 ∧
    (let shown := fun (l : Fin 16) (y : TallyRecord) (f : Lamp → Lamp) => ((after .lampFrame (panel (fun u =>
        { u with tallies := u.tallies.set 0 y, lamps := u.lamps.modify l f }) started)).panel.lamps.get l).brightness
     let y : TallyRecord := ⟨.cut, 16, true⟩
     shown 12 y (fun r => { r with pattern := .fast, frame := 1 }) = 255 ∧
     shown 12 { y with cutNew := false } (fun r => { r with pattern := .fast, frame := 1 }) = 64 ∧
     shown 3 y (fun r => { r with refuseNew := true }) = 255 ∧ shown 3 y (fun r => { r with refuse := some 7 }) = 0 ∧
     shown 3 y (fun r => { r with refuse := some 8, testNew := some (some ⟨.dim, 0, 8⟩) }) = 64) := by decide +kernel

theorem witness_LampOffersAndEnds :
    let lamp := fun (f : Lamp → Lamp) => panel (fun u => { u with lamps := u.lamps.modify 12 f }) started
    ((after .lampStateOffer (mailed (fun m => { m with lamps := [.offer 3 .usher] }) started)).panel.entranceLamps.get 3) = .usher ∧
    ((after .refuseIndication (mailed (fun m => { m with lamps := [.refuse 3] }) started)).panel.lamps.get 3).refuseNew = true ∧
    ((after .tallyStateOffer (mailed (fun m => { m with tallies := [(2, .cut)] }) started)).panel.tallies.get 2).cutNew = true ∧
    ((after (.refuseOverlayEnd 12) (lamp fun r => { r with refuse := some 0 })).panel.lamps.get 12).refuse = none ∧
    ((after (.lampTestEnd 12) (lamp fun r => { r with test := some ⟨.full, 0, 0⟩ })).panel.lamps.get 12).test = none ∧
    ((after (.cutFlashEnd 0) (panel (fun u => { u with tallies := u.tallies.set 0 ⟨.cut, 16, false⟩ })
      (lamp fun r => { r with pattern := .fast }))).panel.lamps.get 12).pattern = .dim := by decide +kernel

/-! ## Store unit -/

def stored (st : StoreState) (s : State) : State := store (fun u => { u with state := st, owner := some .stage }) s

def sevenths (n : Nat) : List Byte := List.replicate n 7

theorem witness_StoreRequests :
    let fill := fun ps s => answered (.storeFill .stage) .stage 0x61 ps s
    let s := stored .opened State.reset
    answered (.storeOpen .house) .house 0x60 [] State.reset = some (.ok, []) ∧ answered (.storeOpen .house) .house 0x60 [] s = some (.state, []) ∧
    answered (.storeOpen .house) .house 0x60 [] (withCalls [{ queued 1 4 1 with content := .phrases [1] }]) = some (.state, []) ∧
    answered (.storeOpen .house) .house 0x60 [] (store (fun u => { u with restartPending := true }) State.reset) = some (.busy, []) ∧
    answered (.storeFill .house) .house 0x61 [0, 1] s = some (.denied, []) ∧ fill [0] s = some (.range, []) ∧
    fill (200 :: sevenths 56) s = some (.ok, []) ∧ fill (201 :: sevenths 56) s = some (.range, []) ∧ fill (0 :: sevenths 57) s = some (.range, []) ∧
    fill [0, 1] State.reset = some (.state, []) ∧ fill [0, 1] (stored (.erasing 3) State.reset) = some (.busy, []) := by decide +kernel

theorem witness_StoreRequests_that_change_the_flash :
    let s := stored .opened State.reset
    answered (.storeProgram .stage) .stage 0x62 [0xFE, 0xFF] s = some (.ok, []) ∧
    answered (.storeProgram .stage) .stage 0x62 [0xFF, 0] s = some (.range, []) ∧
    (after (.storeErase .stage) (asking .stage 0x63 [254] s)).store.state = .erasing 254 ∧
    answered (.storeErase .stage) .stage 0x63 [255] s = some (.range, []) ∧
    (after (.storeClose .stage) (asking .stage 0x65 [] s)).store.owner = none ∧
    answered (.storeClose .stage) .stage 0x65 [] (stored (.programming 1) State.reset) = some (.busy, []) := by decide +kernel

theorem witness_ProgramCompletion :
    let s := store (fun u => { u with
      state := .programming 2, buffer := (Table.fill 256 0xFF).set 0 0x3E, flash := [(512, 0x2E), (600, 1)] }) State.reset
    let t := after .programComplete s
    s.store.flash.wf = true ∧ t.store.state = .opened ∧ t.store.flash = [(512, 0x2E), (600, 1)] ∧
    t.mail.offers.map Offer.detail0 = [1] ∧ t.store.buffer.get 0 = 0xFF := by decide +kernel

theorem witness_EraseCompletion :
    let s := store (fun u => { u with state := .erasing 1, flash := [(65535, 1), (65536, 2), (131071, 3), (131072, 4)] }) State.reset
    s.store.flash.wf = true ∧ (after (.eraseComplete []) s).store.flash = [(65535, 1), (131072, 4)] ∧
    (after (.eraseComplete []) s).mail.offers.map Offer.detail0 = [2] ∧
    (after (.eraseComplete [(70000, 5)]) s).mail.offers.map Offer.detail0 = [3] := by decide +kernel

theorem witness_SettingsSaving :
    let save := fun s => answered (.settingsSave .stage) .stage 0x66 [] s
    save State.reset = some (.ok, []) ∧ save (show3 .opened 0) = some (.state, []) ∧ save (stored .opened State.reset) = some (.state, []) ∧
    save (stored (.erasing 1) State.reset) = some (.busy, []) ∧
    save (store (fun u => { u with restartPending := true }) State.reset) = some (.busy, []) ∧
    (after (.saveComplete []) (store (fun u => { u with state := .saving [4, 0x9B], flash := [(5, 5)] }) State.reset)).store.flash =
      [(5, 5), (0xFF0000, 4), (0xFF0001, 0x9B)] := by decide +kernel

theorem witness_StoreReading :
    let read := fun ps s => answered (.storeRead .booth) .booth 0x64 ps s
    let waits := store (fun u => { u with reads := ⟨none, none, some ⟨4, 3⟩⟩, flash := [(5, 9)] })
    read [0, 0, 0, 0] State.reset = some (.range, []) ∧ read [0xFF, 0xFF, 0xFF, 1] State.reset = none ∧
    read [0xFF, 0xFF, 0xFF, 2] State.reset = some (.range, []) ∧ read [0, 0, 0, 57] State.reset = some (.range, []) ∧
    read [0, 0, 0, 56] (stored (.programming 0) State.reset) = some (.busy, []) ∧
    reply (after (.storeReadDone .booth) (waits State.reset)) .booth = some (.ok, [0xFF, 9, 0xFF]) ∧
    (after (.storeReadDone .booth) (waits (stored (.erasing 1) State.reset))).store.reads.booth = some ⟨4, 3⟩ := by decide +kernel

/-- The worked case: entry 40 for 12,000 samples at 010000H with gain −12. -/
theorem test_directory_entry_of_the_worked_case :
    let m : Flash := [(640, 40), (641, 1), (642, 0), (643, 0), (644, 0), (645, 0x2E), (646, 0xE0), (647, 0xF4)]
    directoryEntry m 40 = some ⟨0x10000, 12000, -12⟩ ∧ directoryEntry m 39 = none ∧ directoryEntry (m.put 643 1) 40 = none ∧
    directoryEntry (m.program 646 [0x80]) 40 = some ⟨0x10000, 11904, -12⟩ := by decide +kernel

theorem witness_RestartAndIdentity :
    let ask := fun s => after (.restart .house) (asking .house 0x67 [] s)
    (ask State.reset).store.restartPending = true ∧ (ask State.reset).ports.house.state = .pending ∧
    reply (ask (show3 .playing 0)) .house = some (.state, []) ∧ reply (ask (stored .opened State.reset)) .house = some (.state, []) ∧
    reply (ask (stored (.programming 1) State.reset)) .house = some (.busy, []) := by decide +kernel

theorem witness_StartUp :
    let s := store (fun u => { u with restartPending := true, flash := [(0xFF0000, 4), (0xFF0001, 0x9B)] }) (show3 .playing 0)
    let t := after (.restartTakesEffect 3) s
    s.store.flash.wf = true ∧ t.straps = 3 ∧ (hallOf t .a).phase = .dark ∧ t.store.flash = s.store.flash ∧
    ((t.notices.get .booth).kinds.get 15).pending = some ⟨1, 1, 1, 0⟩ ∧
    ((State.reset.notices.get .booth).kinds.get 15).pending = some ⟨1, 1, 0, 0⟩ := by decide +kernel

theorem witness_CutOperations :
    let m : Flash := [(65536, 1), (0xFF0000, 2)]
    m.wf = true ∧ (store (fun u => { u with state := .programming 65279, flash := m }) State.reset).store.state = .programming 65279 ∧
    (store (fun u => { u with state := .erasing 1, flash := m }) State.reset).store.flash = m ∧
    (buildImage factorySettings).length = 1183 ∧
    (store (fun u => { u with state := .saving [4], flash := m }) State.reset).store.state = .saving [4] ∧
    (startUp 1 (store (fun u => { u with state := .opened, flash := m }) State.reset)).store.flash = m := by decide +kernel

theorem test_crc_check_value : crc [0x31, 0x32, 0x33, 0x34, 0x35, 0x36, 0x37, 0x38, 0x39] = 0x29B1 := by decide +kernel

theorem test_factory_settings_read_back :
    (settingsBytes factorySettings).length = 1179 ∧ readSettings (settingsBytes factorySettings) = some factorySettings := by decide +kernel

theorem witness_ImageTests :
    (match loadImage [] with | .error .empty => true | _ => false) = true ∧
    (match loadImage [(0xFF0000, 4), (0xFF0001, 0x9C)] with | .error .content => true | _ => false) = true ∧
    (match loadImage [(0xFF0000, 4), (0xFF0001, 0x9B)] with | .error .crc => true | _ => false) = true := by decide +kernel

/-! ## Ports -/

def port (f : PortRecord → PortRecord) (s : State) : State := { s with ports := s.ports.modify .house f }

def holding (r : Reply) (s : State) : State := port (fun q => { q with state := .ready, reply := some r }) s

def receiving (bytes : List Byte) (s : State) : State := port (fun q => { q with state := .receiving, buffer := bytes }) s

theorem witness_WriteStart :
    let start := fun addr data s => (after (.i2cWriteStart .house addr data) s).ports.house
    (start 0x2C [1] State.reset).bus.addressAck = false ∧ (start 0x2D [1] started).state = .idle ∧
    (start 0x2C (sevenths 63) started).overflow = false ∧ (start 0x2C (sevenths 64) started).overflow = true ∧
    (start 0x2C (sevenths 64) started).bus.dataAcks = 63 ∧ (start 0x2C [1] (holding ⟨.ok, 1, []⟩ started)).setAside = some ⟨.ok, 1, []⟩ ∧
    (start 0x2C [1] (asking .house 0x68 [] started)).state = .pending ∧ (start 0x2F [1] { started with straps := 3 }).state = .receiving := by
  decide +kernel

theorem witness_EndOfWrite :
    let done := fun bytes => (after (.i2cWriteEnd .house) (receiving bytes started)).ports.house
    (done []).state = .idle ∧ (done [0x68]).reply = some ⟨.frame, 0, []⟩ ∧ (done [0x68, 5, 61]).reply = some ⟨.frame, 5, []⟩ ∧
    (done [0x68, 5, 0]).request = some ⟨0x68, []⟩ ∧ (done [0x69, 5, 0]).reply = some ⟨.unknown, 5, []⟩ ∧
    (done [0x5A, 5, 1, 0]).reply = some ⟨.denied, 5, []⟩ ∧ (done [0x68, 5, 1, 0]).reply = some ⟨.range, 5, []⟩ ∧
    (done ([0x61, 5, 60] ++ sevenths 60)).state = .pending ∧
    (after (.i2cWriteEnd .house) (port (fun q => { q with ret := .ready, setAside := some ⟨.ok, 1, []⟩ }) (receiving [] started))).ports.house.reply =
      some ⟨.ok, 1, []⟩ := by decide +kernel

theorem witness_WriteEndAndTimeout :
    (after (.writeTimeout .house) (receiving [1, 2] started)).ports.house.state = .idle ∧
    (after (.writeTimeout .house) (port (fun q => { q with ret := .ready, setAside := some ⟨.ok, 1, []⟩ }) (receiving [1] started))).ports.house.state =
      .ready ∧ after (.writeTimeout .house) started = started := by decide +kernel

theorem witness_Reads :
    let read := fun addr n s => (after (.i2cRead .house addr n) s).ports.house.bus
    let no := port fun q => { q with mode := .noStretch }
    (read 0x2D 3 started).addressAck = false ∧ (read 0x2C 4 started).sent = [0x0B, 0, 0, 0xFF] ∧
    (read 0x2C 6 (holding ⟨.ok, 9, [1, 2]⟩ started)).sent = [0, 9, 2, 1, 2, 0xFF] ∧ (read 0x2C 2 (holding ⟨.ok, 9, [1, 2]⟩ started)).sent = [0, 9] ∧
    (read 0x2C 4 (no (asking .house 0x68 [] started))).sent = [0x0A, 0x2A, 0, 0xFF] ∧
    (read 0x2C 4 (asking .house 0x68 [] started)).stretch = some 4 ∧
    (after (.stretchLimit .house) (port (fun q => { q with bus := ⟨true, 0, [], some 4⟩ }) (asking .house 0x68 [] started))).ports.house.bus.sent =
      [0x0A, 0x2A, 0, 0xFF] := by decide +kernel

theorem witness_AnswerTaken :
    let s := asking .house 0x68 [] started
    (s.ports.get .house).tag = some 0x2A ∧ (s.ports.get .house).bus.stretch = none ∧
    (answer .house .ok [7] (port (fun q => { q with bus := ⟨true, 0, [], some 5⟩ }) s)).ports.house.bus.sent = [0, 0x2A, 1, 7, 0xFF] := by
  decide +kernel

/-! ## Notices -/

def heard (k : Fin 16) (e : NoticeEntry) (n : NoticeSet) : NoticeSet := { n with kinds := n.kinds.set k e }

def level (up : Bool) : Offer := ⟨6, 2, 1, 77, ⟨true, true, true⟩, some (if up then .rise else .fall)⟩

theorem witness_SetTakesOffer :
    let n := State.reset.notices.house
    let got := fun (m : NoticeSet) => (m.kinds.get 6).pending
    got (n.take (level true)) = some ⟨1, 2, 1, 77⟩ ∧ got ({ n with edge := .fall }.take (level true)) = none ∧
    got ({ n with edge := .rise }.take (level false)) = none ∧ got ({ n with hold := false }.take (level true)) = none ∧
    got ((heard 6 ⟨true, some ⟨14, 9, 9, 5⟩⟩ n).take (level true)) = some ⟨15, 9, 9, 5⟩ ∧
    got ((heard 6 ⟨false, some ⟨15, 9, 9, 5⟩⟩ n).take (level true)) = some ⟨15, 9, 9, 5⟩ := by decide +kernel

theorem witness_NoticeOffer :
    let s := mailed (fun m => { m with offers := [level true, level false] }) State.reset
    (after (.noticeOffer 1) s).mail.offers = [level true] ∧ after (.noticeOffer 2) s = s := by decide +kernel

theorem test_attention_after_start_up : attention State.reset.notices.booth = true ∧
    attention (after (.noticeAck .booth) (asking .booth 0x71 [0x80, 0] State.reset)).notices.booth = false := by decide +kernel

theorem witness_NoticeReading :
    let pending := fun n : NoticeSet => { n with kinds := n.kinds.map fun _ => ⟨false, some ⟨3, 1, 2, 0x01020304⟩⟩ }
    let s : State := { State.reset with notices := State.reset.notices.modify .house pending }
    ((answered (.noticeRead .house) .house 0x70 [] State.reset) = some (.ok, [1, 0, 0x1F, 1, 0, 0, 0, 0, 0])) ∧
    ((answered (.noticeRead .house) .house 0x70 [] s).map fun r => r.2.take 9) = some [8, 1, 0x30, 1, 2, 1, 2, 3, 4] ∧
    (let t := after (.noticeRead .house) (asking .house 0x70 [] s)
     (t.notices.house.kinds.get 7).pending = none ∧ (t.notices.house.kinds.get 8).pending ≠ none ∧
     (t.notices.stage.kinds.get 15).pending ≠ none) := by decide +kernel

theorem witness_NoticeAckAndSet :
    let set := fun ps => answered (.noticeSet .house) .house 0x72 ps State.reset
    let t := after (.noticeSet .house) (asking .house 0x72 [0x80, 1, 0, 2, 1, 1] State.reset)
    set [0, 0, 1, 2, 1, 1] = some (.ok, []) ∧ set [0, 0, 2, 0, 0, 0] = some (.range, []) ∧ set [0, 0, 0, 3, 0, 0] = some (.range, []) ∧
    set [0, 0, 0, 0, 2, 0] = some (.range, []) ∧ set [0, 0, 0, 0, 0, 2] = some (.range, []) ∧
    (t.notices.house.kinds.get 15).masked = true ∧ (t.notices.house.kinds.get 1).masked = false ∧ t.ports.house.mode = .noStretch := by
  decide +kernel

/-! ## Status requests -/

theorem witness_HallAndZoneStatus :
    answered (.hallStatus .booth) .booth 0x1B [0] (show3 .interval 1) = some (.ok, [5, 1, 3, 0, 0xFF, 0, 0, 0xFF, 0xFF, 0xFF, 0xFF, 0, 0]) ∧
    answered (.hallStatus .booth) .booth 0x1B [2] State.reset = some (.range, []) ∧
    answered (.zoneStatus .booth) .booth 0x21 [0] (stacked 0 [ofChannel 1, ofCall 5 3] State.reset) =
      some (.ok, [0, 0, 0, 0xFF, 5, 0x87, 0x87, 0x87, 0, 0, 0, 0, 0, 0xFF, 0xFF, 0xFF, 0xFF, 2,
        0, 0, 0xE8, 3, 0, 5, 7, 0, 0xE8, 6, 1, 1]) ∧
    ((answered (.zoneStatus .booth) .booth 0x21 [17] State.reset).map fun r => r.2.length) = some 18 ∧
    answered (.zoneStatus .booth) .booth 0x21 [18] State.reset = some (.range, []) ∧
    ((answered (.zoneStatus .booth) .booth 0x21 [0] (zones (fun u => u.modifyZone 0 fun r => { r with target := -24 }) State.reset)).map
      fun r => (r.2.drop 5).take 3) = some [0x87, 0xE8, 0x87] := by decide +kernel

theorem witness_PartyAndCallLists :
    let s := listing ((List.range 9).map fun i => party (i + 1) 11 8 .admitting) State.reset
    ((answered (.partyList .booth) .booth 0x34 [2] s).map fun r => r.2.take 11) = some [9, 2, 0, 0x2C, 3, 8, 2, 0, 0, 0, 0] ∧
    ((answered (.partyList .booth) .booth 0x34 [1] s).map fun r => r.2.take 3) = some [9, 1, 1] ∧
    answered (.partyList .booth) .booth 0x34 [63] s = some (.ok, [9, 63, 0]) ∧
    answered (.partyList .booth) .booth 0x34 [64] s = some (.range, []) ∧
    answered (.callList .booth) .booth 0x53 [0] (withCalls [playing 2]) = some (.ok, [1, 0, 0, 2, 9, 12, 3, 0xFF, 0, 0, 1]) ∧
    answered (.callList .booth) .booth 0x53 [15] State.reset = some (.ok, [0, 15, 0]) ∧
    answered (.callList .booth) .booth 0x53 [16] State.reset = some (.range, []) := by decide +kernel

theorem witness_LevelKeyAndDescriptionStatus :
    ((answered (.levelRead .booth) .booth 0x29 [] State.reset).map fun r => (r.2.length, r.2.take 3)) = some (54, [0x40, 0, 0]) ∧
    ((answered (.keyStatus .booth) .booth 0x42 [48] State.reset).map fun r => (r.2.length, r.2.take 5)) = some (40, [48, 0, 0x50, 0, 0x51]) ∧
    answered (.keyStatus .booth) .booth 0x42 [63] State.reset = some (.ok, [63, 0, 0, 0, 0, 20, 15, 1, 0x90, 30]) ∧
    answered (.keyStatus .booth) .booth 0x42 [64] State.reset = some (.range, []) ∧
    ((answered (.descStatus .booth) .booth 0x59 [] State.reset).map fun r => (r.2.length, r.2.take 10)) =
      some (56, [8, 0, 0, 0, 0xE8, 0, 3, 0, 0xFF, 0xFF]) := by decide +kernel

theorem witness_SavedImageReadsBack : Flash.wf [(5, 5)] = true ∧ (buildImage factorySettings).length ≤ 65536 ∧
    ((Flash.erase [(5, 5)] 255).putAll 0xFF0000 [1, 2]).readAll 0xFF0000 2 = [1, 2] := by decide +kernel

theorem witness_Router :
    requestRow 0x69 = none ∧ (requestRow 0x5A).map (fun r => (r.permits .house, r.permits .booth, r.length)) = some (false, true, some 1) ∧
    (requestRow 0x61).map (fun r => (r.permits .stage, r.length)) = some (true, none) ∧
    (requestRow 0x16).map (fun r => (r.permits .stage, r.permits .house, r.length)) = some (true, false, some 1) := by decide +kernel

/-! ## What every step keeps -/

/-- A state with a party, a window, two calls, a stack and a waiting command. -/
def busyState : State :=
  { hall .a (fun r => { r with phase := .gap })
      (listing [party 5 0 4 .admitting, party 6 0 3 .held] (windowed gapWindow (admitting .gap 0))) with
    call := { State.reset.call with queue := [queued 1 4 1, queued 2 4 1] }
    zoneUnit := (stacked 0 [ofCall 2 4, ofCall 1 3] State.reset).zoneUnit
    pending := [.houseClockTick] }

theorem witness_kept_step : step busyState = .next (after .houseClockTick { busyState with pending := [] }) := rfl

theorem witness_StacksKept : StacksLaw busyState := by decide +kernel

theorem witness_QueueKept : QueueLaw busyState.call :=
  ⟨by decide +kernel, by decide +kernel, by decide +kernel, by decide +kernel, by decide +kernel⟩

theorem witness_WaitingKept : WaitingLaw busyState.admission where
  few := by decide +kernel
  distinct := by decide +kernel
  inRange := by decide +kernel
  counter := by decide +kernel
  live := by decide +kernel
  hall := by decide +kernel
  window := fun h => by cases h <;> decide +kernel
  admitting := by decide +kernel

theorem witness_PhaseChainKept : PhaseLaw busyState ∧
    PhaseLaw (mailed (fun m => { m with toAdmission := [⟨.a, .dark, .opened, 0, 1, none, none, .hallOpen⟩] }) (show3 .opened 0)) :=
  ⟨fun h => by cases h <;> rfl, fun h => by cases h <;> exact by simp [Follows, mailed, show3, hall, setHall, hallOf]; decide⟩

theorem witness_AdmittingKept : AdmittingLaw busyState.admission where
  order := by decide +kernel
  quota := by
    have all : ∀ e, (busyState.admission.entrances.get e).admitted + seats (admittingAt busyState.admission e) ≤
        (busyState.admission.entrances.get e).settings.quota := by decide +kernel
    exact fun e _ _ _ => Nat.add_comm _ _ ▸ all e
  deadline := fun h w hw => by cases h <;> cases hw; decide
  interval := fun h w hw => by cases h <;> cases hw; decide

theorem witness_StoreLawKept : StoreLaw busyState ∧ StoreLaw (stored .opened State.reset) ∧ storeOpen (stored .opened State.reset) = true := by
  decide +kernel

theorem witness_ChannelsKept (c : Fin 4) : ChannelLaw busyState c where
  overlay := by revert c; decide +kernel
  expiry := by revert c; decide +kernel
  dark := by revert c; decide +kernel

theorem witness_FlashAndPortsKept : FlashLaw busyState ∧ ∀ p, PortLaw (busyState.ports.get p) :=
  ⟨rfl, fun p => by cases p <;> exact ⟨by decide, by decide, by decide, by decide⟩⟩

theorem witness_OutputKept : OutputLaw busyState :=
  ⟨by decide +kernel, by decide +kernel, by decide +kernel, by decide +kernel⟩

/-! ## What the outputs carry -/

theorem test_output_slots_carry_their_zones :
    outputZone 0 3 = some 11 ∧ outputZone 0 4 = none ∧ outputZone 1 0 = some 12 ∧ outputZone 1 6 = none := by decide

theorem test_loop_and_lamp_outputs_at_reset :
    loopOutput State.reset 0 0 2047 = true ∧ loopOutput State.reset 0 0 2048 = false ∧
      lampOutput State.reset 0 0 = false := by decide

theorem witness_OutputsCarry :
    let s : State := { started with engine := { started.engine with dutyOut := started.engine.dutyOut.set 7 [2050] } }
    (s.engine.dutyOut.get 7)[0]? = some 2050 ∧ s.engine.dutyOut.get 0 = [] ∧ loopOutput s 7 0 2049 = true ∧ loopOutput s 7 0 2050 = false ∧
    outputSample { started with engine := { started.engine with sending := started.engine.sending.set 17 [9] } } 1 5 0 = 9 := by
  decide +kernel

/-! ## Records and settings -/

/-- R79: an over-current that shuts an open loop, with the end of the open loop behind it: the loop stays shown open. -/
theorem test_open_loop_that_shuts_is_still_shown_open :
    let s := mailed (fun m => { m with loopEvents := m.loopEvents.set 0 [.overCurrent, .openEnd] })
      (loop 0 (fun r => { r with foldBack := .by36, openFlag := true }) State.reset)
    let r := (after (.openLoopEnd 0) (after (.overCurrentEvent 0) s)).zoneUnit.loops.get 0
    r.shut = true ∧ r.openFlag = true := by decide +kernel

theorem witness_SegmentRecords :
    let one : List Byte := [2, 2, 1, 0x0E, 0x10, 7]
    readSegment one = some (⟨.interval, .atGaps, .gapsOnly, some 3600, some 7⟩, false) ∧
    readSegment (one.set 4 0x11) = some (⟨.interval, .atGaps, .gapsOnly, some 3600, some 7⟩, true) ∧
    readSegment [2, 0, 2, 0, 59, 0xFF] = some (⟨.interval, .never, .muted, some 60, none⟩, true) ∧
    readSegment [1, 0, 0, 0xFF, 0xFF, 0xFF] = some (⟨.speech, .never, .free, none, none⟩, false) ∧
    readSegment [0, 1, 0, 0xFF, 0xFF, 0] = some (⟨.music, .atEnd, .free, none, none⟩, true) ∧
    (∀ i ∈ [0, 1, 2], readSegment (one.set i 3) = none) ∧ readSegment (one.set 5 8) = none ∧
    readSegments (one ++ one.set 0 3) 2 = none ∧ (readSegments (one ++ one) 2).isSome = true := by decide +kernel

theorem witness_FireAtOnce :
    let s := hall .a (fun r => { r with due := some 0, steps := [⟨0, 0, 0⟩, ⟨0, 6, 0⟩, ⟨0, 1, 5⟩] }) planned
    let t := fireAtOnce .a 6 s
    (hallOf t .a).steps = [⟨0, 1, 5⟩] ∧ t.mail.toCall = [.submit ⟨.plan 0 0, .a, 4, .chime 0 1, .duck, 0b000001000000000000, 0⟩] ∧
    reached 0 5 = false ∧ fireAtOnce .a 6 State.reset = State.reset ∧
    (hallOf (fireAtOnce .a 6 (hall .a (fun r => { r with due := some 0, steps := List.replicate 6 ⟨0, 1, 0⟩ }) planned)) .a).steps = [] := by
  decide +kernel

theorem witness_PlanStepAndHallRecords :
    let step : List Byte := [0x0E, 0x11, 1, 7, 5, 0xFF, 0xFF, 0xFF, 0xFF, 0xFF, 2, 0, 1, 7, 1]
    let hall_ := readHallSettings
    readPlanStep step = some (⟨3600, .chime 7 4, 0b100000000000000001, 6, .replace⟩, true) ∧
    readPlanStep [0, 0, 0, 2, 255, 0, 0xFF, 0xFF, 0xFF, 0xFF, 0, 0, 1, 6, 0] = some (⟨0, .phrases [255, 0], 1, 6, .duck⟩, false) ∧
    hall_ [1, 0x2D, 121, 31, 255, 7] = some (⟨300, 120, 30, none, some 7⟩, true) ∧
    hall_ [0, 9, 4, 0, 254, 255] = some (⟨10, 5, 0, some 254, none⟩, true) ∧
    hall_ [0, 10, 5, 30, 0, 0] = some (⟨10, 5, 30, some 0, some 0⟩, false) := by decide +kernel

theorem witness_ZoneRecords :
    let low : List Byte := [0, 0xE7, 0, 0, 0xC3, 0, 0x86, 0x86, 1, 7, 0xFF]
    let high : List Byte := [1, 25, 21, 21, 1, 1, 25, 25, 0xFF, 8, 0]
    readZoneCommon low = (⟨-24, 1, 1, -60⟩, true) ∧ readZoneCommon high = (⟨24, 20, 20, 0⟩, true) ∧
    readZoneCommon [0, 24, 20, 1, 0xC4] = (⟨24, 20, 1, -60⟩, false) ∧
    readLoopSettings low = some (⟨.a, 2047⟩, false) ∧ readLoopSettings high = some (⟨.b, 2047⟩, true) ∧
    readLoopSettings (low.set 0 2) = none ∧
    readFoyerSettings low = some (⟨.aux, -121, -121, some .b⟩, true) ∧ readFoyerSettings high = some (⟨.silence, 24, 24, none⟩, true) ∧
    readFoyerSettings (low.set 5 2) = none ∧ readFoyerSettings (low.set 8 2) = none := by decide +kernel

theorem witness_ServedHallsDark :
    let s := zones (fun u => { u with view := ⟨.opened, .dark⟩ }) State.reset
    zoneKind 0 = .loop 0 ∧ zoneKind 6 = .loop 6 ∧ zoneKind 9 = .desc 1 ∧ zoneKind 10 = .desc 2 ∧ zoneKind 14 = .foyer 2 ∧
    servedDark s 0 [1] = false ∧ servedDark s 6 [1] = true ∧ servedDark s 6 [0] = false ∧ servedDark s 9 [] = false ∧
    servedDark s 10 [] = true := by decide +kernel

theorem witness_ServedHallsDark_of_foyers :
    let s := zones (fun u => { u with view := ⟨.opened, .dark⟩ }) State.reset
    let quiet : List Byte := [0, 0, 0, 0, 0, 0, 0, 0, 0xFF]
    servedDark s 12 quiet = false ∧ servedDark s 14 quiet = true ∧ servedDark s 14 (quiet.set 8 0) = false ∧
    servedDark s 14 (quiet.set 8 1) = true ∧ servedDark s 17 quiet = true := by decide +kernel

theorem witness_LevelRecords :
    readSoundSettings [1, 0x87, 0, 0, 1, 0xF5] = (⟨0, -120, 1, 500⟩, true) ∧
    readSoundSettings [0xB0, 0xB1, 0, 1, 1, 0xF4] = (⟨-80, -80, 1, 500⟩, true) ∧
    readSoundSettings [0xB0, 0xB0, 0, 1, 1, 0xF4] = (⟨-80, -80, 1, 500⟩, false) ∧
    readSenseSettings [1, 0x87, 0, 1, 0xF5] = (⟨0, -120, 0, 500⟩, true) ∧
    channelHalls State.reset 3 = [.a] ∧ channelHalls State.reset 4 = [.b] ∧ channelHalls State.reset 11 = [.a] ∧
    channelHalls State.reset 12 = [.b] ∧ channelHalls (channel 1 (fun c => { c with settings := { c.settings with input := none } }) State.reset) 3 = [] := by
  decide +kernel

theorem witness_ChannelRecords :
    let one : List Byte := [11, 1, 255, 1, 0xC3, 13, 11]
    readChannelSettings one = some (⟨3, .b, none, .voice, -60, 12, 10⟩, true) ∧
    readChannelSettings [8, 0, 3, 0, 0xC4, 0xE8, 10] = some (⟨0, .a, some 3, .key, -60, -24, 10⟩, false) ∧
    readChannelSettings (one.set 0 12) = none ∧ readChannelSettings (one.set 0 7) = none ∧ readChannelSettings (one.set 1 2) = none ∧
    readChannelSettings (one.set 2 4) = none ∧ readChannelSettings (one.set 3 2) = none ∧
    channelDark (described .opened .free) 2 [2, 10, 1] = true ∧ channelDark (described .opened .free) 2 [2, 10, 0] = false ∧
    channelDark (described .opened .free) 0 [0, 8, 1] = false := by decide +kernel

theorem witness_DoorRecords :
    let one : List Byte := [1, 17, 17, 1, 11]
    readEntranceSettings one = some (⟨.b, some 5, 16, true, some 11⟩, true) ∧
    readEntranceSettings [0, 255, 0, 0, 255] = some (⟨.a, none, 1, false, none⟩, true) ∧
    readEntranceSettings (one.set 0 2) = none ∧ readEntranceSettings (one.set 1 18) = none ∧ readEntranceSettings (one.set 1 11) = none ∧
    readEntranceSettings (one.set 3 2) = none ∧ readEntranceSettings (one.set 4 12) = none ∧
    doorDark (admitting .gap 0) 8 [8, 1] = true ∧ doorDark (admitting .gap 0) 8 [8, 0] = false ∧ doorDark (admitting .gap 0) 0 [0, 1] = false ∧
    moveLamp (some 1) (some 1) .hold State.reset = State.reset := by decide +kernel

theorem witness_DoorRecords_lamps :
    let moved := fun old new => (moveLamp old new .hold State.reset).mail.lamps
    moved (some 1) (some 2) = [.offer 1 .off, .offer 2 .hold] ∧ moved (some 1) none = [.offer 1 .off] ∧
    moved none (some 2) = [.offer 2 .hold] := by decide +kernel

theorem witness_PanelRecords :
    readTimings [4, 51, 0, 99, 9] = (⟨5, 50, 100, 10⟩, true) ∧ readTimings [41, 4, 3, 0xE9, 121] = (⟨40, 5, 1000, 120⟩, true) ∧
    readTimings [40, 5, 3, 0xE8, 120] = (⟨40, 5, 1000, 120⟩, false) ∧ readRole 0x1B = some (.add 11) ∧ readRole 0x1C = none ∧
    readRole 0x01 = none ∧ readRole 0x53 = some (.talk 3) ∧ readRole 0x54 = none ∧ readRole 0x63 = none ∧ readRole 0x70 = none ∧
    readRoles [0, 0x62] = some [.none, .portKey .booth] ∧ readRoles [0, 0x63] = none := by decide +kernel

/-! ## Calls, passes and parties -/

theorem witness_CallForms :
    let phrase := phraseBytes 0x10 0
    let six := (phrase.take 2) ++ [6, 127, 0, 1, 2, 3, 4] ++ phrase.drop 9
    (readCall six).map CallForm.content = some (.phrases [127, 0, 1, 2, 3, 4]) ∧ (readCall ((chimeBytes 7 1).set 2 7)).isSome = true ∧
    (readCall ((chimeBytes 7 1).set 1 2)).map CallForm.content = some (.live 0) ∧
    (readCall (((chimeBytes 7 1).set 15 1).set 16 3)).map CallForm.deadline = some (some 1023) ∧
    ∀ bad ∈ [phrase.set 2 0, phrase.set 2 7, phrase.set 3 128, (chimeBytes 4 0).set 2 8, ((chimeBytes 4 0).set 1 2).set 2 2,
        (chimeBytes 4 0).set 1 3, (chimeBytes 4 0).set 12 0, (chimeBytes 4 0).set 11 4, (chimeBytes 4 0).set 10 2, chimeBytes 8 0,
        chimeBytes 4 2, (chimeBytes 4 0).set 15 2], bad.length = 19 ∧ readCall bad = none := by decide +kernel

theorem witness_SchedulingPass :
    let states := fun s : State => (pass s).call.queue.map fun c => (c.id, decide (c.state = .queued))
    states (withCalls [queued 1 4 3, queued 2 4 4]) = [(1, false), (2, true)] ∧
    states (stacked 0 [ofCall 9 5] (withCalls [queued 1 4 3, queued 2 4 2, queued 3 4 4])) = [(1, true), (2, true), (3, false)] ∧
    (let c := queued 1 4 1
     tryCall 0 c (stacked 0 [ofCall 9 4] (withCalls [c])) = (false, stacked 0 [ofCall 9 4] (withCalls [c])) ∧
     tryCall 3 c (withCalls [c]) = (false, withCalls [c]) ∧
     freeResource (calls (fun u => { u with chime := some (.begin 5 0 1) }) (withCalls [c])).call c.content = none ∧
     (push (callPush c .chime) (stacked 0 [ofCall 1 3] (withCalls [c]))).1 = false ∧
     available (stacked 0 [ofCall 1 3] (withCalls [c])).zoneUnit c 0 = true) := by decide +kernel

theorem witness_SchedulingPass_availability :
    let at_ := fun stack hushed c => available (loop 0 (fun r => { r with hushed := hushed }) (stacked 0 stack State.reset)).zoneUnit c 0
    at_ [ofCall 7 2, ofCall 8 1] false (queued 1 3 1) = true ∧ at_ [ofCall 7 3, ofCall 8 1] false (queued 1 3 1) = false ∧
    at_ [ofCall 6 3, ofCall 7 2, ofCall 8 1] false (queued 1 4 1) = false ∧ at_ [] true (queued 1 5 1) = false ∧
    at_ [] true (queued 1 6 1) = true ∧ at_ [] true { queued 1 4 1 with origin := .admission } = true := by decide +kernel

theorem witness_CallResources :
    let held : Player := .begin (Table.fill 128 none) 4 [1]
    let u := fun n => { State.reset.call with players := (Table.fill 3 none).set n (some held) }
    freeResource (u 0) (.phrases [1]) = some (.player 1) ∧ freeResource (u 2) (.phrases [1]) = some (.player 0) ∧
    freeResource { u 0 with players := Table.fill 3 (some held) } (.phrases [1]) = none ∧ freeResource (u 0) (.chime 0 1) = some .chime ∧
    freeResource (u 0) (.live 1) = some (.mic 1) ∧ freeResource { u 0 with mics := Table.fill 2 (some 3) } (.live 1) = none ∧
    phraseEntry (withPhrase State.reset).store.directory 1 = some ⟨0x10000, 100, 0⟩ ∧ phraseEntry (withPhrase State.reset).store.directory 128 = none ∧
    (callPush { queued 1 4 1 with origin := .admission } .chime).exempt = true ∧ (callPush (queued 1 4 1) .chime).exempt = false := by
  decide +kernel

theorem witness_ContentEnds :
    let c : Call := { queued 1 4 1 with content := .phrases [1, 2], repeats := some 2, state := .started (.player 0) 1 false }
    let s := fun (index pass : Nat) => calls (fun u => { u with players := u.players.set 0 (some ⟨1, false, index, pass, ⟨0, 0, 0⟩, .ended⟩) }) (withCalls [c])
    let g := fun (done blocks : Nat) => calls (fun u => { u with chime := some ⟨2, false, 0, 2, done, 0, blocks, blocks⟩ }) (withCalls [playing 2])
    findCall (s 1 1) 1 = some c ∧ contentEnded (s 1 1) c = true ∧ contentEnded (s 0 1) c = false ∧ contentEnded (s 1 0) c = false ∧
    contentEnded (g 1 1200) (playing 2) = true ∧ contentEnded (g 1 1199) (playing 2) = false ∧ contentEnded (g 0 1200) (playing 2) = false ∧
    contentEnded (withCalls [paging]) paging = false := by decide +kernel

theorem witness_SubmittedCall :
    let ends := fun (due : Clock) => (submittedCall ⟨.plan 0 1, .b, 4, .phrases [1], .duck, 1, due⟩ 100).deadline
    ends 149 = some 150 ∧ ends 90 = some 150 ∧ ends 9100 = some 9100 ∧ ends 9101 = some 9100 ∧
    (submittedCall ⟨.plan 0 1, .b, 4, .phrases [1], .duck, 1, 0⟩ 100).repeats = some 1 ∧
    ((dropNotice 3 .booth State.reset).mail.offers.map fun o => (o.detail0, o.detail1, o.ports)) = [(3, 2, ⟨false, true, true⟩)] := by
  decide +kernel

theorem witness_TalkRequest :
    let ask := fun mode (r : Describer) => talkRequest (describer 0 (fun _ => r) State.reset).description
      { (channelOf State.reset 0).settings with talkMode := mode }
    ask .key ⟨1, false, .quiet, .off⟩ = true ∧ ask .key ⟨0, true, .quiet, .off⟩ = true ∧ ask .key ⟨0, false, .sound, .off⟩ = false ∧
    ask .voice ⟨0, false, .sound, .off⟩ = true ∧ ask .voice ⟨0, false, .quiet, .off⟩ = false := by decide +kernel

theorem witness_SelectionPass :
    let list := [party 1 0 4 .held, party 2 0 3 .held, party 3 1 1 .held, party 4 0 1 .held]
    let states := fun s => (selectionPass 0 s).admission.parties.map Party.state
    states (listing list (admitting .gap 0)) = [.held, .held, .held, .held] ∧
    states (listing list (windowed gapWindow (admitting .gap 0))) = [.admitting, .held, .held, .held] ∧
    states (listing list (windowed { gapWindow with cause := .interval, deadline := none } (admitting .interval 0))) =
      [.admitting, .admitting, .held, .admitting] ∧
    states (modifyEntrance 0 (fun x => { x with admitted := 3 }) (listing list (windowed gapWindow (admitting .gap 0)))) =
      [.held, .held, .held, .held] := by decide +kernel

theorem witness_PartyDiscarded_and_notices :
    let s := admission (fun u => { u with links := u.links.set 5 (some 300) }) (listing [party 300 0 4 .held] (admitting .gap 0))
    let t := Machine.discard s (party 300 0 4 .held)
    t.admission.parties = [] ∧ t.admission.links.get 5 = none ∧ t.mail.offers.map (fun o => (o.kind, o.detail0, o.detail1)) = [(2, 9, 44)] ∧
    (refuseLamp 3 s).mail.lamps = [.refuse 3] ∧
    (refuseLamp 3 (modifyEntrance 3 (fun x => { x with settings := { x.settings with lamp := none } }) s)).mail.lamps = [] ∧
    (closingNotice .b false { gapWindow with closing := true } State.reset).mail.offers.map (fun o => (o.kind, o.detail0, o.detail1)) = [(1, 1, 10)] := by
  decide +kernel

/-! ## Sources and settings -/

theorem witness_SourceSamples :
    let s := lane .lane1 (fun r => { r with received := [[0, 1, 2, 3, 4, 5, 6, 7]] }) (lane .lane0 (fun r => { r with received := [[8, 9]] }) started)
    let base := fun b => (baseSamples s.engine b).take 2
    let source := fun o => (sourceSamples s o).take 2
    base .hallA = [8, 0] ∧ base .relayB = [9, 0] ∧ base .aux = [4, 0] ∧ base .silence = [0, 0] ∧ source (.mic 1) = [6, 0] ∧
    source (.desc 3) = [3, 0] ∧ source (.player 0) = [0, 0] ∧ source .chime = [0, 0] := by decide +kernel

theorem witness_ForegroundStepsAndChimes :
    let c : Call := { queued 1 4 1 with level := -5, content := .phrases [1], state := .started (.player 0) 1 false }
    let s := calls (fun u => { u with players := u.players.set 0 (some ⟨1, false, 0, 0, ⟨0, 9, -40⟩, .phrase 0⟩) }) (withCalls [c])
    foregroundStep s (ofCall 1 4) = -45 ∧ foregroundStep s { ofCall 1 4 with source := .mic 0 } = -5 ∧
    foregroundStep (channel 2 (fun ch => { ch with settings := { ch.settings with gain := 7 } }) s) (ofChannel 2) = 7 ∧
    clipSample [(4, 0xFF), (5, 0x80)] 4 = -32513 := by decide +kernel

/-- Settings at the ends of their ranges. -/
def edgeSettings : Settings := { factorySettings with
  halls := ⟨⟨300, 120, 0, none, some 7⟩, ⟨10, 5, 30, some 254, some 0⟩⟩
  zones := Table.fill 18 ⟨-24, 20, 1, -60⟩
  foyers := Table.fill 6 ⟨.aux, -121, 24, some .b⟩
  sound := Table.fill 6 ⟨0, -120, 500, 1⟩
  channels := Table.fill 4 ⟨3, .b, none, .voice, -60, 12, 10⟩
  plans := Table.fill 8 [⟨3600, .phrases [255, 0], 1, 6, .replace⟩, ring 0] }

theorem witness_SettingsRead : (settingsBytes edgeSettings).length = 1179 ∧
    readSettings (settingsBytes edgeSettings) = some edgeSettings ∧
    readSettings ((settingsBytes edgeSettings).set 451 7) = none := by decide +kernel

theorem witness_ImageReadsBack : SettingsInRange edgeSettings ∧ Flash.wf [(5, 5)] = true := by
  refine ⟨⟨fun h => by cases h <;> decide, ?_, ?_, ?_, ?_, ?_, ?_, ?_, ?_, ?_, ?_, ?_⟩, rfl⟩ <;> decide +kernel

theorem witness_SettingsKept : SettingsLaw busyState := by
  refine ⟨fun h => by cases h <;> decide +kernel, ?_, ?_, ?_, ?_, ?_, ?_, ?_, ?_, ?_, ?_, ?_⟩ <;> decide +kernel

theorem witness_StoreStates : saving (stored (.saving []) State.reset) = true ∧ storeOpen (stored (.erasing 3) State.reset) = true ∧
    bothHallsDark (show3 .opened 0) = false := by decide +kernel

theorem test_times_around_the_wrap : reached 3 0xFFFFFFFE = true ∧ reached 0xFFFFFFFE 3 = false ∧ leftUntil 0xFFFFFFFE 3 = 5 ∧
    leftUntil 3 0xFFFFFFFE = 0 := by decide +kernel

theorem test_field_codes_at_the_ends : bytes2 65535 = [0xFF, 0xFF] ∧ bytes3 16777215 = [0xFF, 0xFF, 0xFF] ∧
    bytes4 4294967295 = [0xFF, 0xFF, 0xFF, 0xFF] ∧ bytes2 258 = [1, 2] ∧ stepByte (-128) = 0x80 ∧ stepByte 127 = 0x7F ∧
    byteOf 255 = 0xFF := by decide +kernel

end Sys2Proof.Tests
end

/-! PROOFS. The laws of the latecomer list under the changes the Admission unit makes to its record. -/

namespace Sys2Proof.Machine

/-! ## What the laws look at -/

/-- Two records of the Admission unit that agree in all that the laws of the list and its windows speak of; lamps,
relays, links, totals and usher flags may differ. -/
structure Alike (u v : AdmissionUnit) : Prop where
  parties : v.parties = u.parties
  counter : v.counter = u.counter
  windows : v.windows = u.windows
  view : v.view = u.view
  settings : ∀ e, (v.entrances.get e).settings = (u.entrances.get e).settings
  admitted : ∀ e, (v.entrances.get e).admitted = (u.entrances.get e).admitted

theorem Alike.refl (u : AdmissionUnit) : Alike u u := ⟨rfl, rfl, rfl, rfl, fun _ => rfl, fun _ => rfl⟩

theorem Alike.trans {u v w : AdmissionUnit} (a : Alike u v) (b : Alike v w) : Alike u w where
  parties := b.parties.trans a.parties
  counter := b.counter.trans a.counter
  windows := b.windows.trans a.windows
  view := b.view.trans a.view
  settings e := (b.settings e).trans (a.settings e)
  admitted e := (b.admitted e).trans (a.admitted e)

theorem Alike.admittingAt {u v : AdmissionUnit} (a : Alike u v) (e : Fin 12) : admittingAt v e = admittingAt u e := by
  simp only [Machine.admittingAt, partiesAt, a.parties]

theorem WaitingLaw.alike {u v : AdmissionUnit} (a : Alike u v) (law : WaitingLaw u) : WaitingLaw v where
  few := by rw [a.parties]; exact law.few
  distinct := by rw [a.parties]; exact law.distinct
  inRange := by rw [a.parties]; exact law.inRange
  counter := by rw [a.counter]; exact law.counter
  live := by simp only [a.parties, HallLive, a.view]; exact law.live
  hall := by simp only [a.parties, a.settings]; exact law.hall
  window := by simp only [a.windows, HallLive, a.view]; exact law.window
  admitting := by simp only [a.parties, a.windows]; exact law.admitting

theorem AdmittingLaw.alike {u v : AdmissionUnit} (a : Alike u v) (law : AdmittingLaw u) : AdmittingLaw v where
  order := by rw [a.parties]; exact law.order
  quota := by simp only [a.settings, a.windows, a.admittingAt, a.admitted]; exact law.quota
  deadline := by simp only [a.windows]; exact law.deadline
  interval := by simp only [a.windows, a.view]; exact law.interval

/-! ## Seats and filtered lists -/

theorem seats_eq_sum (l : List Party) : seats l = (l.map Party.size).sum := by
  have : ∀ n, l.foldl (fun n q => n + q.size) n = n + (l.map Party.size).sum := by
    induction l with
    | nil => simp
    | cons q l ih => intro n; simp only [List.foldl_cons, List.map_cons, List.sum_cons, ih]; omega
  simpa [seats] using this 0

@[simp] theorem seats_nil : seats [] = 0 := rfl

@[simp] theorem seats_cons (q : Party) (l : List Party) : seats (q :: l) = q.size + seats l := by simp [seats_eq_sum]

theorem seats_sublist {l m : List Party} (h : l.Sublist m) : seats l ≤ seats m := by
  simp only [seats_eq_sum]
  exact (h.map _).sum_le_sum fun _ _ => Nat.zero_le _

/-- The ADMITTING parties of a list at an entrance. -/
def admittingIn (e : Fin 12) (l : List Party) : List Party :=
  (l.filter fun q => q.entrance = e).filter fun q => q.state = .admitting

theorem admittingAt_eq (u : AdmissionUnit) (e : Fin 12) : admittingAt u e = admittingIn e u.parties := rfl

theorem mem_admittingIn {e : Fin 12} {l : List Party} {q : Party} :
    q ∈ admittingIn e l ↔ q ∈ l ∧ q.entrance = e ∧ q.state = .admitting := by
  simp only [admittingIn, List.mem_filter, decide_eq_true_eq, and_assoc]

theorem admittingIn_sublist {l m : List Party} (h : l.Sublist m) (e : Fin 12) :
    (admittingIn e l).Sublist (admittingIn e m) := (h.filter _).filter _

theorem admittingIn_append (e : Fin 12) (l m : List Party) : admittingIn e (l ++ m) = admittingIn e l ++ admittingIn e m := by
  simp [admittingIn]

theorem admittingIn_cons (e : Fin 12) (q : Party) (l : List Party) :
    admittingIn e (q :: l) = if q.entrance = e ∧ q.state = .admitting then q :: admittingIn e l else admittingIn e l := by
  unfold admittingIn
  by_cases he : q.entrance = e <;> by_cases hs : q.state = .admitting <;> simp [he, hs]

/-- A change of single parties that neither moves one into or out of the ADMITTING parties of an entrance nor changes one
of them leaves those parties as they were. -/
theorem admittingIn_map {e : Fin 12} {l : List Party} {f : Party → Party}
    (same : ∀ q ∈ l, ((f q).entrance = e ∧ (f q).state = .admitting) ∨ (q.entrance = e ∧ q.state = .admitting) → f q = q) :
    admittingIn e (l.map f) = admittingIn e l := by
  induction l with
  | nil => rfl
  | cons q l ih =>
    have ih := ih fun x hx => same x (List.mem_cons_of_mem _ hx)
    have hq := same q List.mem_cons_self
    rw [List.map_cons, admittingIn_cons, admittingIn_cons, ih]
    by_cases h1 : q.entrance = e ∧ q.state = .admitting
    · rw [hq (.inr h1)]
    · by_cases h2 : (f q).entrance = e ∧ (f q).state = .admitting
      · rw [hq (.inl h2)]
      · rw [if_neg h1, if_neg h2]

/-! ## A list replaced -/

/-- The order of R105, on a list alone. -/
abbrev AdmittingFirst (l : List Party) : Prop := l.Pairwise fun earlier later =>
  earlier.entrance = later.entrance → later.state = .admitting → earlier.state = .admitting

/-- A new list of some of the old numbers, of parties that stand where they may, keeps the law. -/
theorem WaitingLaw.withParties {u : AdmissionUnit} {l : List Party} (law : WaitingLaw u)
    (numbers : (l.map Party.number).Sublist (u.parties.map Party.number))
    (stay : ∀ q ∈ l, HallLive u q.hall ∧ q.hall = (u.entrances.get q.entrance).settings.hall)
    (admitting : ∀ q ∈ l, q.state = .admitting → (u.windows.get q.hall).isSome) :
    WaitingLaw { u with parties := l } where
  few := by have := numbers.length_le; simp only [List.length_map] at this; exact this.trans law.few
  distinct := numbers.nodup law.distinct
  inRange q hq := by
    obtain ⟨x, hx, he⟩ := List.mem_map.mp (numbers.subset (List.mem_map_of_mem (f := Party.number) hq))
    rw [← he]; exact law.inRange x hx
  counter := law.counter
  live q hq := (stay q hq).1
  hall q hq := (stay q hq).2
  window := law.window
  admitting := admitting

theorem AdmittingLaw.withParties {u : AdmissionUnit} {l : List Party} (law : AdmittingLaw u) (order : AdmittingFirst l)
    (quota : ∀ e w, u.windows.get (u.entrances.get e).settings.hall = some w → w.cause ≠ .interval →
      seats (admittingIn e l) + (u.entrances.get e).admitted ≤ (u.entrances.get e).settings.quota) :
    AdmittingLaw { u with parties := l } := ⟨order, quota, law.deadline, law.interval⟩

/-- Distinct numbers: the party of a number is the one. -/
theorem WaitingLaw.eq_of_number {u : AdmissionUnit} (law : WaitingLaw u) {x q : Party} (hx : x ∈ u.parties) (hq : q ∈ u.parties)
    (e : x.number = q.number) : x = q := List.inj_on_of_nodup_map law.distinct hx hq e

/-! ### Parties that leave (R88, R106) -/

theorem WaitingLaw.leave {u : AdmissionUnit} {l : List Party} (law : WaitingLaw u) (sub : l.Sublist u.parties) :
    WaitingLaw { u with parties := l } :=
  law.withParties (sub.map _) (fun q hq => ⟨law.live q (sub.subset hq), law.hall q (sub.subset hq)⟩)
    fun q hq => law.admitting q (sub.subset hq)

theorem AdmittingLaw.leave {u : AdmissionUnit} {l : List Party} (law : AdmittingLaw u) (sub : l.Sublist u.parties) :
    AdmittingLaw { u with parties := l } :=
  law.withParties (law.order.sublist sub) fun e w hw hc => by
    have := law.quota e w hw hc
    rw [admittingAt_eq] at this
    have := seats_sublist (admittingIn_sublist sub e)
    omega

/-- The list without the ADMITTING parties of an entrance. -/
def withoutSeated (u : AdmissionUnit) (e : Fin 12) : List Party :=
  u.parties.filter fun x => x.number ∉ (admittingAt u e).map Party.number

/-- The record after the ADMITTING parties of an entrance have gone in, counted as `n` there. -/
def seatedUnit (u : AdmissionUnit) (e : Fin 12) (n : Nat) : AdmissionUnit :=
  { u with parties := withoutSeated u e, entrances := u.entrances.modify e fun x => { x with admitted := n } }

theorem seatedUnit_settings (u : AdmissionUnit) (e : Fin 12) (n : Nat) (x : Fin 12) :
    ((seatedUnit u e n).entrances.get x).settings = (u.entrances.get x).settings := by
  by_cases h : e = x
  · subst h; simp [seatedUnit]
  · simp [seatedUnit, Table.get_modify_ne _ _ h]

theorem WaitingLaw.seated {u : AdmissionUnit} (law : WaitingLaw u) (e : Fin 12) (n : Nat) : WaitingLaw (seatedUnit u e n) := by
  have base := law.leave (l := withoutSeated u e) List.filter_sublist
  exact ⟨base.few, base.distinct, base.inRange, base.counter, base.live,
    fun q hq => by rw [seatedUnit_settings]; exact base.hall q hq, base.window, base.admitting⟩

theorem AdmittingLaw.seated {u : AdmissionUnit} (law : AdmittingLaw u) {e : Fin 12} {n : Nat}
    (count : n ≤ (u.entrances.get e).admitted + seats (admittingAt u e)) : AdmittingLaw (seatedUnit u e n) := by
  have base := law.leave (l := withoutSeated u e) List.filter_sublist
  refine ⟨base.order, fun x w hw hc => ?_, base.deadline, base.interval⟩
  rw [seatedUnit_settings] at hw ⊢
  by_cases h : e = x
  · subst h
    have gone : admittingAt (seatedUnit u e n) e = [] := by
      rw [admittingAt_eq, List.eq_nil_iff_forall_not_mem]
      intro q hq
      obtain ⟨hm, he, hs⟩ := mem_admittingIn.mp hq
      obtain ⟨hl, hn⟩ := List.mem_filter.mp hm
      exact of_decide_eq_true hn (List.mem_map_of_mem (mem_admittingIn.mpr ⟨hl, he, hs⟩))
    have := law.quota e w hw hc
    have counted : ((seatedUnit u e n).entrances.get e).admitted = n := by simp [seatedUnit]
    rw [gone, seats_nil, counted]
    omega
  · have counted : (seatedUnit u e n).entrances.get x = u.entrances.get x := Table.get_modify_ne _ _ h
    rw [counted]
    exact base.quota x w hw hc

/-! ### A party that joins (R87–R89) -/

theorem WaitingLaw.join {u : AdmissionUnit} {q : Party} {n : Nat} (law : WaitingLaw u) (few : u.parties.length < 64)
    (fresh : q.number ∉ u.parties.map Party.number) (range : 1 ≤ q.number ∧ q.number ≤ 999) (count : 1 ≤ n ∧ n ≤ 999)
    (live : HallLive u q.hall) (hall : q.hall = (u.entrances.get q.entrance).settings.hall) (held : q.state = .held) :
    WaitingLaw { u with parties := u.parties ++ [q], counter := n } where
  few := by simp only [List.length_append, List.length_singleton]; omega
  distinct := by
    rw [List.map_append, List.nodup_append]
    refine ⟨law.distinct, by simp, fun a ha b hb => ?_⟩
    rw [List.map_singleton, List.mem_singleton] at hb
    subst hb
    exact fun e => fresh (e ▸ ha)
  inRange x hx := by
    rcases List.mem_append.mp hx with hx | hx
    · exact law.inRange x hx
    · rw [List.mem_singleton.mp hx]; exact range
  counter := count
  live x hx := by
    rcases List.mem_append.mp hx with hx | hx
    · exact law.live x hx
    · rw [List.mem_singleton.mp hx]; exact live
  hall x hx := by
    rcases List.mem_append.mp hx with hx | hx
    · exact law.hall x hx
    · rw [List.mem_singleton.mp hx]; exact hall
  window := law.window
  admitting x hx hs := by
    rcases List.mem_append.mp hx with hx | hx
    · exact law.admitting x hx hs
    · rw [List.mem_singleton.mp hx, held] at hs; cases hs

theorem AdmittingLaw.join {u : AdmissionUnit} {q : Party} {n : Nat} (law : AdmittingLaw u) (held : q.state = .held) :
    AdmittingLaw { u with parties := u.parties ++ [q], counter := n } := by
  refine ⟨?_, fun e w hw hc => ?_, law.deadline, law.interval⟩
  · refine List.pairwise_append.mpr ⟨law.order, List.pairwise_singleton _ _, fun x _ y hy _ hs => ?_⟩
    rw [List.mem_singleton.mp hy, held] at hs
    cases hs
  · have := law.quota e w hw hc
    have gain : admittingIn e [q] = [] := by rw [admittingIn_cons, if_neg (by simp [held])]; rfl
    rw [admittingAt_eq] at this ⊢
    rw [admittingIn_append, gain, List.append_nil]
    exact this

/-! ### Selection (R105) -/

/-- The list that a selection pass leaves. -/
def selected (u : AdmissionUnit) (w : Window) (e : Fin 12) : List Party :=
  if w.cause = .interval then selectAll e u.parties else selectByRoom e (roomAt u e) u.parties

theorem selectAll_member {e : Fin 12} {l : List Party} {q : Party} (h : q ∈ selectAll e l) :
    q ∈ l ∨ ∃ x ∈ l, x.entrance = e ∧ q = { x with state := .admitting } := by
  obtain ⟨x, hx, rfl⟩ := List.mem_map.mp h
  split
  · next he => exact .inr ⟨x, hx, he, rfl⟩
  · exact .inl hx

/-- R105: a pass takes parties as they stand or makes HELD ones of the entrance ADMITTING. -/
theorem selectByRoom_member {e : Fin 12} {l : List Party} {room : Nat} {q : Party} (h : q ∈ selectByRoom e room l) :
    q ∈ l ∨ ∃ x ∈ l, x.entrance = e ∧ q = { x with state := .admitting } := by
  induction l generalizing room with
  | nil => exact .inl h
  | cons y l ih =>
    have later : ∀ {r}, q ∈ selectByRoom e r l → q ∈ y :: l ∨ ∃ x ∈ y :: l, x.entrance = e ∧ q = { x with state := .admitting } := by
      intro r hr
      rcases ih hr with hl | ⟨x, hx, he⟩
      · exact .inl (List.mem_cons_of_mem _ hl)
      · exact .inr ⟨x, List.mem_cons_of_mem _ hx, he⟩
    simp only [selectByRoom] at h
    split at h
    · next hy =>
      split at h
      · rcases List.mem_cons.mp h with rfl | h
        · exact .inr ⟨y, List.mem_cons_self, hy.1, rfl⟩
        · exact later h
      · exact .inl h
    · rcases List.mem_cons.mp h with rfl | h
      · exact .inl List.mem_cons_self
      · exact later h

theorem selected_member {u : AdmissionUnit} {w : Window} {e : Fin 12} {q : Party} (h : q ∈ selected u w e) :
    q ∈ u.parties ∨ ∃ x ∈ u.parties, x.entrance = e ∧ q = { x with state := .admitting } := by
  unfold selected at h
  split at h
  · exact selectAll_member h
  · exact selectByRoom_member h

theorem selectAll_numbers (e : Fin 12) (l : List Party) : (selectAll e l).map Party.number = l.map Party.number := by
  rw [selectAll, List.map_map]
  refine List.map_congr_left fun q _ => ?_
  simp only [Function.comp]
  split <;> rfl

theorem selectByRoom_numbers (e : Fin 12) (room : Nat) (l : List Party) :
    (selectByRoom e room l).map Party.number = l.map Party.number := by
  induction l generalizing room with
  | nil => rfl
  | cons q l ih =>
    simp only [selectByRoom]
    split
    · split
      · simp only [List.map_cons, ih]
      · rfl
    · simp only [List.map_cons, ih]

theorem selected_numbers (u : AdmissionUnit) (w : Window) (e : Fin 12) :
    (selected u w e).map Party.number = u.parties.map Party.number := by
  unfold selected
  split
  · exact selectAll_numbers _ _
  · exact selectByRoom_numbers _ _ _

theorem selectAll_order {e : Fin 12} {l : List Party} (h : AdmittingFirst l) : AdmittingFirst (selectAll e l) := by
  refine List.pairwise_map.mpr (h.imp fun {x y} hxy => ?_)
  by_cases hx : x.entrance = e
  · rw [if_pos hx]; exact fun _ _ => rfl
  · by_cases hy : y.entrance = e
    · rw [if_neg hx, if_pos hy]; exact fun he => absurd (he.trans hy) hx
    · rw [if_neg hx, if_neg hy]; exact hxy

/-- R105: the walk makes ADMITTING only what stands before every HELD party it leaves. -/
theorem selectByRoom_order {e : Fin 12} {l : List Party} {room : Nat} (h : AdmittingFirst l) :
    AdmittingFirst (selectByRoom e room l) := by
  induction l generalizing room with
  | nil => exact h
  | cons q l ih =>
    obtain ⟨hq, hl⟩ := List.pairwise_cons.mp h
    simp only [selectByRoom]
    split
    · split
      · exact List.pairwise_cons.mpr ⟨fun _ _ _ _ => rfl, ih hl⟩
      · exact h
    · next hn =>
      refine List.pairwise_cons.mpr ⟨fun y hy he hs => ?_, ih hl⟩
      rcases selectByRoom_member hy with hy | ⟨x, hx, hxe, rfl⟩
      · exact hq y hy he hs
      · have hqe : q.entrance = e := he.trans hxe
        cases hst : q.state with
        | admitting => rfl
        | held => exact absurd ⟨hqe, hst⟩ hn

theorem selected_order {u : AdmissionUnit} {w : Window} {e : Fin 12} (h : AdmittingFirst u.parties) :
    AdmittingFirst (selected u w e) := by
  unfold selected
  split
  · exact selectAll_order h
  · exact selectByRoom_order h

/-- R105: the walk seats no more than its room. -/
theorem selectByRoom_seats (e : Fin 12) (room : Nat) (l : List Party) :
    seats (admittingIn e (selectByRoom e room l)) ≤ seats (admittingIn e l) + room := by
  induction l generalizing room with
  | nil => exact Nat.zero_le _
  | cons q l ih =>
    simp only [selectByRoom]
    split
    · next hq =>
      split
      · have := ih (room - q.size)
        rw [admittingIn_cons, admittingIn_cons, if_pos ⟨hq.1, rfl⟩, if_neg (by simp [hq.2]), seats_cons]
        dsimp only
        omega
      · omega
    · have := ih room
      rw [admittingIn_cons, admittingIn_cons]
      split
      · simp only [seats_cons]; omega
      · exact this

/-- A pass at an entrance changes nothing at another. -/
theorem selectByRoom_elsewhere {e x : Fin 12} (h : e ≠ x) (room : Nat) (l : List Party) :
    admittingIn x (selectByRoom e room l) = admittingIn x l := by
  induction l generalizing room with
  | nil => rfl
  | cons q l ih =>
    simp only [selectByRoom]
    split
    · next hq =>
      have hx : q.entrance ≠ x := fun k => h (hq.1.symm.trans k)
      split
      · rw [admittingIn_cons, admittingIn_cons, if_neg (fun k => hx k.1), if_neg (fun k => hx k.1), ih]
      · rfl
    · rw [admittingIn_cons, admittingIn_cons, ih]

theorem selectAll_elsewhere {e x : Fin 12} (h : e ≠ x) (l : List Party) : admittingIn x (selectAll e l) = admittingIn x l := by
  refine admittingIn_map fun q _ hq => ?_
  split at hq
  · next he => exact absurd (he.symm.trans (by rcases hq with k | k <;> exact k.1)) h
  · next he => rw [if_neg he]

theorem selected_elsewhere {e x : Fin 12} (h : e ≠ x) (u : AdmissionUnit) (w : Window) :
    admittingIn x (selected u w e) = admittingIn x u.parties := by
  unfold selected
  split
  · exact selectAll_elsewhere h _
  · exact selectByRoom_elsewhere h _ _

theorem WaitingLaw.select {u : AdmissionUnit} {w : Window} {e : Fin 12} (law : WaitingLaw u)
    (hw : u.windows.get (u.entrances.get e).settings.hall = some w) : WaitingLaw { u with parties := selected u w e } := by
  refine law.withParties (by rw [selected_numbers]) (fun q hq => ?_) (fun q hq hs => ?_)
  · rcases selected_member hq with hm | ⟨x, hx, _, rfl⟩
    · exact ⟨law.live q hm, law.hall q hm⟩
    · exact ⟨law.live x hx, law.hall x hx⟩
  · rcases selected_member hq with hm | ⟨x, hx, hxe, rfl⟩
    · exact law.admitting q hm hs
    · simp only [law.hall x hx, hxe, hw, Option.isSome_some]

theorem AdmittingLaw.select {u : AdmissionUnit} {w : Window} {e : Fin 12} (law : AdmittingLaw u)
    (hw : u.windows.get (u.entrances.get e).settings.hall = some w) : AdmittingLaw { u with parties := selected u w e } := by
  refine law.withParties (selected_order law.order) fun x v hv hc => ?_
  have before := law.quota x v hv hc
  rw [admittingAt_eq] at before
  by_cases h : e = x
  · subst h
    cases hw.symm.trans hv
    have room := selectByRoom_seats e (roomAt u e) u.parties
    have hr : roomAt u e = (u.entrances.get e).settings.quota - (u.entrances.get e).admitted - seats (admittingIn e u.parties) := rfl
    rw [selected, if_neg hc]
    omega
  · rw [selected_elsewhere h]; exact before

/-! ### A party that grows, and one that moves (R90, R94) -/

/-- A seat more for the party of a number. -/
def Party.growBy (n : Nat) (x : Party) : Party := if x.number = n then { x with size := x.size + 1 } else x

theorem Party.growBy_eq (n : Nat) (x : Party) : ∃ k, x.growBy n = { x with size := k } := by
  unfold Party.growBy
  split
  · exact ⟨_, rfl⟩
  · exact ⟨x.size, rfl⟩

@[simp] theorem Party.growBy_number (n : Nat) (x : Party) : (x.growBy n).number = x.number := by
  obtain ⟨k, h⟩ := x.growBy_eq n; rw [h]

@[simp] theorem Party.growBy_entrance (n : Nat) (x : Party) : (x.growBy n).entrance = x.entrance := by
  obtain ⟨k, h⟩ := x.growBy_eq n; rw [h]

@[simp] theorem Party.growBy_hall (n : Nat) (x : Party) : (x.growBy n).hall = x.hall := by
  obtain ⟨k, h⟩ := x.growBy_eq n; rw [h]

@[simp] theorem Party.growBy_state (n : Nat) (x : Party) : (x.growBy n).state = x.state := by
  obtain ⟨k, h⟩ := x.growBy_eq n; rw [h]

theorem numbers_growBy (n : Nat) (l : List Party) : (l.map (Party.growBy n)).map Party.number = l.map Party.number := by
  rw [List.map_map]; exact List.map_congr_left fun x _ => x.growBy_number n

theorem admittingIn_growBy (e : Fin 12) (n : Nat) (l : List Party) :
    admittingIn e (l.map (Party.growBy n)) = (admittingIn e l).map (Party.growBy n) := by
  simp only [admittingIn, List.filter_map, Function.comp_def, Party.growBy_entrance, Party.growBy_state]

theorem map_growBy_of_absent {n : Nat} {l : List Party} (h : n ∉ l.map Party.number) : l.map (Party.growBy n) = l := by
  refine (List.map_congr_left fun x hx => ?_).trans (List.map_id _)
  have : x.number ≠ n := by rintro rfl; exact h (List.mem_map_of_mem hx)
  rw [Party.growBy, if_neg this]
  rfl

/-- Distinct numbers: one party at most grows. -/
theorem seats_growBy {n : Nat} {l : List Party} (h : (l.map Party.number).Nodup) : seats (l.map (Party.growBy n)) ≤ seats l + 1 := by
  induction l with
  | nil => exact Nat.zero_le _
  | cons q l ih =>
    obtain ⟨hq, hl⟩ := List.nodup_cons.mp h
    rw [List.map_cons, seats_cons, seats_cons]
    by_cases hn : q.number = n
    · rw [map_growBy_of_absent (hn ▸ hq), Party.growBy, if_pos hn]
      dsimp only
      omega
    · rw [Party.growBy, if_neg hn]
      have := ih hl
      omega

theorem WaitingLaw.grow {u : AdmissionUnit} (law : WaitingLaw u) (n : Nat) :
    WaitingLaw { u with parties := u.parties.map (Party.growBy n) } := by
  refine law.withParties (by rw [numbers_growBy]) (fun q hq => ?_) (fun q hq hs => ?_)
  all_goals
    obtain ⟨x, hx, rfl⟩ := List.mem_map.mp hq
    simp only [Party.growBy_hall, Party.growBy_entrance, Party.growBy_state] at *
  · exact ⟨law.live x hx, law.hall x hx⟩
  · exact law.admitting x hx hs

/-- R90, test 3: an ADMITTING party may grow in an INTERVAL window, or where its entrance has room. -/
abbrev HasRoom (u : AdmissionUnit) (q : Party) : Prop :=
  ∃ w, u.windows.get q.hall = some w ∧ (w.cause = .interval ∨ 1 ≤ roomAt u q.entrance)

theorem AdmittingLaw.grow {u : AdmissionUnit} {q : Party} (list : WaitingLaw u) (law : AdmittingLaw u) (hq : q ∈ u.parties)
    (may : q.state = .admitting → HasRoom u q) : AdmittingLaw { u with parties := u.parties.map (Party.growBy q.number) } := by
  refine law.withParties ?_ fun e w hw hc => ?_
  · refine List.pairwise_map.mpr (law.order.imp fun {x y} hxy => ?_)
    simpa only [Party.growBy_entrance, Party.growBy_state] using hxy
  have before := law.quota e w hw hc
  rw [admittingAt_eq] at before
  rw [admittingIn_growBy]
  by_cases hm : q.number ∈ (admittingIn e u.parties).map Party.number
  · obtain ⟨x, hx, hn⟩ := List.mem_map.mp hm
    obtain ⟨hxm, hxe, hxs⟩ := mem_admittingIn.mp hx
    cases list.eq_of_number hxm hq hn
    obtain ⟨v, hv, hroom⟩ := may hxs
    rw [list.hall q hq, hxe] at hv
    cases hw.symm.trans hv
    have one : 1 ≤ roomAt u e := hxe ▸ hroom.resolve_left hc
    have sub : (admittingIn e u.parties).Sublist u.parties := List.filter_sublist.trans List.filter_sublist
    have grown := seats_growBy (n := q.number) ((sub.map _).nodup list.distinct)
    have room : roomAt u e =
        (u.entrances.get e).settings.quota - (u.entrances.get e).admitted - seats (admittingIn e u.parties) := rfl
    omega
  · rw [map_growBy_of_absent hm]; exact before

/-- The party of a number at another entrance. -/
def Party.moveTo (n : Nat) (e : Fin 12) (x : Party) : Party := if x.number = n then { x with entrance := e } else x

theorem Party.moveTo_of_ne {n : Nat} {x : Party} (h : x.number ≠ n) (e : Fin 12) : x.moveTo n e = x := if_neg h

theorem Party.moveTo_self (e : Fin 12) (x : Party) : x.moveTo x.number e = { x with entrance := e } := if_pos rfl

theorem numbers_moveTo (n : Nat) (e : Fin 12) (l : List Party) :
    (l.map (Party.moveTo n e)).map Party.number = l.map Party.number := by
  rw [List.map_map]
  refine List.map_congr_left fun x _ => ?_
  simp only [Function.comp, Party.moveTo]
  split <;> rfl

/-- R94: a party that waits in a hall without a window may be moved to another entrance of the hall. -/
structure MayMove (u : AdmissionUnit) (q : Party) (e : Fin 12) : Prop where
  member : q ∈ u.parties
  held : q.state ≠ .admitting
  shut : u.windows.get q.hall = none
  hall : (u.entrances.get e).settings.hall = q.hall

theorem WaitingLaw.move {u : AdmissionUnit} {q : Party} {e : Fin 12} (law : WaitingLaw u) (may : MayMove u q e) :
    WaitingLaw { u with parties := u.parties.map (Party.moveTo q.number e) } := by
  refine law.withParties (by rw [numbers_moveTo]) (fun x hx => ?_) (fun x hx => ?_)
  all_goals
    obtain ⟨y, hy, rfl⟩ := List.mem_map.mp hx
    by_cases hn : y.number = q.number
  · cases law.eq_of_number hy may.member hn
    rw [Party.moveTo_self]
    exact ⟨law.live q hy, may.hall.symm⟩
  · rw [Party.moveTo_of_ne hn]
    exact ⟨law.live y hy, law.hall y hy⟩
  · cases law.eq_of_number hy may.member hn
    rw [Party.moveTo_self]
    exact law.admitting q hy
  · rw [Party.moveTo_of_ne hn]
    exact law.admitting y hy

theorem AdmittingLaw.move {u : AdmissionUnit} {q : Party} {e : Fin 12} (list : WaitingLaw u) (law : AdmittingLaw u)
    (may : MayMove u q e) : AdmittingLaw { u with parties := u.parties.map (Party.moveTo q.number e) } := by
  refine law.withParties ?_ fun x w hw hc => ?_
  · refine List.pairwise_map.mpr (law.order.imp_of_mem fun {x y} hx hy hxy => ?_)
    by_cases hny : y.number = q.number
    · cases list.eq_of_number hy may.member hny
      rw [Party.moveTo_self]
      exact fun _ hs => absurd hs may.held
    rw [Party.moveTo_of_ne hny]
    by_cases hnx : x.number = q.number
    · cases list.eq_of_number hx may.member hnx
      rw [Party.moveTo_self]
      intro he hs
      have here : y.hall = q.hall := by rw [list.hall y hy, ← may.hall, ← he]
      have open_ := list.admitting y hy hs
      rw [here, may.shut] at open_
      cases open_
    · rw [Party.moveTo_of_ne hnx]; exact hxy
  · rw [admittingIn_map]
    · exact law.quota x w hw hc
    · intro y hy hs
      by_cases hn : y.number = q.number
      · cases list.eq_of_number hy may.member hn
        rw [Party.moveTo_self] at hs
        exact absurd (by rcases hs with k | k <;> exact k.2) may.held
      · exact Party.moveTo_of_ne hn e

/-! ### Windows (R96–R101) -/

/-- The record with a window opened (R97, steps 1 and 2). -/
def openedUnit (u : AdmissionUnit) (h : Hall) (w : Window) : AdmissionUnit :=
  { u with
    windows := u.windows.set h (some w)
    entrances := u.entrances.map fun x => if x.settings.hall = h then { x with admitted := 0 } else x }

theorem openedUnit_settings (u : AdmissionUnit) (h : Hall) (w : Window) (e : Fin 12) :
    ((openedUnit u h w).entrances.get e).settings = (u.entrances.get e).settings := by
  simp only [openedUnit, Table.get_map]; split <;> rfl

/-- What a new window must be for the laws: there is none yet, and an INTERVAL window, alone without a deadline, stands in
an INTERVAL hall. -/
structure MayOpen (u : AdmissionUnit) (h : Hall) (w : Window) : Prop where
  shut : u.windows.get h = none
  live : HallLive u h
  deadline : w.deadline = none ↔ w.cause = .interval
  interval : w.cause = .interval → u.view.get h = .interval

theorem WaitingLaw.openWindow {u : AdmissionUnit} {h : Hall} {w : Window} (law : WaitingLaw u) (may : MayOpen u h w) :
    WaitingLaw (openedUnit u h w) where
  few := law.few
  distinct := law.distinct
  inRange := law.inRange
  counter := law.counter
  live := law.live
  hall q hq := by rw [openedUnit_settings]; exact law.hall q hq
  window k hk := by
    by_cases e : h = k
    · subst e; exact may.live
    · exact law.window k (by rwa [openedUnit, PerHall.get_set_ne _ _ e] at hk)
  admitting q hq hs := by
    by_cases e : h = q.hall
    · rw [openedUnit, ← e, PerHall.get_set_self]; rfl
    · rw [openedUnit, PerHall.get_set_ne _ _ e]; exact law.admitting q hq hs

theorem AdmittingLaw.openWindow {u : AdmissionUnit} {h : Hall} {w : Window} (list : WaitingLaw u) (law : AdmittingLaw u)
    (may : MayOpen u h w) : AdmittingLaw (openedUnit u h w) where
  order := law.order
  quota e v hv hc := by
    rw [openedUnit_settings] at hv ⊢
    by_cases eh : (u.entrances.get e).settings.hall = h
    · have none : admittingIn e u.parties = [] := by
        rw [List.eq_nil_iff_forall_not_mem]
        intro q hq
        obtain ⟨hm, he, hs⟩ := mem_admittingIn.mp hq
        have := list.admitting q hm hs
        rw [list.hall q hm, he, eh, may.shut] at this
        cases this
      have count : ((openedUnit u h w).entrances.get e).admitted = 0 := by simp [openedUnit, eh]
      have same : admittingAt (openedUnit u h w) e = admittingIn e u.parties := rfl
      rw [same, none, count]
      exact Nat.zero_le _
    · have count : ((openedUnit u h w).entrances.get e).admitted = (u.entrances.get e).admitted := by simp [openedUnit, eh]
      rw [openedUnit, PerHall.get_set_ne _ _ (Ne.symm eh)] at hv
      rw [count]
      exact law.quota e v hv hc
  deadline k v hv := by
    by_cases e : h = k
    · subst e
      rw [openedUnit, PerHall.get_set_self] at hv
      cases hv
      exact may.deadline
    · rw [openedUnit, PerHall.get_set_ne _ _ e] at hv; exact law.deadline k v hv
  interval k v hv := by
    by_cases e : h = k
    · subst e
      rw [openedUnit, PerHall.get_set_self] at hv
      cases hv
      exact may.interval
    · rw [openedUnit, PerHall.get_set_ne _ _ e] at hv; exact law.interval k v hv

/-- The record with a window replaced (R96, R100, R101, R103). -/
def rewindowedUnit (u : AdmissionUnit) (h : Hall) (w : Window) : AdmissionUnit := { u with windows := u.windows.set h (some w) }

theorem WaitingLaw.rewindow {u : AdmissionUnit} {h : Hall} {w v : Window} (law : WaitingLaw u) (hw : u.windows.get h = some w) :
    WaitingLaw (rewindowedUnit u h v) := by
  have same : ∀ k, ((rewindowedUnit u h v).windows.get k).isSome = (u.windows.get k).isSome := by
    intro k
    by_cases e : h = k
    · subst e; rw [rewindowedUnit, PerHall.get_set_self, hw]; rfl
    · rw [rewindowedUnit, PerHall.get_set_ne _ _ e]
  exact ⟨law.few, law.distinct, law.inRange, law.counter, law.live, law.hall, fun k hk => law.window k (same k ▸ hk),
    fun q hq hs => (same _).trans (law.admitting q hq hs)⟩

/-- A window whose cause stays INTERVAL, or stays another, and whose deadline stays, or stays away, keeps the law. -/
theorem AdmittingLaw.rewindow {u : AdmissionUnit} {h : Hall} {w v : Window} (law : AdmittingLaw u) (hw : u.windows.get h = some w)
    (cause : v.cause = .interval ↔ w.cause = .interval) (deadline : v.deadline = none ↔ w.deadline = none) :
    AdmittingLaw (rewindowedUnit u h v) := by
  have old : ∀ {k x}, (rewindowedUnit u h v).windows.get k = some x → ∃ y, u.windows.get k = some y ∧
      (x.cause = .interval ↔ y.cause = .interval) ∧ (x.deadline = none ↔ y.deadline = none) := by
    intro k x hx
    by_cases e : h = k
    · subst e
      rw [rewindowedUnit, PerHall.get_set_self] at hx
      cases hx
      exact ⟨w, hw, cause, deadline⟩
    · rw [rewindowedUnit, PerHall.get_set_ne _ _ e] at hx
      exact ⟨x, hx, .rfl, .rfl⟩
  refine ⟨law.order, fun e x hx hc => ?_, fun k x hx => ?_, fun k x hx hc => ?_⟩
  all_goals obtain ⟨y, hy, hyc, hyd⟩ := old hx
  · exact law.quota e y hy fun k => hc (hyc.mpr k)
  · rw [hyc, hyd]; exact law.deadline k y hy
  · exact law.interval k y hy (hyc.mp hc)

/-- A party as the close of a hall's window leaves it. -/
def Party.heldIn (h : Hall) (q : Party) : Party := if q.hall = h then { q with state := .held } else q

theorem Party.heldIn_of_ne {h : Hall} {q : Party} (e : q.hall ≠ h) : q.heldIn h = q := if_neg e

theorem Party.heldIn_of_eq {h : Hall} {q : Party} (e : q.hall = h) : q.heldIn h = { q with state := .held } := if_pos e

@[simp] theorem Party.heldIn_number (h : Hall) (q : Party) : (q.heldIn h).number = q.number := by
  unfold Party.heldIn; split <;> rfl

@[simp] theorem Party.heldIn_hall (h : Hall) (q : Party) : (q.heldIn h).hall = q.hall := by
  unfold Party.heldIn; split <;> rfl

@[simp] theorem Party.heldIn_entrance (h : Hall) (q : Party) : (q.heldIn h).entrance = q.entrance := by
  unfold Party.heldIn; split <;> rfl

theorem Party.heldIn_admitting {h : Hall} {q : Party} (s : (q.heldIn h).state = .admitting) : q.hall ≠ h ∧ q.state = .admitting := by
  by_cases e : q.hall = h
  · rw [Party.heldIn_of_eq e] at s; cases s
  · rw [Party.heldIn_of_ne e] at s; exact ⟨e, s⟩

/-- The record with a window closed (R98). -/
def closedUnit (u : AdmissionUnit) (h : Hall) : AdmissionUnit :=
  { u with windows := u.windows.set h none, parties := u.parties.map (Party.heldIn h) }

theorem closedUnit_window {u : AdmissionUnit} {h k : Hall} {w : Window} (hw : (closedUnit u h).windows.get k = some w) :
    h ≠ k ∧ u.windows.get k = some w := by
  by_cases e : h = k
  · subst e; rw [closedUnit, PerHall.get_set_self] at hw; cases hw
  · rw [closedUnit, PerHall.get_set_ne _ _ e] at hw; exact ⟨e, hw⟩

theorem WaitingLaw.close {u : AdmissionUnit} (law : WaitingLaw u) (h : Hall) : WaitingLaw (closedUnit u h) := by
  have numbers : (closedUnit u h).parties.map Party.number = u.parties.map Party.number := by
    rw [closedUnit, List.map_map]; exact List.map_congr_left fun q _ => q.heldIn_number h
  refine ⟨(List.length_map _).trans_le law.few, numbers ▸ law.distinct, ?_, law.counter, ?_, ?_, ?_, ?_⟩
  case refine_4 =>
    intro k hk
    obtain ⟨w, hw⟩ := Option.isSome_iff_exists.mp hk
    exact law.window k (Option.isSome_iff_exists.mpr ⟨w, (closedUnit_window hw).2⟩)
  all_goals
    intro x hx
    obtain ⟨q, hq, rfl⟩ := List.mem_map.mp hx
  · rw [Party.heldIn_number]; exact law.inRange q hq
  · rw [Party.heldIn_hall]; exact law.live q hq
  · rw [Party.heldIn_hall, Party.heldIn_entrance]; exact law.hall q hq
  · intro hs
    obtain ⟨hne, hs⟩ := Party.heldIn_admitting hs
    rw [Party.heldIn_hall, closedUnit, PerHall.get_set_ne _ _ (Ne.symm hne)]
    exact law.admitting q hq hs

theorem AdmittingLaw.close {u : AdmissionUnit} (list : WaitingLaw u) (law : AdmittingLaw u) (h : Hall) :
    AdmittingLaw (closedUnit u h) := by
  refine ⟨?_, fun e w hw hc => ?_, fun k w hw => ?_, fun k w hw => ?_⟩
  · refine List.pairwise_map.mpr (law.order.imp_of_mem fun {x y} hx hy hxy he hs => ?_)
    obtain ⟨hne, hs⟩ := Party.heldIn_admitting hs
    rw [Party.heldIn_entrance, Party.heldIn_entrance] at he
    have : x.hall ≠ h := by rw [list.hall x hx, he, ← list.hall y hy]; exact hne
    rw [Party.heldIn_of_ne this]
    exact hxy he hs
  · obtain ⟨hne, hw⟩ := closedUnit_window hw
    have same : admittingAt (closedUnit u h) e = admittingIn e u.parties := by
      refine admittingIn_map fun q hq hs => Party.heldIn_of_ne fun hh => hne ?_
      have he : q.entrance = e := by
        rcases hs with k | k
        · exact (q.heldIn_entrance h).symm.trans k.1
        · exact k.1
      rw [← hh, list.hall q hq, he]
      rfl
    rw [same]
    exact law.quota e w hw hc
  · exact law.deadline k w (closedUnit_window hw).2
  · exact law.interval k w (closedUnit_window hw).2

/-! ### Settings and views -/

/-- R84: an entrance's settings change while both halls they name are DARK in the view. -/
structure MayResettle (u : AdmissionUnit) (e : Fin 12) (v : EntranceSettings) : Prop where
  old : u.view.get (u.entrances.get e).settings.hall = .dark
  new : u.view.get v.hall = .dark

/-- The record with an entrance's settings replaced. -/
def resettledUnit (u : AdmissionUnit) (e : Fin 12) (v : EntranceSettings) : AdmissionUnit :=
  { u with entrances := u.entrances.modify e fun x => { x with settings := v } }

theorem resettledUnit_ne {u : AdmissionUnit} {e x : Fin 12} (v : EntranceSettings) (h : e ≠ x) :
    (resettledUnit u e v).entrances.get x = u.entrances.get x := Table.get_modify_ne _ _ h

theorem WaitingLaw.resettle {u : AdmissionUnit} {e : Fin 12} {v : EntranceSettings} (law : WaitingLaw u) (may : MayResettle u e v) :
    WaitingLaw (resettledUnit u e v) := by
  refine ⟨law.few, law.distinct, law.inRange, law.counter, law.live, fun q hq => ?_, law.window, law.admitting⟩
  have away : e ≠ q.entrance := by
    intro he
    have := law.live q hq
    rw [law.hall q hq, ← he] at this
    exact this.1 may.old
  rw [resettledUnit_ne v away]
  exact law.hall q hq

theorem AdmittingLaw.resettle {u : AdmissionUnit} {e : Fin 12} {v : EntranceSettings} (list : WaitingLaw u) (law : AdmittingLaw u)
    (may : MayResettle u e v) : AdmittingLaw (resettledUnit u e v) := by
  refine ⟨law.order, fun x w hw hc => ?_, law.deadline, law.interval⟩
  have away : e ≠ x := by
    rintro rfl
    have hall : ((resettledUnit u e v).entrances.get e).settings.hall = v.hall := by simp [resettledUnit]
    rw [hall] at hw
    exact (list.window v.hall (Option.isSome_iff_exists.mpr ⟨w, hw⟩)).1 may.new
  rw [resettledUnit_ne v away] at hw ⊢
  exact law.quota x w hw hc

/-- The record with the view of a hall replaced (R86). -/
def viewedUnit (u : AdmissionUnit) (h : Hall) (p : Phase) : AdmissionUnit := { u with view := u.view.set h p }

@[simp] theorem viewedUnit_view_self (u : AdmissionUnit) (h : Hall) (p : Phase) : (viewedUnit u h p).view.get h = p :=
  PerHall.get_set_self _ _ _

theorem viewedUnit_view_ne (u : AdmissionUnit) {h k : Hall} (p : Phase) (e : h ≠ k) :
    (viewedUnit u h p).view.get k = u.view.get k := PerHall.get_set_ne _ _ e

/-- R86: the law holds in a new view when the hall may hold parties in it, or holds neither party nor window. -/
theorem WaitingLaw.view {u : AdmissionUnit} {h : Hall} {p : Phase} (law : WaitingLaw u)
    (fits : (p ≠ .dark ∧ p ≠ .ended) ∨ ((∀ q ∈ u.parties, q.hall ≠ h) ∧ u.windows.get h = none)) :
    WaitingLaw (viewedUnit u h p) := by
  have live : ∀ k, HallLive u k → (p ≠ .dark ∧ p ≠ .ended) ∨ h ≠ k → HallLive (viewedUnit u h p) k := by
    intro k hk hp
    by_cases e : h = k
    · subst e
      rw [HallLive, viewedUnit_view_self]
      exact hp.resolve_right fun n => n rfl
    · rwa [HallLive, viewedUnit_view_ne u p e]
  refine ⟨law.few, law.distinct, law.inRange, law.counter, fun q hq => ?_, law.hall, fun k hk => ?_, law.admitting⟩
  · exact live _ (law.live q hq) (fits.imp_right fun f => (f.1 q hq).symm)
  · refine live _ (law.window k hk) (fits.imp_right fun f e => ?_)
    subst e
    rw [show (viewedUnit u h p).windows.get h = none from f.2] at hk
    cases hk

theorem AdmittingLaw.view {u : AdmissionUnit} {h : Hall} {p : Phase} (law : AdmittingLaw u)
    (fits : ∀ w, u.windows.get h = some w → w.cause = .interval → p = .interval) : AdmittingLaw (viewedUnit u h p) := by
  refine ⟨law.order, law.quota, law.deadline, fun k w hw hc => ?_⟩
  by_cases e : h = k
  · subst e
    rw [viewedUnit_view_self]
    exact fits w hw hc
  · rw [viewedUnit_view_ne u p e]
    exact law.interval k w hw hc

end Sys2Proof.Machine

/-! PROOFS. What the Admission unit's operations make of the latecomer list, step by step, and the laws along such steps. -/

namespace Sys2Proof.Machine

/-! ## Steps of the list -/

/-- What the operations of the Admission unit do to its record, one change after another, beside what the laws of the list
do not look at. A premise about a law is one that the step needs only to keep it. -/
inductive ListMove : AdmissionUnit → AdmissionUnit → Prop
  | alike {u v} (a : Alike u v) : ListMove u v
  | trans {u v w} (a : ListMove u v) (b : ListMove v w) : ListMove u w
  | leave {u} {l : List Party} (sub : l.Sublist u.parties) : ListMove u { u with parties := l }
  | seated {u} (e : Fin 12) {n : Nat} (count : n ≤ (u.entrances.get e).admitted + seats (admittingAt u e)) :
      ListMove u (seatedUnit u e n)
  | join {u} {q : Party} {n : Nat} (few : u.parties.length < 64)
      (fresh : WaitingLaw u → q.number ∉ u.parties.map Party.number ∧ (1 ≤ q.number ∧ q.number ≤ 999) ∧ 1 ≤ n ∧ n ≤ 999)
      (live : HallLive u q.hall) (hall : q.hall = (u.entrances.get q.entrance).settings.hall) (held : q.state = .held) :
      ListMove u { u with parties := u.parties ++ [q], counter := n }
  | select {u} {w : Window} {e : Fin 12} (hw : u.windows.get (u.entrances.get e).settings.hall = some w) :
      ListMove u { u with parties := selected u w e }
  | grow {u} {q : Party} (member : q ∈ u.parties) (may : q.state = .admitting → HasRoom u q) :
      ListMove u { u with parties := u.parties.map (Party.growBy q.number) }
  | move {u} {q : Party} {e : Fin 12} (may : MayMove u q e) :
      ListMove u { u with parties := u.parties.map (Party.moveTo q.number e) }
  | opened {u} {h : Hall} {w : Window} (may : MayOpen u h w) : ListMove u (openedUnit u h w)
  | closed {u} (h : Hall) : ListMove u (closedUnit u h)
  | rewindow {u} {h : Hall} {w v : Window} (hw : u.windows.get h = some w)
      (fits : AdmittingLaw u → (v.cause = .interval ↔ w.cause = .interval) ∧ (v.deadline = none ↔ w.deadline = none)) :
      ListMove u (rewindowedUnit u h v)
  | resettle {u} {e : Fin 12} {v : EntranceSettings} (may : MayResettle u e v) : ListMove u (resettledUnit u e v)

theorem ListMove.refl (u : AdmissionUnit) : ListMove u u := .alike (.refl u)

/-- R86: only a phase event changes the unit's view of a hall. -/
theorem ListMove.view {u v : AdmissionUnit} (m : ListMove u v) : v.view = u.view := by
  induction m with
  | alike a => exact a.view
  | trans _ _ iha ihb => exact ihb.trans iha
  | _ => rfl

theorem ListMove.waiting {u v : AdmissionUnit} (m : ListMove u v) (law : WaitingLaw u) : WaitingLaw v := by
  induction m with
  | alike a => exact law.alike a
  | trans _ _ iha ihb => exact ihb (iha law)
  | leave sub => exact law.leave sub
  | seated e => exact law.seated e _
  | join few fresh live hall held =>
    obtain ⟨new, range, count⟩ := fresh law
    exact law.join few new range count live hall held
  | select hw => exact law.select hw
  | grow => exact law.grow _
  | move may => exact law.move may
  | opened may => exact law.openWindow may
  | closed h => exact law.close h
  | rewindow hw => exact law.rewindow hw
  | resettle may => exact law.resettle may

theorem ListMove.admitting {u v : AdmissionUnit} (m : ListMove u v) (list : WaitingLaw u) (law : AdmittingLaw u) :
    AdmittingLaw v := by
  induction m with
  | alike a => exact law.alike a
  | trans a _ iha ihb => exact ihb (a.waiting list) (iha list law)
  | leave sub => exact law.leave sub
  | seated e count => exact law.seated count
  | join _ _ _ _ held => exact law.join held
  | select hw => exact law.select hw
  | grow member may => exact law.grow list member may
  | move may => exact law.move list may
  | opened may => exact law.openWindow list may
  | closed h => exact law.close list h
  | rewindow hw fits => exact law.rewindow hw (fits law).1 (fits law).2
  | resettle may => exact law.resettle list may

/-! ## What the laws of the list and of its phase events see of a step -/

/-- A step that leaves the halls' phases and the events waiting for the Admission unit, and moves its list by rule. -/
structure ListStep (s t : State) : Prop where
  phase : ∀ h, (hallOf t h).phase = (hallOf s h).phase
  post : t.mail.toAdmission = s.mail.toAdmission
  moves : ListMove s.admission t.admission

theorem ListStep.refl (s : State) : ListStep s s := ⟨fun _ => rfl, rfl, .refl _⟩

theorem ListStep.trans {s t u : State} (a : ListStep s t) (b : ListStep t u) : ListStep s u :=
  ⟨fun h => (b.phase h).trans (a.phase h), b.post.trans a.post, a.moves.trans b.moves⟩

theorem ListStep.view {s t : State} (a : ListStep s t) : t.admission.view = s.admission.view := a.moves.view

/-- A step that changes neither of the three. -/
theorem ListStep.apart {s t : State} (admission : t.admission = s.admission) (programme : t.programme = s.programme)
    (post : t.mail.toAdmission = s.mail.toAdmission) : ListStep s t :=
  ⟨fun h => by simp only [hallOf, programme], post, admission ▸ .refl _⟩

theorem ListStep.alike {s t : State} (a : Alike s.admission t.admission) (programme : t.programme = s.programme)
    (post : t.mail.toAdmission = s.mail.toAdmission) : ListStep s t :=
  ⟨fun h => by simp only [hallOf, programme], post, .alike a⟩

/-- A change of the Admission unit's record alone. -/
theorem ListStep.ofMove {s : State} {u : AdmissionUnit} (m : ListMove s.admission u) : ListStep s (setAdmission u s) :=
  ⟨fun _ => rfl, rfl, m⟩

/-! ## Lamps, relay requests and notices (R88, R108, R109) -/

/-- A change that no law of the list sees: the unit's record stays alike, and so do the halls and what waits. -/
structure Unseen (s t : State) : Prop where
  alike : Alike s.admission t.admission
  programme : t.programme = s.programme
  post : t.mail.toAdmission = s.mail.toAdmission

theorem Unseen.refl (s : State) : Unseen s s := ⟨.refl _, rfl, rfl⟩

theorem Unseen.trans {s t u : State} (a : Unseen s t) (b : Unseen t u) : Unseen s u :=
  ⟨a.alike.trans b.alike, b.programme.trans a.programme, b.post.trans a.post⟩

theorem Unseen.step {s t : State} (a : Unseen s t) : ListStep s t := .alike a.alike a.programme a.post

/-- A change of an entrance that leaves its settings and its count. -/
theorem modifyEntrance_unseen (e : Fin 12) {f : Entrance → Entrance} (s : State)
    (keeps : ∀ x, (f x).settings = x.settings ∧ (f x).admitted = x.admitted) : Unseen s (modifyEntrance e f s) := by
  have same : ∀ x, (((modifyEntrance e f s).admission.entrances.get x).settings = (s.admission.entrances.get x).settings) ∧
      ((modifyEntrance e f s).admission.entrances.get x).admitted = (s.admission.entrances.get x).admitted := by
    intro x
    by_cases h : e = x
    · subst h; simpa [modifyEntrance] using keeps _
    · simp [modifyEntrance, Table.get_modify_ne _ _ h]
  exact ⟨⟨rfl, rfl, rfl, rfl, fun x => (same x).1, fun x => (same x).2⟩, rfl, rfl⟩

theorem handLamp_unseen (m : LampMessage) (s : State) : Unseen s (handLamp m s) := ⟨.refl _, rfl, rfl⟩

theorem workLamp_unseen (s : State) (e : Fin 12) : Unseen s (workLamp s e) := by
  have work := modifyEntrance_unseen e (f := fun x => { x with offered := lampState s.admission e }) s fun _ => ⟨rfl, rfl⟩
  unfold workLamp
  dsimp only
  split
  · exact .refl s
  · split
    · exact work.trans (handLamp_unseen _ _)
    · exact work

theorem workLamps_unseen (s : State) : Unseen s (workLamps s) := foldl_frame Unseen.refl Unseen.trans workLamp_unseen _ _

theorem workRelay_unseen (s : State) (f : Fin 6) : Unseen s (workRelay s f) := by
  unfold workRelay
  dsimp only
  split
  · exact .refl s
  · exact ⟨⟨rfl, rfl, rfl, rfl, fun _ => rfl, fun _ => rfl⟩, rfl, rfl⟩

theorem listChanged_unseen (s : State) : Unseen s (listChanged s) :=
  (foldl_frame Unseen.refl Unseen.trans workRelay_unseen _ s).trans (workLamps_unseen _)

theorem partyNotice_unseen (n : Nat) (c : PartyChange) (s : State) : Unseen s (partyNotice n c s) := ⟨.refl _, rfl, rfl⟩

theorem windowNotice_unseen (h : Hall) (c : WindowCause) (d : WindowChange) (s : State) : Unseen s (windowNotice h c d s) :=
  ⟨.refl _, rfl, rfl⟩

theorem closingNotice_unseen (h : Hall) (b : Bool) (w : Window) (s : State) : Unseen s (closingNotice h b w s) := by
  unfold closingNotice
  split
  · exact windowNotice_unseen _ _ _ _
  · exact .refl s

theorem refuseLamp_unseen (e : Fin 12) (s : State) : Unseen s (refuseLamp e s) := by
  unfold refuseLamp
  split
  · exact handLamp_unseen _ _
  · exact .refl s

theorem moveLamp_unseen (old new : Option (Fin 12)) (o : EntranceLamp) (s : State) : Unseen s (moveLamp old new o s) := by
  unfold moveLamp
  dsimp only
  split
  · exact .refl s
  · cases old <;> cases new
    · exact .refl s
    · exact handLamp_unseen _ _
    · exact handLamp_unseen _ _
    · exact (handLamp_unseen _ _).trans (handLamp_unseen _ _)

theorem orderAdmissionCall_unseen (o : AdmissionOrder) (s : State) : Unseen s (orderAdmissionCall o s) := ⟨.refl _, rfl, rfl⟩

theorem submitAdmissionCall_unseen (h : Hall) (w : Window) (z : ZoneSet) (s : State) : Unseen s (submitAdmissionCall h w z s) := by
  unfold submitAdmissionCall
  split
  · split
    · exact .refl s
    · exact orderAdmissionCall_unseen _ _
  · exact .refl s

theorem setLink_unseen (k : Fin 64) (n : Option Nat) (s : State) : Unseen s (setLink k n s) :=
  ⟨⟨rfl, rfl, rfl, rfl, fun _ => rfl, fun _ => rfl⟩, rfl, rfl⟩

/-! ## Selection, joining and leaving (R87, R88, R105) -/

theorem selectAt_step {w : Window} {e : Fin 12} {s : State}
    (hw : s.admission.windows.get (s.admission.entrances.get e).settings.hall = some w) : ListStep s (selectAt w e s) :=
  .ofMove (.select hw)

theorem selectionPass_step (e : Fin 12) (s : State) : ListStep s (selectionPass e s) := by
  unfold selectionPass
  split
  · next w hw => exact (selectAt_step hw).trans (workLamps_unseen _).step
  · exact .refl s

/-- Passes at several entrances of a hall with a window. -/
theorem selectAll_step {w : Window} {h : Hall} (l : List (Fin 12)) {s : State} (hw : s.admission.windows.get h = some w)
    (hall : ∀ e ∈ l, (s.admission.entrances.get e).settings.hall = h) : ListStep s (l.foldl (fun t e => selectAt w e t) s) := by
  induction l generalizing s with
  | nil => exact .refl s
  | cons e l ih =>
    have first : ListStep s (selectAt w e s) := selectAt_step (by rw [hall e List.mem_cons_self]; exact hw)
    exact first.trans (ih hw fun x hx => hall x (List.mem_cons_of_mem _ hx))

theorem mayWait_live {p : Phase} (h : mayWait p = true) : p ≠ .dark ∧ p ≠ .ended := by cases p <;> simp_all [mayWait]

theorem addParty_step {e : Fin 12} (size : Nat) (o : PartyOrigin) (a : Bool) {s : State} (wait : mayWait (viewOf s e) = true)
    (few : s.admission.parties.length < 64) : ListStep s (addParty e size o a s).2 := by
  unfold addParty
  dsimp only
  refine .trans ?_ (selectionPass_step _ _)
  refine .trans ?_ (listChanged_unseen _).step
  refine .trans ?_ (partyNotice_unseen _ _ _).step
  refine .ofMove (.join few (fun law => ?_) (mayWait_live wait) rfl rfl)
  obtain ⟨fresh, range⟩ := freeNumber_fresh s.admission.parties s.admission.counter law.counter (by omega)
  exact ⟨fresh, range, by unfold nextNumber; split <;> omega⟩

/-- The record without the parties of some numbers. -/
def without (u : AdmissionUnit) (numbers : List Nat) : AdmissionUnit :=
  { u with parties := u.parties.filter fun x => x.number ∉ numbers }

theorem without_nil (u : AdmissionUnit) : (without u []).parties = u.parties := List.filter_eq_self.mpr fun _ _ => by simp

theorem Alike.without {u v : AdmissionUnit} {n : Nat} (one : Alike (without u [n]) v) (numbers : List Nat) :
    Alike (without u (n :: numbers)) (without v numbers) := by
  refine ⟨?_, one.counter, one.windows, one.view, one.settings, one.admitted⟩
  have parties : v.parties = u.parties.filter fun x => x.number ∉ [n] := one.parties
  simp only [Machine.without, parties, List.filter_filter]
  exact List.filter_congr fun x _ => by simp [Bool.and_comm]

theorem dropParty_alike (n : Nat) (s : State) : Alike (without s.admission [n]) (dropParty n s).admission :=
  ⟨List.filter_congr fun x _ => by simp [bne, beq_eq_decide], rfl, rfl, rfl, fun _ => rfl, fun _ => rfl⟩

theorem discard_unseen (s : State) (q : Party) : Unseen (dropParty q.number s) (discard s q) :=
  (partyNotice_unseen q.number .discarded _).trans (listChanged_unseen _)

theorem discard_alike (s : State) (q : Party) : Alike (without s.admission [q.number]) (discard s q).admission :=
  (dropParty_alike q.number s).trans (discard_unseen s q).alike

/-- R88: parties discarded one after another are gone, and nothing else of the list changes. -/
theorem discards_alike (l : List Party) (s : State) :
    Alike (without s.admission (l.map Party.number)) (l.foldl discard s).admission := by
  induction l generalizing s with
  | nil => exact ⟨(without_nil _).symm, rfl, rfl, rfl, fun _ => rfl, fun _ => rfl⟩
  | cons q l ih =>
    have one := discard_alike s q
    rw [List.foldl_cons, List.map_cons]
    exact (one.without _).trans (ih (discard s q))

theorem discard_rest (s : State) (q : Party) :
    (discard s q).programme = s.programme ∧ (discard s q).mail.toAdmission = s.mail.toAdmission :=
  ⟨(discard_unseen s q).programme, (discard_unseen s q).post⟩

theorem discards_step (l : List Party) (s : State) : ListStep s (l.foldl discard s) := by
  have rest := foldl_frame (R := fun s t : State => t.programme = s.programme ∧ t.mail.toAdmission = s.mail.toAdmission)
    (fun _ => ⟨rfl, rfl⟩) (fun a b => ⟨b.1.trans a.1, b.2.trans a.2⟩) discard_rest l s
  exact ⟨fun h => by simp only [hallOf, rest.1], rest.2, .trans (.leave List.filter_sublist) (.alike (discards_alike l s))⟩

theorem discard_step (s : State) (q : Party) : ListStep s (discard s q) := by
  simpa only [List.foldl_cons, List.foldl_nil] using discards_step [q] s

/-! ## Seating (R88, R106) -/

/-- The record after parties of some numbers have gone in at an entrance, counted as `n` there. -/
def wentIn (u : AdmissionUnit) (e : Fin 12) (numbers : List Nat) (n : Nat) : AdmissionUnit :=
  { without u numbers with entrances := u.entrances.modify e fun x => { x with admitted := n } }

theorem wentIn_settings (u : AdmissionUnit) (e : Fin 12) (l : List Nat) (n : Nat) (x : Fin 12) :
    ((wentIn u e l n).entrances.get x).settings = (u.entrances.get x).settings := by
  by_cases h : e = x
  · subst h; simp [wentIn]
  · simp [wentIn, without, Table.get_modify_ne _ _ h]

theorem wentIn_admitted (u : AdmissionUnit) (e : Fin 12) (l : List Nat) (n : Nat) (x : Fin 12) :
    ((wentIn u e l n).entrances.get x).admitted = if e = x then n else (u.entrances.get x).admitted := by
  by_cases h : e = x
  · subst h; simp [wentIn]
  · simp [wentIn, without, Table.get_modify_ne _ _ h, h]

theorem wentIn_none (u : AdmissionUnit) (e : Fin 12) : Alike (wentIn u e [] (u.entrances.get e).admitted) u where
  parties := (without_nil u).symm
  counter := rfl
  windows := rfl
  view := rfl
  settings x := (wentIn_settings u e [] _ x).symm
  admitted x := by
    rw [wentIn_admitted]
    split
    · next h => rw [h]
    · rfl

theorem Alike.wentIn {u v : AdmissionUnit} {e : Fin 12} {n m : Nat} (one : Alike (wentIn u e [n] m) v) (numbers : List Nat) (k : Nat) :
    Alike (wentIn u e (n :: numbers) k) (wentIn v e numbers k) where
  parties := (Alike.without (u := u) (v := { u with parties := v.parties })
    ⟨one.parties, rfl, rfl, rfl, fun _ => rfl, fun _ => rfl⟩ numbers).parties
  counter := one.counter
  windows := one.windows
  view := one.view
  settings x := by simpa only [wentIn_settings] using one.settings x
  admitted x := by
    have := one.admitted x
    rw [wentIn_admitted] at this ⊢
    rw [wentIn_admitted]
    split
    · rfl
    · next h => rwa [if_neg h] at this

/-- The state in which a party has gone in and is counted, before its notice. -/
def wentInState (s : State) (q : Party) : State :=
  modifyEntrance q.entrance (fun x => { x with admitted := min countLimit (x.admitted + q.size) }) (dropParty q.number s)

theorem seat_unseen (s : State) (q : Party) : Unseen (wentInState s q) (seat s q) := by
  refine .trans (t := setAdmission { (wentInState s q).admission with
    totals := (wentInState s q).admission.totals.modify q.hall fun n => min countLimit (n + q.size) } (wentInState s q)) ?_ ?_
  · exact ⟨⟨rfl, rfl, rfl, rfl, fun _ => rfl, fun _ => rfl⟩, rfl, rfl⟩
  · exact (partyNotice_unseen q.number .admitted _).trans (listChanged_unseen _)

theorem seat_alike (s : State) (q : Party) : Alike
    (wentIn s.admission q.entrance [q.number] (min countLimit ((s.admission.entrances.get q.entrance).admitted + q.size)))
    (seat s q).admission := by
  have counted : Alike
      (wentIn s.admission q.entrance [q.number] (min countLimit ((s.admission.entrances.get q.entrance).admitted + q.size)))
      (wentInState s q).admission := by
    refine ⟨(dropParty_alike q.number s).parties, rfl, rfl, rfl, fun x => ?_, fun x => ?_⟩
    all_goals
      by_cases h : q.entrance = x
      · subst h; simp [wentInState, wentIn, modifyEntrance, dropParty]
      · simp [wentInState, wentIn, modifyEntrance, dropParty, without, Table.get_modify_ne _ _ h]
  exact counted.trans (seat_unseen s q).alike

/-- R106: parties of one entrance seated one after another leave the list, and their seats at most are counted there. -/
theorem seats_alike {e : Fin 12} (l : List Party) (here : ∀ q ∈ l, q.entrance = e) (s : State) :
    ∃ n, n ≤ (s.admission.entrances.get e).admitted + seats l ∧
      Alike (wentIn s.admission e (l.map Party.number) n) (l.foldl seat s).admission := by
  induction l generalizing s with
  | nil => exact ⟨_, Nat.le_refl _, wentIn_none _ _⟩
  | cons q l ih =>
    have hq := here q List.mem_cons_self
    obtain ⟨n, count, rest⟩ := ih (fun x hx => here x (List.mem_cons_of_mem _ hx)) (seat s q)
    have one := seat_alike s q
    rw [hq] at one
    have first := one.admitted e
    rw [wentIn_admitted, if_pos rfl] at first
    rw [List.foldl_cons, List.map_cons, seats_cons]
    exact ⟨n, by omega, (one.wentIn _ _).trans rest⟩

theorem seat_rest (s : State) (q : Party) :
    (seat s q).programme = s.programme ∧ (seat s q).mail.toAdmission = s.mail.toAdmission :=
  ⟨(seat_unseen s q).programme, (seat_unseen s q).post⟩

/-- R106: the ADMITTING parties of an entrance seated. -/
theorem seats_step (e : Fin 12) (s : State) : ListStep s ((admittingAt s.admission e).foldl seat s) := by
  have rest := foldl_frame (R := fun s t : State => t.programme = s.programme ∧ t.mail.toAdmission = s.mail.toAdmission)
    (fun _ => ⟨rfl, rfl⟩) (fun a b => ⟨b.1.trans a.1, b.2.trans a.2⟩) seat_rest (admittingAt s.admission e) s
  obtain ⟨n, count, like⟩ := seats_alike (admittingAt s.admission e) (fun q hq => (mem_admittingIn.mp hq).2.1) s
  exact ⟨fun h => by simp only [hallOf, rest.1], rest.2, .trans (.seated e count) (.alike like)⟩

/-! ## Windows (R97, R98, R100) -/

theorem openWindow_step {h : Hall} {c : WindowCause} {n : Option Nat} {s : State} (may : MayOpen s.admission h (newWindow s h c n)) :
    ListStep s (openWindow h c n s) := by
  unfold openWindow
  dsimp only
  refine .trans ?_ (listChanged_unseen _).step
  refine .trans ?_ (closingNotice_unseen _ _ _ _).step
  refine .trans ?_ (windowNotice_unseen _ _ _ _).step
  refine .trans ?_ (submitAdmissionCall_unseen _ _ _ _).step
  have made : ListStep s (zeroCounts h (setWindow h (some (newWindow s h c n)) s)) := .ofMove (.opened may)
  refine made.trans (selectAll_step (h := h) _ (PerHall.get_set_self _ _ _) fun e he => ?_)
  exact of_decide_eq_true (List.mem_filter.mp he).2

/-- The state in which a window is closed, before its cancellation and its notice (R98). -/
def closedState (h : Hall) (s : State) : State := setAdmission (closedUnit s.admission h) s

theorem closeWindow_unseen {h : Hall} {w : Window} {s : State} (hw : windowOf s h = some w) :
    Unseen (closedState h s) (closeWindow h s) := by
  have opened : closeWindow h s = workLamps (windowNotice h w.cause .closed (orderAdmissionCall (.cancel h) (closedState h s))) := by
    simp only [closeWindow, hw]
    rfl
  rw [opened]
  exact ((orderAdmissionCall_unseen _ _).trans (windowNotice_unseen _ _ _ _)).trans (workLamps_unseen _)

theorem closeWindow_none {h : Hall} {s : State} (hw : windowOf s h = none) : closeWindow h s = s := by
  simp only [closeWindow, hw]

theorem closeWindow_step (h : Hall) (s : State) : ListStep s (closeWindow h s) := by
  cases hw : windowOf s h with
  | none => rw [closeWindow_none hw]; exact .refl s
  | some w => exact (ListStep.ofMove (.closed h)).trans (closeWindow_unseen hw).step

theorem closeWindow_shut (h : Hall) (s : State) : (closeWindow h s).admission.windows.get h = none := by
  cases hw : windowOf s h with
  | none => rw [closeWindow_none hw]; exact hw
  | some w => rw [(closeWindow_unseen hw).alike.windows]; exact PerHall.get_set_self _ _ _

/-- R96: a window replaced, with what is offered and worked out after it. -/
theorem setWindow_step {h : Hall} {w v : Window} {s : State} (hw : windowOf s h = some w)
    (fits : AdmittingLaw s.admission → (v.cause = .interval ↔ w.cause = .interval) ∧ (v.deadline = none ↔ w.deadline = none)) :
    ListStep s (setWindow h (some v) s) := .ofMove (.rewindow hw fits)

/-- R100: where the hall's view is not INTERVAL, the window that becomes a BREAK window is no INTERVAL window. -/
theorem retimeWindow_step {h : Hall} {w : Window} {s : State} (hw : windowOf s h = some w)
    (phase : s.admission.view.get h ≠ .interval) : ListStep s (retimeWindow h w s) := by
  unfold retimeWindow
  dsimp only
  refine .trans ?_ (workLamps_unseen _).step
  refine .trans ?_ (closingNotice_unseen _ _ _ _).step
  refine .trans ?_ (windowNotice_unseen _ _ _ _).step
  refine setWindow_step hw fun law => ?_
  have cause : w.cause ≠ .interval := fun hc => phase (law.interval h w hw hc)
  have deadline : w.deadline ≠ none := fun hd => cause ((law.deadline h w hw).mp hd)
  simp [cause, deadline]

theorem discardHall_step (h : Hall) (s : State) : ListStep s (discardHall h s) := discards_step _ _

end Sys2Proof.Machine

/-! PROOFS. The other units leave the latecomer list, the halls and what waits for the Admission unit alone. -/

namespace Sys2Proof.Machine

/-- A step that leaves the Admission unit, the Programme unit and the phase events that wait for the former. -/
structure Apart (s t : State) : Prop where
  admission : t.admission = s.admission
  programme : t.programme = s.programme
  post : t.mail.toAdmission = s.mail.toAdmission

theorem Apart.refl (s : State) : Apart s s := ⟨rfl, rfl, rfl⟩

theorem Apart.trans {s t u : State} (a : Apart s t) (b : Apart t u) : Apart s u :=
  ⟨b.admission.trans a.admission, b.programme.trans a.programme, b.post.trans a.post⟩

theorem Apart.step {s t : State} (a : Apart s t) : ListStep s t := .apart a.admission a.programme a.post

theorem foldl_apart {α : Type} {f : State → α → State} (step : ∀ s a, Apart s (f s a)) (l : List α) (s : State) :
    Apart s (l.foldl f s) := foldl_frame Apart.refl Apart.trans step l s

/-! ## Ports and requests -/

theorem withoutRequest_apart (p : Port) (s : State) : Apart s (withoutRequest p s) := ⟨rfl, rfl, rfl⟩

theorem respond_apart (p : Port) (a : Answer) : Apart a.state (respond p a) := by
  unfold respond
  split <;> exact ⟨rfl, rfl, rfl⟩

@[simp] theorem accept_state (a : Bool) (pl : List Byte) (s : State) : (accept a pl s).state = s := rfl

@[simp] theorem refuse_state (st : Status) (s : State) : (refuse st s).state = s := rfl

/-- What a request leaves: nothing taken, or the unit's answer at its port. -/
theorem takeRequest_leaves {code : Byte} {p : Port} {s t : State} {unit : List Byte → State → Answer}
    (h : takeRequest code p s unit = .next t) : t = s ∨ ∃ ps, t = respond p (unit ps (withoutRequest p s)) := by
  unfold takeRequest at h
  split at h
  · split at h
    · cases h; exact .inr ⟨_, rfl⟩
    · cases h; exact .inl rfl
  · cases h; exact .inl rfl

theorem request_apart {code : Byte} {p : Port} {s t : State} {unit : List Byte → State → Answer}
    (does : ∀ ps s, Apart s (unit ps s).state) (h : takeRequest code p s unit = .next t) : Apart s t := by
  obtain rfl | ⟨ps, rfl⟩ := takeRequest_leaves h
  · exact .refl t
  · exact (withoutRequest_apart p s).trans ((does ps _).trans (respond_apart _ _))

theorem request_step {code : Byte} {p : Port} {s t : State} {unit : List Byte → State → Answer}
    (does : ∀ ps s, ListStep s (unit ps s).state) (h : takeRequest code p s unit = .next t) : ListStep s t := by
  obtain rfl | ⟨ps, rfl⟩ := takeRequest_leaves h
  · exact .refl t
  · exact (withoutRequest_apart p s).step.trans ((does ps _).trans (respond_apart _ _).step)

/-! ## Zones and calls -/

theorem push_apart (q : PushRequest) (s : State) : Apart s (push q s).2 := by
  unfold push; dsimp only; split <;> exact ⟨rfl, rfl, rfl⟩

theorem remove_apart (o : Owner) (z : ZoneSet) (s : State) : Apart s (remove o z s) := by
  unfold remove; dsimp only; split <;> exact ⟨rfl, rfl, rfl⟩

theorem startCall_apart (c : Call) (r : Source) (s : State) : Apart s (startCall c r s).2 := by
  have h := push_apart (callPush c r) s
  unfold startCall
  dsimp only
  split
  · exact h.trans ⟨rfl, rfl, rfl⟩
  · exact h

theorem tryCall_apart (b : ZoneSet) (c : Call) (s : State) : Apart s (tryCall b c s).2 := by
  unfold tryCall
  split
  · split
    · exact startCall_apart _ _ _
    · exact .refl s
  · exact .refl s

theorem passOver_apart (l : List Call) (b : ZoneSet) (s : State) : Apart s (passOver l b s) := by
  induction l generalizing b s with
  | nil => exact .refl s
  | cons c l ih => exact (tryCall_apart b c s).trans (ih _ _)

theorem pass_apart (s : State) : Apart s (pass s) := passOver_apart _ _ _

theorem leaveQueue_apart (c : Call) (o : CallOutcome) (s : State) : Apart s (leaveQueue c o s) := ⟨rfl, rfl, rfl⟩

theorem setCalls_apart (u : CallUnit) (s : State) : Apart s (setCalls u s) := ⟨rfl, rfl, rfl⟩

theorem setDescription_apart (u : Description) (s : State) : Apart s (setDescription u s) := ⟨rfl, rfl, rfl⟩

theorem setPanel_apart (u : Panel) (s : State) : Apart s (setPanel u s) := ⟨rfl, rfl, rfl⟩

theorem setLevel_apart (u : LevelMonitor) (s : State) : Apart s (setLevel u s) := ⟨rfl, rfl, rfl⟩

theorem setZoneUnit_apart (u : ZoneUnit) (s : State) : Apart s (setZoneUnit u s) := ⟨rfl, rfl, rfl⟩

theorem endCall_apart (o : CallOutcome) (s : State) (c : Call) : Apart s (endCall o s c) := by
  unfold endCall
  split
  · exact leaveQueue_apart _ _ _
  · exact (remove_apart _ _ _).trans ((setCalls_apart _ _).trans (leaveQueue_apart _ _ _))

theorem endWithPass_apart (o : CallOutcome) (c : Call) (s : State) : Apart s (endWithPass o c s) :=
  (endCall_apart o s c).trans (pass_apart _)

theorem endAll_apart (w : Call → Bool) (s : State) : Apart s (endAll w s) := by
  unfold endAll
  dsimp only
  split
  · exact .refl s
  · exact (foldl_apart (endCall_apart _) _ _).trans (pass_apart _)

theorem takeSubmission_apart (c : Call) (s : State) : Apart s (takeSubmission c s) :=
  Apart.trans (t := answerSubmission (.accepted (enqueue c s).1) (enqueue c s).2) ⟨rfl, rfl, rfl⟩ (pass_apart _)

theorem submit_apart (c : Submission) (s : State) : Apart s (submit c s) := by
  unfold submit
  dsimp only
  split
  · unfold stepLost; split <;> exact ⟨rfl, rfl, rfl⟩
  · split
    · exact takeSubmission_apart _ _
    · split
      · refine .trans ?_ (takeSubmission_apart _ _)
        exact ⟨rfl, rfl, rfl⟩
      · exact ⟨rfl, rfl, rfl⟩

theorem contentEnd_apart (id : Nat) (s : State) : Apart s (contentEnd id s) := by
  unfold contentEnd
  split
  · exact endWithPass_apart _ _ _
  · exact .refl s

theorem phraseEnd_apart (s : State) (n : Fin 3) : Apart s (phraseEnd s n) := by
  unfold phraseEnd
  split
  · split
    · split
      · exact ⟨rfl, rfl, rfl⟩
      · exact contentEnd_apart _ _
    · exact .refl s
  · exact .refl s

theorem repeatSilenceEnd_apart (s : State) (n : Fin 3) : Apart s (repeatSilenceEnd s n) := by
  unfold repeatSilenceEnd
  repeat' split
  all_goals exact ⟨rfl, rfl, rfl⟩

theorem chimeNoteEnd_apart (s : State) : Apart s (chimeNoteEnd s) := by
  unfold chimeNoteEnd
  repeat' split
  all_goals exact ⟨rfl, rfl, rfl⟩

theorem chimeStrikeEnd_apart (s : State) : Apart s (chimeStrikeEnd s) := by
  unfold chimeStrikeEnd
  split
  · split
    · split
      · exact ⟨rfl, rfl, rfl⟩
      · exact contentEnd_apart _ _
    · exact .refl s
  · exact .refl s

theorem callSubmit_apart (p : Port) (ps : List Byte) (s : State) : Apart s (callSubmit p ps s).state := by
  unfold callSubmit
  split
  · exact .refl s
  · split
    · exact .refl s
    · exact Apart.trans (t := (enqueue _ s).2) ⟨rfl, rfl, rfl⟩ (pass_apart _)

theorem callCancel_apart (p : Port) (ps : List Byte) (s : State) : Apart s (callCancel p ps s).state := by
  unfold callCancel
  split
  · exact .refl s
  · split
    · exact .refl s
    · exact endWithPass_apart _ _ _

theorem liveEnd_apart (p : Port) (ps : List Byte) (s : State) : Apart s (liveEnd p ps s).state := by
  unfold liveEnd
  split
  · exact .refl s
  · split
    · exact .refl s
    · split
      · exact .refl s
      · exact endWithPass_apart _ _ _

theorem callList_apart (ps : List Byte) (s : State) : Apart s (callList ps s).state := by
  unfold callList; dsimp only; split <;> exact .refl s

/-! ## Description -/

theorem handTally_apart (s : State) (d : Fin 4) : Apart s (handTally s d) := by
  unfold handTally; dsimp only; split <;> exact ⟨rfl, rfl, rfl⟩

theorem handTallies_apart (s : State) : Apart s (handTallies s) := foldl_apart handTally_apart _ _

theorem enter_apart (c : Fin 4) (t : TalkState) (e : Option Clock) (s : State) : Apart s (enter c t e s) := by
  unfold enter
  dsimp only
  split
  · exact ⟨rfl, rfl, rfl⟩
  · refine .trans ?_ (handTallies_apart _)
    split <;> exact ⟨rfl, rfl, rfl⟩

theorem withdraw_apart (c : Fin 4) (s : State) : Apart s (withdraw c s) := remove_apart _ _ _

theorem evaluate_apart (s : State) (c : Fin 4) : Apart s (evaluate s c) := by
  unfold evaluate
  dsimp only
  split
  · exact .refl s
  · exact enter_apart _ _ _ _
  · exact (withdraw_apart _ _).trans (enter_apart _ _ _ _)
  · exact enter_apart _ _ _ _
  · split
    · exact (push_apart _ _).trans (enter_apart _ _ _ _)
    · exact .refl s

theorem evaluateAll_apart (w : ChannelSettings → Bool) (s : State) : Apart s (evaluateAll w s) := foldl_apart evaluate_apart _ _

theorem changeDescriber_apart (d : Fin 4) (r : Describer) (s : State) : Apart s (changeDescriber d r s) := by
  unfold changeDescriber
  split
  · exact .refl s
  · exact (setDescription_apart _ s).trans (evaluateAll_apart _ _)

theorem setChannel_apart (c : Fin 4) (ch : Channel) (s : State) : Apart s (setChannel c ch s) := ⟨rfl, rfl, rfl⟩

theorem reportChannel_apart (old new : ChannelSettings) (s : State) : Apart s (reportChannel old new s) := by
  unfold reportChannel; split <;> exact ⟨rfl, rfl, rfl⟩

theorem setChannelSettings_apart (c : Fin 4) (new : ChannelSettings) (s : State) : Apart s (setChannelSettings c new s) := by
  unfold setChannelSettings
  dsimp only
  refine .trans ?_ (handTallies_apart _)
  refine .trans ?_ (reportChannel_apart _ _ _)
  refine .trans ?_ (setDescription_apart _ _)
  exact setChannel_apart _ _ _

theorem descSet_apart (ps : List Byte) (s : State) : Apart s (descSet ps s).state := by
  unfold descSet
  split
  · exact .refl s
  · split
    · exact .refl s
    · split
      · exact .refl s
      · split
        · rw [accept_state]; exact setChannelSettings_apart _ _ _
        · exact .refl s

theorem talkLatch_apart (flag : Bool) (ps : List Byte) (s : State) : Apart s (talkLatch flag ps s).state := by
  unfold talkLatch
  split
  · exact .refl s
  · split
    · exact changeDescriber_apart _ _ _
    · exact .refl s

/-! ## Panel -/

theorem deliver_apart (k : Fin 64) (r : Role) (e : KeyEvent) (s : State) : Apart s (deliver k r e s) := by
  unfold deliver
  repeat' split
  all_goals exact ⟨rfl, rfl, rfl⟩

theorem setKey_apart (k : Fin 64) (r : KeyRecord) (s : State) : Apart s (setKey k r s) := ⟨rfl, rfl, rfl⟩

theorem performDue_apart (s : State) (k : Fin 64) : Apart s (performDue s k) := by
  unfold performDue
  dsimp only
  split
  · exact .refl s
  · split
    · exact setKey_apart _ _ _
    · exact (setKey_apart _ _ _).trans (deliver_apart _ _ _ _)
  · exact (setKey_apart _ _ _).trans (deliver_apart _ _ _ _)
  · exact (setKey_apart _ _ _).trans (deliver_apart _ _ _ _)
  · exact ((setKey_apart _ _ _).trans (deliver_apart _ _ _ _)).trans ⟨rfl, rfl, rfl⟩
  · split
    · exact setKey_apart _ _ _
    · exact (setKey_apart _ _ _).trans (deliver_apart _ _ _ _)

theorem closeSweep_apart (s : State) : Apart s (closeSweep s) := by
  unfold closeSweep; split <;> exact ⟨rfl, rfl, rfl⟩

theorem finishSweep_apart (s : State) : Apart s (finishSweep s) := (foldl_apart performDue_apart _ _).trans (closeSweep_apart _)

theorem keyStep_apart {due : KeyDue} {k : Fin 64} {s t : State} (h : keyStep due k s = .next t) : Apart s t := by
  unfold keyStep at h
  split at h
  · cases h; exact (foldl_apart performDue_apart _ _).trans (closeSweep_apart _)
  · cases h; exact .refl s

theorem changeRole_apart (k : Fin 64) (r : Role) (s : State) : Apart s (changeRole k r s) := by
  unfold changeRole
  dsimp only
  split
  · exact .refl s
  · split
    · exact (setPanel_apart _ s).trans ((setKey_apart _ _ _).trans (deliver_apart _ _ _ _))
    · exact ⟨rfl, rfl, rfl⟩

theorem writeRoles_apart (first : Nat) (roles : List Role) (s : State) : Apart s (writeRoles first roles s) := by
  refine foldl_apart (fun t k => ?_) _ _
  split
  · split
    · exact changeRole_apart _ _ _
    · exact .refl t
  · exact .refl t

theorem keymapSet_apart (ps : List Byte) (s : State) : Apart s (keymapSet ps s).state := by
  unfold keymapSet
  dsimp only
  split
  · exact .refl s
  · split
    · exact .refl s
    · split
      · exact .refl s
      · split
        · exact writeRoles_apart _ _ _
        · exact .refl s

theorem scanSet_apart (ps : List Byte) (s : State) : Apart s (scanSet ps s).state := by
  unfold scanSet
  repeat' split
  all_goals exact ⟨rfl, rfl, rfl⟩

theorem keyStatus_apart (ps : List Byte) (s : State) : Apart s (keyStatus ps s).state := by
  unfold keyStatus; dsimp only; split <;> exact .refl s

theorem lampTest_apart (p : Port) (ps : List Byte) (s : State) : Apart s (lampTest p ps s).state := by
  unfold lampTest
  dsimp only
  repeat' split
  all_goals exact ⟨rfl, rfl, rfl⟩

/-! ## Level monitor and mix -/

theorem handTurn_apart (c : Fin 6) (v : LevelState) (s : State) : Apart s (handTurn c v s) := by
  refine ⟨rfl, rfl, ?_⟩
  unfold handTurn
  simp only [offerTo_mail]
  split
  · rfl
  · split <;> rfl

theorem setSound_apart (c : Fin 6) (r : SoundChannel) (s : State) : Apart s (setSound c r s) := ⟨rfl, rfl, rfl⟩

theorem soundPeriod_apart (s : State) (c : Fin 6) : Apart s (soundPeriod s c) := by
  unfold soundPeriod
  dsimp only
  split
  · exact (setSound_apart _ _ s).trans (handTurn_apart _ _ _)
  · exact ⟨rfl, rfl, rfl⟩

theorem sensePeriod_apart (s : State) (l : Fin 8) : Apart s (sensePeriod s l) := ⟨rfl, rfl, rfl⟩

theorem nextPeriod_apart (s : State) : Apart s (nextPeriod s) := ⟨rfl, rfl, rfl⟩

theorem loopsPeriod_apart (s : State) : Apart s (loopsPeriod s) := ⟨rfl, rfl, rfl⟩

theorem levelPeriodEnd_apart {s t : State} (h : execLevelPeriodEnd s = .next t) : Apart s t := by
  unfold execLevelPeriodEnd at h
  split at h
  · cases h
    exact ((loopsPeriod_apart s).trans (foldl_apart soundPeriod_apart _ _)).trans
      ((foldl_apart sensePeriod_apart _ _).trans (nextPeriod_apart _))
  · cases h; exact .refl s

theorem levelSet_apart (ps : List Byte) (s : State) : Apart s (levelSet ps s).state := by
  unfold levelSet
  dsimp only
  repeat' split
  all_goals exact ⟨rfl, rfl, rfl⟩

theorem settleBlock_apart (s : State) : Apart s (settleBlock s) :=
  (setZoneUnit_apart _ s : Apart s (settleRamps s)).trans
    ((foldl_apart phraseEnd_apart _ _).trans
      ((foldl_apart repeatSilenceEnd_apart _ _).trans ((chimeNoteEnd_apart _).trans (chimeStrikeEnd_apart _))))

theorem clipCheck_apart (sums : Fin 18 → List Int) (s : State) (z : ZoneNo) : Apart s (clipCheck sums s z) := by
  unfold clipCheck
  dsimp only
  repeat' split
  all_goals exact ⟨rfl, rfl, rfl⟩

theorem firstPeriod_apart (b : Bool) (s : State) : Apart s (firstPeriod b s) := by
  unfold firstPeriod
  split
  · exact .refl s
  · exact nextPeriod_apart s

/-- R45, R57: what a block makes of the engine, the resources and the ramps. -/
theorem blockMade_apart (e : Engine) (u : CallUnit) (s : State) : Apart s (countRamps (setCalls u (setEngine e (aimZones s)))) :=
  ⟨rfl, rfl, rfl⟩

theorem mixBlock_apart (sense : List (List Sample)) (s : State) : Apart s (mixBlock sense s) := by
  unfold mixBlock
  dsimp only
  refine .trans ?_ (foldl_apart (clipCheck_apart _) _ _)
  refine .trans ?_ (setLevel_apart _ _)
  refine .trans ?_ (firstPeriod_apart _ _)
  exact (settleBlock_apart s).trans (blockMade_apart _ _ _)

theorem inputFrame_apart (lane : Lane) (good : Bool) (slots : List Sample) {s t : State}
    (h : execInputFrame lane good slots s = .next t) : Apart s t := by
  unfold execInputFrame lockNotice at h
  dsimp only at h
  split at h <;> cases h <;> exact ⟨rfl, rfl, rfl⟩

/-! ## Zone settings and loops -/

theorem zoneSet_apart (ps : List Byte) (s : State) : Apart s (zoneSet ps s).state := by
  unfold zoneSet
  repeat' split
  all_goals exact ⟨rfl, rfl, rfl⟩

theorem zoneStatus_apart (ps : List Byte) (s : State) : Apart s (zoneStatus ps s).state := by
  unfold zoneStatus; split <;> exact .refl s

theorem loopReset_apart (ps : List Byte) (s : State) : Apart s (loopReset ps s).state := by
  unfold loopReset; split <;> exact ⟨rfl, rfl, rfl⟩

theorem overCurrent_apart (l : Fin 8) (s : State) : Apart s (overCurrent l s) := by
  unfold overCurrent
  dsimp only
  repeat' split
  all_goals exact ⟨rfl, rfl, rfl⟩

theorem setOpen_apart (l : Fin 8) (flag : Bool) (code : Byte) (s : State) : Apart s (setOpen l flag code s) := by
  unfold setOpen
  dsimp only
  split <;> exact ⟨rfl, rfl, rfl⟩

theorem handHush_apart (f : List (ZoneNo × Bool)) (s : State) : Apart s (handHush f s) := by
  unfold handHush; split <;> exact ⟨rfl, rfl, rfl⟩

/-! ## Store and notices -/

theorem ownerRequest_apart (p : Port) (bad : Bool) (s : State) {act : State → State} (does : Apart s (act s)) :
    Apart s (ownerRequest p bad s act).state := by
  unfold ownerRequest
  split
  · exact .refl s
  · split
    · exact .refl s
    · split
      · exact .refl s
      · split
        · exact .refl s
        · exact does

theorem storeOpenRequest_apart (p : Port) (ps : List Byte) (s : State) : Apart s (storeOpenRequest p ps s).state := by
  unfold storeOpenRequest
  dsimp only
  repeat' split
  all_goals exact ⟨rfl, rfl, rfl⟩

theorem storeRead_apart (p : Port) (ps : List Byte) (s : State) : Apart s (storeRead p ps s).state := by
  unfold storeRead
  dsimp only
  repeat' split
  all_goals exact ⟨rfl, rfl, rfl⟩

theorem settingsSave_apart (ps : List Byte) (s : State) : Apart s (settingsSave ps s).state := by
  unfold settingsSave; split <;> exact ⟨rfl, rfl, rfl⟩

theorem restart_apart (ps : List Byte) (s : State) : Apart s (restart ps s).state := by
  unfold restart; split <;> exact ⟨rfl, rfl, rfl⟩

theorem noticeSet_apart (p : Port) (ps : List Byte) (s : State) : Apart s (noticeSet p ps s).state := by
  unfold noticeSet
  dsimp only
  split <;> exact ⟨rfl, rfl, rfl⟩

end Sys2Proof.Machine

/-! PROOFS. O58: every step keeps the laws of the latecomer list and of the phase events that wait for it. -/

namespace Sys2Proof.Machine

/-! ## The Admission unit's commands -/

theorem entranceList_step {s : State} {u : AdmissionUnit} (m : ListMove s.admission u) : ListStep s (setAdmission u s) := .ofMove m

/-- The party that a number finds is one of the list. -/
theorem findParty_mem {s : State} {n : Nat} {q : Party} (h : findParty s n = some q) : q ∈ s.admission.parties ∧ q.number = n :=
  ⟨List.mem_of_find?_eq_some h, by simpa using List.find?_some h⟩

/-- The hall byte of an entrance's settings names the hall they give. -/
theorem readEntranceSettings_hall {ps : List Byte} {v : EntranceSettings × Bool} (read : readEntranceSettings ps = some v) :
    nameAt hallNames ps 0 = some v.1.hall := by
  unfold readEntranceSettings at read
  obtain ⟨h, hall, rest⟩ := Option.bind_eq_some_iff.mp read
  have given : v.1.hall = h := by
    split at rest
    · obtain ⟨_, _, _, _, _, _, last⟩ := by simpa only [bind, Option.bind_eq_some_iff] using rest
      cases last; rfl
    · split at rest
      all_goals
        obtain ⟨_, _, _, _, _, _, last⟩ := by simpa only [bind, Option.bind_eq_some_iff] using rest
        cases last; rfl
  rw [hall, given]

theorem doorDark_resettle {s : State} {e : Fin 12} {ps : List Byte} {v : EntranceSettings × Bool} (dark : doorDark s e ps = true)
    (read : readEntranceSettings (ps.drop 1) = some v) : MayResettle s.admission e v.1 := by
  simp only [doorDark, List.all_cons, Bool.and_eq_true, decide_eq_true_eq, List.all_eq_true] at dark
  obtain ⟨old, new⟩ := dark
  refine ⟨old, new _ ?_⟩
  have byte : byteAt (ps.drop 1) 0 = byteAt ps 1 := by simp [byteAt]
  have first : nameAt hallNames ps 1 = some v.1.hall := by
    rw [← readEntranceSettings_hall read, nameAt, nameAt, natAt, natAt, byte]
  simp [first]

theorem doorSet_step (ps : List Byte) (s : State) : ListStep s (doorSet ps s).state := by
  unfold doorSet
  split
  · exact .refl s
  · next e _ =>
    split
    · exact .refl s
    · split
      · exact .refl s
      · next dark =>
        split
        · exact .refl s
        · next v read =>
          dsimp only
          split
          · rw [accept_state]
            refine .trans ?_ (moveLamp_unseen _ _ _ _).step
            exact .ofMove (.resettle (doorDark_resettle (by simpa using dark) read))
          · exact .refl s

theorem partyAdd_step (ps : List Byte) (s : State) : ListStep s (partyAdd ps s).state := by
  unfold partyAdd
  split
  · next e access _ _ =>
    split
    · exact .refl s
    · split
      · exact .refl s
      · split
        · exact .refl s
        · next wait =>
          split
          · exact .refl s
          · next few =>
            dsimp only
            rw [accept_state]
            exact addParty_step _ _ _ (by simpa using wait) (Nat.lt_of_not_le few)
  · exact .refl s

theorem partyRemove_step (ps : List Byte) (s : State) : ListStep s (partyRemove ps s).state := by
  unfold partyRemove
  split
  · exact .refl s
  · next q _ =>
    dsimp only
    rw [accept_state]
    split
    · exact (discard_step s q).trans (selectionPass_step _ _)
    · exact discard_step s q

theorem partyMove_step (ps : List Byte) (s : State) : ListStep s (partyMove ps s).state := by
  unfold partyMove
  split
  · exact .refl s
  · next q found =>
    split
    · exact .refl s
    · next e _ =>
      dsimp only
      split
      · exact .refl s
      · next hall =>
        split
        · exact .refl s
        · split
          · exact .refl s
          · next held =>
            split
            · exact .refl s
            · next shut =>
              split
              · exact .refl s
              · rw [accept_state]
                refine .trans ?_ (listChanged_unseen _).step
                refine .trans ?_ (partyNotice_unseen _ _ _).step
                have may : MayMove s.admission q e :=
                  ⟨(findParty_mem found).1, held, by simpa [windowOf] using shut, by simpa [entranceOf] using hall⟩
                exact .ofMove (.move may)

theorem newWindow_deadline (s : State) (h : Hall) (c : WindowCause) (n : Option Nat) :
    (newWindow s h c n).deadline = none ↔ n = none := by simp [newWindow]

/-- A window of a length opens where there is none, in a hall that may hold parties. -/
theorem openWindow_timed_step {h : Hall} {c : WindowCause} {s : State} (n : Nat) (shut : windowOf s h = none)
    (live : HallLive s.admission h) (cause : c ≠ .interval) : ListStep s (openWindow h c (some n) s) :=
  openWindow_step ⟨shut, live, by simpa [newWindow] using cause, fun hc => absurd hc cause⟩

theorem admitNow_step (ps : List Byte) (s : State) : ListStep s (admitNow ps s).state := by
  unfold admitNow
  split
  · exact .refl s
  · next h _ =>
    dsimp only
    split
    · exact .refl s
    · next may =>
      rw [accept_state]
      simp only [Bool.or_eq_true, not_or, Option.not_isSome_iff_eq_none, Bool.not_eq_true', Bool.not_eq_false,
        decide_eq_true_eq] at may
      refine openWindow_timed_step _ may.1 ?_ (by decide)
      rcases may.2 with (p | p) | p <;> simp [HallLive, p]

theorem admitExtend_step (ps : List Byte) (s : State) : ListStep s (admitExtend ps s).state := by
  unfold admitExtend
  split
  · exact .refl s
  · next h _ =>
    split
    · exact .refl s
    · next w hw =>
      split
      · exact .refl s
      · next d hd =>
        split
        · exact .refl s
        · dsimp only
          rw [accept_state]
          refine .trans ?_ (workLamps_unseen _).step
          refine .trans ?_ (closingNotice_unseen _ _ _ _).step
          refine .trans ?_ (windowNotice_unseen _ _ _ _).step
          exact setWindow_step hw fun _ => ⟨.rfl, by simp [extendedWindow, hd]⟩

theorem admitClose_step (ps : List Byte) (s : State) : ListStep s (admitClose ps s).state := by
  unfold admitClose
  split
  · exact .refl s
  · split
    · rw [accept_state]; exact closeWindow_step _ _
    · exact .refl s

theorem usherClear_step (ps : List Byte) (s : State) : ListStep s (usherClear ps s).state := by
  unfold usherClear
  split
  · exact .refl s
  · next e _ =>
    rw [accept_state]
    refine .trans ?_ (workLamps_unseen _).step
    refine (modifyEntrance_unseen e s ?_).step
    exact fun _ => ⟨rfl, rfl⟩

theorem partyList_step (ps : List Byte) (s : State) : ListStep s (partyList ps s).state := by
  unfold partyList
  dsimp only
  split
  · exact .refl s
  · rw [accept_state]; exact .refl s

theorem windowWarn_step {h : Hall} {s t : State} (does : execWindowWarn h s = .next t) : ListStep s t := by
  unfold execWindowWarn at does
  split at does
  · next w hw =>
    split at does
    · have warned : ListStep s (setWindow h (some { w with closing := true }) s) := setWindow_step hw fun _ => ⟨.rfl, .rfl⟩
      have worked := warned.trans ((windowNotice_unseen h w.cause .closing _).trans (workLamps_unseen _)).step
      exact Host.Outcome.next.inj does ▸ worked
    · cases does; exact .refl s
  · cases does; exact .refl s

theorem windowDeadline_step {h : Hall} {s t : State} (does : execWindowDeadline h s = .next t) : ListStep s t := by
  unfold execWindowDeadline at does
  split at does
  · split at does
    · cases does; exact closeWindow_step _ _
    · cases does; exact .refl s
  · cases does; exact .refl s

/-! ### Entrance keys -/

/-- The key event that a command takes leaves everything but itself. -/
theorem takeEntranceKey_apart {event : KeyEvent} {role : Fin 12 → Role} {s : State} {k : Fin 64 × Fin 12 × State}
    (h : takeEntranceKey event role s = some k) : Apart s k.2.2 := by
  unfold takeEntranceKey at h
  split at h
  · split at h
    · split at h
      · cases h; exact ⟨rfl, rfl, rfl⟩
      · cases h
    · cases h
  · cases h

/-- A command of the entrance keys: what it does with the event it names, or nothing. -/
theorem keyCommand_step {event : KeyEvent} {role : Fin 12 → Role} {s t : State} {act : Fin 64 × Fin 12 × State → State}
    (does : ∀ k, ListStep k.2.2 (act k))
    (h : (match takeEntranceKey event role s with | some k => .next (act k) | none => .next s) = (.next t : Step)) : ListStep s t := by
  split at h
  · next k hk => cases h; exact (takeEntranceKey_apart hk).step.trans (does k)
  · cases h; exact .refl s

theorem addKeyPress_step (k : Fin 64) (e : Fin 12) (s : State) : ListStep s (addKeyPress k e s) := by
  unfold addKeyPress
  dsimp only
  refine (setLink_unseen k none s).step.trans ?_
  split
  · exact (refuseLamp_unseen _ _).step
  · next wait =>
    split
    · exact ((refuseLamp_unseen _ _).trans (partyNotice_unseen _ _ _)).step
    · next few =>
      refine .trans ?_ (setLink_unseen _ _ _).step
      exact addParty_step _ _ _ (by simpa using wait) (Nat.lt_of_not_le few)

theorem addKeyRepeat_step (k : Fin 64) (e : Fin 12) (s : State) : ListStep s (addKeyRepeat k e s) := by
  unfold addKeyRepeat
  split
  · exact (refuseLamp_unseen _ _).step
  · next q found =>
    obtain ⟨n, _, hn⟩ := Option.bind_eq_some_iff.mp found
    split
    · exact (refuseLamp_unseen _ _).step
    · split
      · exact (refuseLamp_unseen _ _).step
      · next may =>
        have room : q.state = .admitting → HasRoom s.admission q := by
          intro hs
          simp only [mayGrow, hs, windowOf] at may
          cases hw : s.admission.windows.get q.hall with
          | none => simp [hw] at may
          | some w =>
            exact ⟨w, hw, or_iff_not_imp_left.mpr (by simpa [hw, Nat.one_le_iff_ne_zero] using may)⟩
        exact .ofMove (.grow (findParty_mem hn).1 room)

theorem removeKeyPress_step (e : Fin 12) (s : State) : ListStep s (removeKeyPress e s) := by
  unfold removeKeyPress
  split
  · exact discard_step _ _
  · exact (refuseLamp_unseen _ _).step

theorem doneKeyPress_step (e : Fin 12) (s : State) : ListStep s (doneKeyPress e s) := by
  unfold doneKeyPress
  split
  · exact (refuseLamp_unseen e s).step.trans (selectionPass_step _ _)
  · exact (seats_step e s).trans (selectionPass_step _ _)

theorem offer_unseen (k : Fin 16) (a b : Byte) (s : State) : Unseen s (offer k a b s) := ⟨.refl _, rfl, rfl⟩

theorem usherCall_step (e : Fin 12) (long : Bool) (s : State) : ListStep s (usherCall e long s) := by
  unfold usherCall
  dsimp only
  refine .trans ?_ (workLamps_unseen _).step
  refine .trans ?_ (offer_unseen _ _ _ _).step
  refine (modifyEntrance_unseen e s ?_).step
  exact fun _ => ⟨rfl, rfl⟩

/-! ## The phase event (R86, R99) -/

/-- The state in which the Admission unit has taken a phase event into its view, before it acts on it. -/
def eventSeen (ev : PhaseEvent) (rest : List PhaseEvent) (s : State) : State :=
  setAdmission (viewedUnit s.admission ev.hall ev.new) { s with mail := { s.mail with toAdmission := rest } }

theorem execAdmissionPhaseEvent_cases {s t : State} (h : execAdmissionPhaseEvent s = .next t) :
    t = s ∨ ∃ ev rest, s.mail.toAdmission = ev :: rest ∧ t = admissionAction ev (eventSeen ev rest s) := by
  unfold execAdmissionPhaseEvent at h
  split at h
  · next ev rest hm => cases h; exact .inr ⟨ev, rest, hm, rfl⟩
  · cases h; exact .inl rfl

theorem admissionAction_ends {ev : PhaseEvent} {s : State} (ends : ev.new = .dark ∨ ev.new = .ended) :
    admissionAction ev s = discardHall ev.hall (closeWindow ev.hall s) := by
  unfold admissionAction
  rcases ends with h | h <;> rw [h]

/-- R99: out of INTERVAL the window closes first, and a BREAK window may open after it. -/
theorem admissionAction_fromInterval {ev : PhaseEvent} {s : State} (old : ev.old = .interval)
    (new : ev.new = .playing ∨ ev.new = .onBreak) :
    admissionAction ev s = closeWindow ev.hall s ∨
      ev.new = .onBreak ∧ admissionAction ev s = openBreak ev.hall (closeWindow ev.hall s) := by
  unfold admissionAction
  rcases new with h | h <;> rw [old, h] <;> dsimp only
  · exact .inl rfl
  · split
    · exact .inr ⟨rfl, rfl⟩
    · exact .inl rfl

theorem openBreak_step {h : Hall} {s : State} (shut : windowOf s h = none) (live : HallLive s.admission h) :
    ListStep s (openBreak h s) := openWindow_timed_step _ shut live (by decide)

/-- A window opened after the close of the one before it. -/
theorem reopen_step {h : Hall} {c : WindowCause} {n : Option Nat} {s : State} (live : HallLive s.admission h)
    (kind : n = none ↔ c = .interval) (view : c = .interval → s.admission.view.get h = .interval) :
    ListStep s (openWindow h c n (closeWindow h s)) := by
  have closed := closeWindow_step h s
  refine closed.trans (openWindow_step ⟨closeWindow_shut h s, ?_, ?_, fun hc => ?_⟩)
  · rw [HallLive, closed.view]; exact live
  · rw [newWindow_deadline]; exact kind
  · rw [closed.view]; exact view hc

/-- R99: the action on a phase event, once it is in the unit's view, moves the list by rule. -/
theorem admissionAction_step {ev : PhaseEvent} {s : State} (seen : s.admission.view.get ev.hall = ev.new) :
    ListStep s (admissionAction ev s) := by
  by_cases ends : ev.new = .dark ∨ ev.new = .ended
  · rw [admissionAction_ends ends]
    exact (closeWindow_step _ _).trans (discardHall_step _ _)
  have live : HallLive s.admission ev.hall := by rw [HallLive, seen]; exact not_or.mp ends
  unfold admissionAction
  dsimp only
  split
  · next h => exact absurd (.inl h) ends
  · next h => exact absurd (.inr h) ends
  · refine Unseen.step ⟨?_, rfl, rfl⟩
    exact ⟨rfl, rfl, rfl, rfl, fun _ => rfl, fun _ => rfl⟩
  · exact closeWindow_step _ _
  · exact closeWindow_step _ _
  · exact closeWindow_step _ _
  · exact closeWindow_step _ _
  · next h => exact reopen_step live (by simp) fun _ => seen.trans h
  · next h => exact reopen_step live (by simp) fun _ => seen.trans h
  · split
    · exact reopen_step live (by simp) fun hc => by cases hc
    · exact closeWindow_step _ _
  · split
    · exact .refl s
    · next hw => exact openWindow_timed_step _ hw live (by decide)
  · next h =>
    split
    · split
      · next hw => exact retimeWindow_step hw (by rw [seen, h]; decide)
      · next hw => exact openBreak_step hw live
    · exact .refl s
  · next h =>
    split
    · split
      · next hw => exact retimeWindow_step hw (by rw [seen, h]; decide)
      · next hw => exact openBreak_step hw live
    · exact .refl s
  · exact .refl s

/-- R98: a close and a new view of the hall, in either order, leave the same list. -/
theorem closeWindow_seen {P : AdmissionUnit → Prop} (ev : PhaseEvent) (rest : List PhaseEvent) (s : State)
    (like : ∀ {u v}, Alike u v → P u → P v) (none : windowOf s ev.hall = none → P (viewedUnit s.admission ev.hall ev.new))
    (some : P (viewedUnit (closedUnit s.admission ev.hall) ev.hall ev.new)) :
    P (closeWindow ev.hall (eventSeen ev rest s)).admission := by
  cases hw : windowOf s ev.hall with
  | none => rw [closeWindow_none (s := eventSeen ev rest s) hw]; exact none hw
  | some w => exact like (closeWindow_unseen (s := eventSeen ev rest s) hw).alike some

theorem closedUnit_shut (u : AdmissionUnit) (h : Hall) : (closedUnit u h).windows.get h = none := PerHall.get_set_self _ _ _

/-- After a close the law of the ADMITTING parties holds in any view of the hall. -/
theorem AdmittingLaw.closeSeen {s : State} (list : WaitingLaw s.admission) (law : AdmittingLaw s.admission) (ev : PhaseEvent)
    (rest : List PhaseEvent) : AdmittingLaw (closeWindow ev.hall (eventSeen ev rest s)).admission := by
  refine closeWindow_seen ev rest s (fun a l => l.alike a) (fun hw => law.view fun w h => ?_) ((law.close list _).view fun w h => ?_)
  · rw [show s.admission.windows.get ev.hall = none from hw] at h; cases h
  · rw [closedUnit_shut] at h; cases h

/-- The record without the parties of a hall, and without those that share their numbers. -/
def dispersed (u : AdmissionUnit) (h : Hall) : AdmissionUnit :=
  without u ((u.parties.filter fun q => q.hall = h).map Party.number)

theorem Alike.dispersed {u v : AdmissionUnit} (a : Alike u v) (h : Hall) : Alike (dispersed u h) (dispersed v h) :=
  ⟨by simp only [Machine.dispersed, Machine.without, a.parties], a.counter, a.windows, a.view, a.settings, a.admitted⟩

theorem dispersed_away {u : AdmissionUnit} {h : Hall} : ∀ q ∈ (dispersed u h).parties, q.hall ≠ h := by
  intro q hq hh
  obtain ⟨hm, hn⟩ := List.mem_filter.mp hq
  exact of_decide_eq_true hn (List.mem_map_of_mem (List.mem_filter.mpr ⟨hm, by simpa using hh⟩))

/-- R99: in a hall that ends or goes DARK no window and no party stays. -/
theorem WaitingLaw.hallEnds {s : State} (law : WaitingLaw s.admission) (ev : PhaseEvent) (rest : List PhaseEvent) :
    WaitingLaw (discardHall ev.hall (closeWindow ev.hall (eventSeen ev rest s))).admission := by
  refine WaitingLaw.alike (discards_alike _ _) ?_
  refine closeWindow_seen (P := fun u => WaitingLaw (dispersed u ev.hall)) ev rest s (fun a l => l.alike (a.dispersed _))
    (fun hw => ?_) ?_
  · exact (law.leave (l := (dispersed s.admission ev.hall).parties) List.filter_sublist).view (.inr ⟨dispersed_away, hw⟩)
  · exact ((law.close ev.hall).leave (l := (dispersed (closedUnit s.admission ev.hall) ev.hall).parties) List.filter_sublist).view
      (.inr ⟨dispersed_away, closedUnit_shut _ _⟩)

/-- R86, R99: the law of the list after the Admission unit has taken a phase event. -/
theorem WaitingLaw.event {s : State} (law : WaitingLaw s.admission) (ev : PhaseEvent) (rest : List PhaseEvent) :
    WaitingLaw (admissionAction ev (eventSeen ev rest s)).admission := by
  by_cases ends : ev.new = .dark ∨ ev.new = .ended
  · rw [admissionAction_ends ends]; exact law.hallEnds ev rest
  · exact (admissionAction_step (viewedUnit_view_self _ _ _)).moves.waiting (law.view (.inl (not_or.mp ends)))

/-- R96, R99: the law of the ADMITTING parties and the windows after a phase event that comes from the phase in view: out of
INTERVAL every window is closed, and into it none is kept. -/
theorem AdmittingLaw.event {s : State} (list : WaitingLaw s.admission) (law : AdmittingLaw s.admission) {ev : PhaseEvent}
    (rest : List PhaseEvent) (old : ev.old = s.admission.view.get ev.hall)
    (out : ev.old = .interval → ev.new = .playing ∨ ev.new = .onBreak ∨ ev.new = .ended ∨ ev.new = .dark) :
    AdmittingLaw (admissionAction ev (eventSeen ev rest s)).admission := by
  have closed := law.closeSeen list ev rest
  by_cases ends : ev.new = .dark ∨ ev.new = .ended
  · rw [admissionAction_ends ends]
    exact (closed.leave List.filter_sublist).alike (discards_alike _ _)
  have live := not_or.mp ends
  have listSeen : WaitingLaw (eventSeen ev rest s).admission := list.view (.inl live)
  by_cases interval : ev.old = .interval
  · have new : ev.new = .playing ∨ ev.new = .onBreak := by
      rcases out interval with h | h | h | h
      · exact .inl h
      · exact .inr h
      · exact absurd h live.2
      · exact absurd h live.1
    have step := closeWindow_step ev.hall (eventSeen ev rest s)
    rcases admissionAction_fromInterval interval new with h | ⟨_, h⟩ <;> rw [h]
    · exact closed
    · refine (openBreak_step (closeWindow_shut _ _) ?_).moves.admitting (step.moves.waiting listSeen) closed
      rw [HallLive, step.view]
      exact (viewedUnit_view_self s.admission ev.hall ev.new).symm ▸ live
  · refine (admissionAction_step (viewedUnit_view_self _ _ _)).moves.admitting listSeen (law.view fun w hw hc => ?_)
    exact absurd (old.trans (law.interval _ w hw hc)) interval

end Sys2Proof.Machine

namespace Sys2Proof.Machine

/-! ## The Programme unit's steps -/

/-- A hall's record replaced by one of the same phase. -/
theorem setHall_step {h : Hall} {r : HallRecord} {s : State} (same : r.phase = (hallOf s h).phase) : ListStep s (setHall h r s) := by
  refine ⟨fun k => ?_, rfl, .refl _⟩
  by_cases e : h = k
  · subst e; simpa [hallOf] using same
  · simp [hallOf, PerHall.get_set_ne _ _ e]

theorem orderCall_step (o : ProgrammeOrder) (s : State) : ListStep s (orderCall o s) := ⟨fun _ => rfl, rfl, .refl _⟩

theorem offer_step (k : Fin 16) (a b : Byte) (s : State) : ListStep s (offer k a b s) := (offer_unseen k a b s).step

theorem fireStep_step (h : Hall) (s : State) : ListStep s (fireStep h s) := by
  unfold fireStep
  dsimp only
  split
  · split
    · refine .trans ?_ (orderCall_step _ _)
      exact setHall_step rfl
    · exact setHall_step rfl
  · exact .refl s

theorem fireAtOnce_step (h : Hall) (n : Nat) (s : State) : ListStep s (fireAtOnce h n s) := by
  induction n generalizing s with
  | zero => exact .refl s
  | succ n ih =>
    unfold fireAtOnce
    split
    · exact (fireStep_step h s).trans (ih _)
    · exact .refl s

/-- R7: a step that changes one hall's phase and hands the Admission unit its phase event; out of INTERVAL a hall goes to
PLAYING, BREAK, ENDED or DARK alone (R11, R12, R20). -/
structure Turned (ev : PhaseEvent) (s t : State) : Prop where
  moves : ListMove s.admission t.admission
  post : t.mail.toAdmission = s.mail.toAdmission ++ [ev]
  old : ev.old = (hallOf s ev.hall).phase
  new : (hallOf t ev.hall).phase = ev.new
  other : ∀ k, ev.hall ≠ k → (hallOf t k).phase = (hallOf s k).phase
  out : ev.old = .interval → ev.new = .playing ∨ ev.new = .onBreak ∨ ev.new = .ended ∨ ev.new = .dark

theorem Turned.after {ev : PhaseEvent} {s t u : State} (a : ListStep s t) (b : Turned ev t u) : Turned ev s u where
  moves := a.moves.trans b.moves
  post := by rw [b.post, a.post]
  old := b.old.trans (a.phase _)
  new := b.new
  other k hk := (b.other k hk).trans (a.phase k)
  out := b.out

theorem Turned.before {ev : PhaseEvent} {s t u : State} (a : Turned ev s t) (b : ListStep t u) : Turned ev s u where
  moves := a.moves.trans b.moves
  post := b.post.trans a.post
  old := a.old
  new := (b.phase _).trans a.new
  other k hk := (b.phase k).trans (a.other k hk)
  out := a.out

theorem changePhase_turned {h : Hall} {r : HallRecord} (a : Option Admission) (c : Cause) {s : State}
    (out : (hallOf s h).phase = .interval → r.phase = .playing ∨ r.phase = .onBreak ∨ r.phase = .ended ∨ r.phase = .dark) :
    Turned (phaseEvent h (hallOf s h).phase r a c) s (changePhase h r a c s) where
  moves := .refl _
  post := rfl
  old := rfl
  new := congrArg HallRecord.phase (PerHall.get_set_self s.programme.halls h r)
  other _ hk := congrArg HallRecord.phase (PerHall.get_set_ne s.programme.halls r hk)
  out := out

/-- What a step of the Programme unit does to the halls' phases: nothing, or one phase event. -/
def PhaseStep (s t : State) : Prop := ListStep s t ∨ ∃ ev, Turned ev s t

theorem PhaseStep.after {s t u : State} (a : ListStep s t) (b : PhaseStep t u) : PhaseStep s u :=
  b.imp a.trans fun ⟨ev, k⟩ => ⟨ev, k.after a⟩

theorem PhaseStep.before {s t u : State} (a : PhaseStep s t) (b : ListStep t u) : PhaseStep s u :=
  a.imp (fun k => k.trans b) fun ⟨ev, k⟩ => ⟨ev, k.before b⟩

theorem PhaseStep.refl (s : State) : PhaseStep s s := .inl (.refl s)

/-- A phase event from a phase other than INTERVAL. -/
theorem changePhase_step {h : Hall} {r : HallRecord} (a : Option Admission) (c : Cause) {s : State} {p : Phase}
    (phase : (hallOf s h).phase = p) (out : p ≠ .interval) : PhaseStep s (changePhase h r a c s) :=
  .inr ⟨_, changePhase_turned a c fun e => absurd (phase.symm.trans e) out⟩

theorem request_phase {code : Byte} {p : Port} {s t : State} {unit : List Byte → State → Answer}
    (does : ∀ ps s, PhaseStep s (unit ps s).state) (h : takeRequest code p s unit = .next t) : PhaseStep s t := by
  obtain rfl | ⟨ps, rfl⟩ := takeRequest_leaves h
  · exact .refl t
  · exact .after (withoutRequest_apart p s).step ((does ps _).before (respond_apart _ _).step)

/-! ### Requests -/

theorem orderClear_phase (ps : List Byte) (s : State) : PhaseStep s (orderClear ps s).state := by
  unfold orderClear
  split
  · exact .refl s
  · dsimp only
    split
    · exact .refl s
    · exact .inl (setHall_step rfl)

theorem orderPut_phase (ps : List Byte) (s : State) : PhaseStep s (orderPut ps s).state := by
  unfold orderPut
  dsimp only
  split
  · exact .refl s
  · split
    · exact .refl s
    · split
      · exact .refl s
      · split
        · exact .refl s
        · split
          · exact .refl s
          · exact .inl (setHall_step rfl)

theorem orderAppend_phase (ps : List Byte) (s : State) : PhaseStep s (orderAppend ps s).state := by
  unfold orderAppend
  split
  · dsimp only
    split
    · exact .refl s
    · split
      · exact .refl s
      · split
        · exact .refl s
        · split
          · next h => exact changePhase_step _ _ h (by decide)
          · exact .inl (setHall_step rfl)
  · exact .refl s

/-- A hall whose opening finds no fault is DARK. -/
theorem dark_of_openFault {h : Hall} {s : State} (sound : openFault h s = none) : (hallOf s h).phase = .dark := by
  unfold openFault at sound
  dsimp only at sound
  split at sound
  · cases sound
  · next d => exact Decidable.not_not.mp d

theorem hallOpen_phase (ps : List Byte) (s : State) : PhaseStep s (hallOpen ps s).state := by
  unfold hallOpen
  split
  · exact .refl s
  · split
    · exact .refl s
    · next sound =>
      dsimp only
      rw [accept_state]
      exact (changePhase_step _ _ (dark_of_openFault sound) (by decide)).before (fireAtOnce_step _ _ _)

theorem cancelPlanCalls_step (h : Hall) (s : State) : ListStep s (cancelPlanCalls h s) := orderCall_step _ s

theorem startSegment_phase {h : Hall} {g : Segment} {s : State}
    (from_ : (hallOf s h).phase = .opened ∨ (hallOf s h).phase = .onBreak) :
    PhaseStep s (startSegment h (hallOf s h) g s) := by
  have phase : (hallOf s h).phase ≠ .interval := by rcases from_ with k | k <;> rw [k] <;> decide
  have cancel : ListStep s (if (hallOf s h).phase = .opened then cancelPlanCalls h s else s) := by
    split
    · exact cancelPlanCalls_step h s
    · exact .refl s
  have turn : ∀ r c, PhaseStep s (changePhase h r none c (if (hallOf s h).phase = .opened then cancelPlanCalls h s else s)) :=
    fun r c => .after cancel (changePhase_step _ _ (cancel.phase h) phase)
  unfold startSegment
  simp only
  split
  · exact (turn _ _).before (fireAtOnce_step _ _ _)
  · exact turn _ _

theorem segStart_phase (ps : List Byte) (s : State) : PhaseStep s (segStart ps s).state := by
  unfold segStart
  split
  · exact .refl s
  · dsimp only
    split
    · exact .refl s
    · split
      · next p =>
        split
        · exact startSegment_phase (.inl p)
        · exact .refl s
      · next p =>
        split
        · exact startSegment_phase (.inr p)
        · exact .refl s
      · exact .after (cancelPlanCalls_step _ s) (.inr ⟨_, changePhase_turned _ _ fun _ => .inl rfl⟩)
      · exact .refl s

theorem phaseAfterEnd_cases (r : HallRecord) : phaseAfterEnd r = .ended ∨ phaseAfterEnd r = .onBreak := by
  unfold phaseAfterEnd
  split
  · exact .inl rfl
  · exact .inr rfl

theorem segEnd_phase (ps : List Byte) (s : State) : PhaseStep s (segEnd ps s).state := by
  unfold segEnd
  split
  · exact .refl s
  · dsimp only
    split
    · exact .refl s
    · split
      · next p => exact changePhase_step _ _ p (by decide)
      · next p => exact changePhase_step _ _ p (by decide)
      · refine .after (cancelPlanCalls_step _ s) (.inr ⟨_, changePhase_turned _ _ fun _ => ?_⟩)
        rcases phaseAfterEnd_cases (hallOf s _) with k | k
        · exact .inr (.inr (.inl k))
        · exact .inr (.inl k)
      · exact .refl s

theorem gapMark_phase (ps : List Byte) (s : State) : PhaseStep s (gapMark ps s).state := by
  unfold gapMark
  split
  · exact .refl s
  · dsimp only
    split
    · next p =>
      simp only [Bool.and_eq_true, decide_eq_true_eq] at p
      exact changePhase_step _ _ p.1 (by decide)
    · exact .refl s

theorem gapEnd_phase (ps : List Byte) (s : State) : PhaseStep s (gapEnd ps s).state := by
  unfold gapEnd
  split
  · exact .refl s
  · dsimp only
    split
    · next p => exact changePhase_step _ _ p (by decide)
    · exact .refl s

theorem teardown_phase (h : Hall) (s : State) : PhaseStep s (teardown h s) :=
  .after (orderCall_step _ s) (.inr ⟨_, changePhase_turned _ _ fun _ => .inr (.inr (.inr rfl))⟩)

theorem hallDarkRequest_phase (ps : List Byte) (s : State) : PhaseStep s (hallDarkRequest ps s).state := by
  unfold hallDarkRequest
  split
  · split
    · exact .refl s
    · exact teardown_phase _ _
    · exact teardown_phase _ _
    · split
      · exact teardown_phase _ _
      · exact .refl s
  · exact .refl s

theorem setPlan_step (plan : Fin 8) (steps : List PlanStep) (s : State) : ListStep s (setPlan plan steps s) :=
  ⟨fun _ => rfl, rfl, .refl _⟩

theorem planPut_phase (ps : List Byte) (s : State) : PhaseStep s (planPut ps s).state := by
  unfold planPut
  dsimp only
  split
  · split
    · split
      · exact .refl s
      · split
        · exact .refl s
        · split
          · exact .refl s
          · split
            · exact .refl s
            · split
              · exact .inl (setPlan_step _ _ s)
              · exact .refl s
    · split
      · exact .refl s
      · split
        · exact .refl s
        · split
          · exact .refl s
          · split
            · exact .refl s
            · exact .inl (setPlan_step _ _ s)
  · exact .refl s

theorem hallSet_phase (ps : List Byte) (s : State) : PhaseStep s (hallSet ps s).state := by
  unfold hallSet
  split
  · exact .refl s
  · split
    · exact .refl s
    · split
      · exact .inl (setHall_step rfl)
      · exact .refl s

theorem hallStatus_phase (ps : List Byte) (s : State) : PhaseStep s (hallStatus ps s).state := by
  unfold hallStatus
  split
  · exact .refl s
  · dsimp only
    rw [accept_state]
    exact .refl s

/-! ### Events and times -/

theorem takeHallLevel_step (h : Hall) (rest : List LevelState) (s : State) : ListStep s (takeHallLevel h rest s) :=
  ⟨fun _ => rfl, rfl, .refl _⟩

theorem hallQuietEvent_phase {h : Hall} {s t : State} (does : execHallQuietEvent h s = .next t) : PhaseStep s t := by
  unfold execHallQuietEvent at does
  split at does
  · dsimp only at does
    split at does
    · next p =>
      cases does
      simp only [Bool.and_eq_true, decide_eq_true_eq] at p
      exact .after (takeHallLevel_step _ _ s) (changePhase_step _ _ p.1.1 (by decide))
    · cases does; exact .inl (takeHallLevel_step _ _ s)
  · cases does; exact .refl s

theorem hallSoundEvent_phase {h : Hall} {s t : State} (does : execHallSoundEvent h s = .next t) : PhaseStep s t := by
  unfold execHallSoundEvent at does
  split at does
  · dsimp only at does
    split at does
    · next p =>
      cases does
      simp only [Bool.and_eq_true, decide_eq_true_eq] at p
      exact .after (takeHallLevel_step _ _ s) (changePhase_step _ _ p.1 (by decide))
    · cases does; exact .inl (takeHallLevel_step _ _ s)
  · cases does; exact .refl s

theorem planStepFire_step {h : Hall} {s t : State} (does : execPlanStepFire h s = .next t) : ListStep s t := by
  unfold execPlanStepFire at does
  split at does
  · cases does; exact fireStep_step h s
  · cases does; exact .refl s

theorem intervalDue_step {h : Hall} {s t : State} (does : execIntervalDue h s = .next t) : ListStep s t := by
  unfold execIntervalDue at does
  dsimp only at does
  split at does
  · split at does
    · cases does
      refine .trans ?_ (offer_step _ _ _ _)
      exact setHall_step rfl
    · cases does; exact .refl s
  · cases does; exact .refl s

end Sys2Proof.Machine

/-! PROOFS. What every command does to the latecomer list, the halls' phases and the phase events. -/

namespace Sys2Proof.Machine

theorem Apart.next {s t u : State} (a : Apart s u) (does : Host.Outcome.next u = (.next t : Step)) : Apart s t :=
  Host.Outcome.next.inj does ▸ a

/-! ## Units that hand a message on -/

theorem takeLoopEvent_apart (l : Fin 8) (rest : List LoopEvent) (s : State) : Apart s (takeLoopEvent l rest s) := ⟨rfl, rfl, rfl⟩

theorem takeProgrammeOrder_apart (rest : List ProgrammeOrder) (s : State) : Apart s (takeProgrammeOrder rest s) := ⟨rfl, rfl, rfl⟩

theorem takeAdmissionOrder_apart (rest : List AdmissionOrder) (s : State) : Apart s (takeAdmissionOrder rest s) := ⟨rfl, rfl, rfl⟩

theorem takeZoneNews_apart (rest : List ZoneNews) (s : State) : Apart s (takeZoneNews rest s) := ⟨rfl, rfl, rfl⟩

theorem takeTalkKey_apart (rest : List TalkKey) (s : State) : Apart s (takeTalkKey rest s) := ⟨rfl, rfl, rfl⟩

theorem setCallView_apart (h : Hall) (v : Phase) (s : State) : Apart s (setCallView h v s) := ⟨rfl, rfl, rfl⟩

theorem setLoop_apart (l : Fin 8) (r : LoopRecord) (s : State) : Apart s (setLoop l r s) := ⟨rfl, rfl, rfl⟩

theorem setLamp_apart (l : Fin 16) (r : Lamp) (s : State) : Apart s (setLamp l r s) := ⟨rfl, rfl, rfl⟩

theorem setPort_apart (p : Port) (r : PortRecord) (s : State) : Apart s (setPort p r s) := ⟨rfl, rfl, rfl⟩

theorem setBus_apart (p : Port) (b : Bus) (s : State) : Apart s (setBus p b s) := ⟨rfl, rfl, rfl⟩

theorem setStore_apart (u : Store) (s : State) : Apart s (setStore u s) := ⟨rfl, rfl, rfl⟩

theorem storeNotice_apart (k : Nat) (ok : Bool) (sector : Nat) (s : State) : Apart s (storeNotice k ok sector s) := ⟨rfl, rfl, rfl⟩

theorem finishRead_apart (p : Port) (j : ReadJob) (m : Flash) (s : State) : Apart s (finishRead p j m s) := ⟨rfl, rfl, rfl⟩

theorem storeFill_apart (p : Port) (ps : List Byte) (s : State) : Apart s (storeFill p ps s).state :=
  ownerRequest_apart p _ s (setStore_apart _ s)

theorem storeProgram_apart (p : Port) (ps : List Byte) (s : State) : Apart s (storeProgram p ps s).state :=
  ownerRequest_apart p _ s (setStore_apart _ s)

theorem storeErase_apart (p : Port) (ps : List Byte) (s : State) : Apart s (storeErase p ps s).state :=
  ownerRequest_apart p _ s (setStore_apart _ s)

theorem storeClose_apart (p : Port) (ps : List Byte) (s : State) : Apart s (storeClose p ps s).state :=
  ownerRequest_apart p _ s (setStore_apart _ s)

theorem tick_apart (s : State) : Apart s { s with clock := s.clock + 1 } := ⟨rfl, rfl, rfl⟩

section
variable {s t : State}

theorem zonePhaseEvent_apart (does : execZonePhaseEvent s = .next t) : Apart s t := by
  unfold execZonePhaseEvent at does
  split at does
  · exact (Apart.refl s).next does
  · refine Apart.next ?_ does
    refine .trans ?_ (handHush_apart _ _)
    exact ⟨rfl, rfl, rfl⟩

theorem relayRequest_apart (does : execRelayRequest s = .next t) : Apart s t := by
  unfold execRelayRequest at does
  split at does
  · exact (Apart.refl s).next does
  · exact Apart.next (by exact ⟨rfl, rfl, rfl⟩) does

theorem channelChangeReport_apart (does : execChannelChangeReport s = .next t) : Apart s t := by
  unfold execChannelChangeReport at does
  split at does
  · exact (Apart.refl s).next does
  · exact Apart.next (by exact ⟨rfl, rfl, rfl⟩) does

theorem overlayPush_apart {q : PushRequest} (does : execOverlayPush q s = .next t) : Apart s t := by
  unfold execOverlayPush at does
  split at does
  · split at does
    · split at does
      · exact (startCall_apart _ _ s).next does
      · exact (Apart.refl s).next does
    · exact (Apart.refl s).next does
  · split at does
    · exact (evaluate_apart s _).next does
    · exact (Apart.refl s).next does

theorem overlayRemoval_apart {o : Owner} {z : ZoneSet} (does : execOverlayRemoval o z s = .next t) : Apart s t := by
  unfold execOverlayRemoval at does
  split at does
  · exact (remove_apart o z s).next does
  · split at does
    · split at does
      · split at does
        · exact (endWithPass_apart _ _ s).next does
        · exact (Apart.refl s).next does
      · exact (Apart.refl s).next does
    · split at does
      · exact (evaluate_apart s _).next does
      · exact (Apart.refl s).next does

theorem overCurrentEvent_apart {l : Fin 8} (does : execOverCurrentEvent l s = .next t) : Apart s t := by
  unfold execOverCurrentEvent at does
  split at does
  · exact ((takeLoopEvent_apart l _ s).trans (overCurrent_apart l _)).next does
  · exact (Apart.refl s).next does

theorem openLoopBegin_apart {l : Fin 8} (does : execOpenLoopBegin l s = .next t) : Apart s t := by
  unfold execOpenLoopBegin at does
  split at does
  · exact ((takeLoopEvent_apart l _ s).trans (setOpen_apart l _ _ _)).next does
  · exact (Apart.refl s).next does

theorem openLoopEnd_apart {l : Fin 8} (does : execOpenLoopEnd l s = .next t) : Apart s t := by
  unfold execOpenLoopEnd at does
  split at does
  · exact ((takeLoopEvent_apart l _ s).trans (setOpen_apart l _ _ _)).next does
  · exact (Apart.refl s).next does

/-! ## Keys, lamps and ports -/

theorem keyScanSweep_apart {down : BitVec 64} (does : execKeyScanSweep down s = .next t) : Apart s t := by
  unfold execKeyScanSweep at does
  split at does
  · exact ((finishSweep_apart s).trans ((setPanel_apart _ _).trans (closeSweep_apart _))).next does
  · exact (Apart.refl s).next does

theorem lampFrame_apart (does : execLampFrame s = .next t) : Apart s t := by
  unfold execLampFrame at does
  split at does
  · exact (setPanel_apart _ s).next does
  · exact (Apart.refl s).next does

theorem lampStateOffer_apart (does : execLampStateOffer s = .next t) : Apart s t := by
  unfold execLampStateOffer at does
  split at does
  · exact Apart.next (by exact ⟨rfl, rfl, rfl⟩) does
  · exact (Apart.refl s).next does

theorem tallyStateOffer_apart (does : execTallyStateOffer s = .next t) : Apart s t := by
  unfold execTallyStateOffer at does
  split at does
  · exact Apart.next (by exact ⟨rfl, rfl, rfl⟩) does
  · exact (Apart.refl s).next does

theorem refuseIndication_apart (does : execRefuseIndication s = .next t) : Apart s t := by
  unfold execRefuseIndication at does
  split at does
  · exact Apart.next (by exact ⟨rfl, rfl, rfl⟩) does
  · exact (Apart.refl s).next does

theorem cutFlashEnd_apart {d : Fin 4} (does : execCutFlashEnd d s = .next t) : Apart s t := by
  unfold execCutFlashEnd at does
  dsimp only at does
  split at does
  · exact (setLamp_apart _ _ s).next does
  · exact (Apart.refl s).next does

theorem i2cWriteStart_apart {p : Port} {addr : BitVec 7} {data : List Byte} (does : execI2cWriteStart p addr data s = .next t) :
    Apart s t := by
  unfold execI2cWriteStart at does
  dsimp only at does
  split at does
  all_goals exact (setPort_apart p _ s).next does

theorem writeTimeout_apart {p : Port} (does : execWriteTimeout p s = .next t) : Apart s t := by
  unfold execWriteTimeout at does
  dsimp only at does
  split at does
  · exact (setPort_apart p _ s).next does
  · exact (Apart.refl s).next does

theorem i2cRead_apart {p : Port} {addr : BitVec 7} {count : Nat} (does : execI2cRead p addr count s = .next t) : Apart s t := by
  unfold execI2cRead at does
  dsimp only at does
  split at does
  all_goals exact (setPort_apart p _ s).next does

theorem stretchLimit_apart {p : Port} (does : execStretchLimit p s = .next t) : Apart s t := by
  unfold execStretchLimit at does
  dsimp only at does
  split at does
  · exact (setBus_apart p _ s).next does
  · exact (Apart.refl s).next does

/-! ## Calls -/

theorem unitCallSubmission_apart {u : Submitter} (does : execUnitCallSubmission u s = .next t) : Apart s t := by
  unfold execUnitCallSubmission at does
  split at does
  · split at does
    · exact ((takeProgrammeOrder_apart _ s).trans (submit_apart _ _)).next does
    · exact (Apart.refl s).next does
  · split at does
    · exact ((takeAdmissionOrder_apart _ s).trans (submit_apart _ _)).next does
    · exact (Apart.refl s).next does

theorem callStackReport_apart (does : execCallStackReport s = .next t) : Apart s t := by
  unfold execCallStackReport at does
  split at does
  · exact ((takeZoneNews_apart _ s).trans ((setCalls_apart _ _).trans (pass_apart _))).next does
  · exact (Apart.refl s).next does

theorem callHushChange_apart (does : execCallHushChange s = .next t) : Apart s t := by
  unfold execCallHushChange at does
  split at does
  · exact ((takeZoneNews_apart _ s).trans (pass_apart _)).next does
  · exact (Apart.refl s).next does

theorem callPhaseEvent_apart (does : execCallPhaseEvent s = .next t) : Apart s t := by
  unfold execCallPhaseEvent at does
  split at does
  · exact ((takeProgrammeOrder_apart _ s).trans ((setCallView_apart _ _ _).trans (pass_apart _))).next does
  · exact (Apart.refl s).next does

theorem hallCallCancel_apart (does : execHallCallCancel s = .next t) : Apart s t := by
  unfold execHallCallCancel at does
  split at does
  · exact ((takeProgrammeOrder_apart _ s).trans ((setCallView_apart _ _ _).trans (endAll_apart _ _))).next does
  · exact (Apart.refl s).next does

theorem planCallCancel_apart (does : execPlanCallCancel s = .next t) : Apart s t := by
  unfold execPlanCallCancel at does
  split at does
  · exact ((takeProgrammeOrder_apart _ s).trans (endAll_apart _ _)).next does
  · exact (Apart.refl s).next does

theorem admissionCallCancel_apart (does : execAdmissionCallCancel s = .next t) : Apart s t := by
  unfold execAdmissionCallCancel at does
  split at does
  · exact ((takeAdmissionOrder_apart _ s).trans (endAll_apart _ _)).next does
  · exact (Apart.refl s).next does

theorem callDeadlineExpiry_apart {id : Nat} (does : execCallDeadlineExpiry id s = .next t) : Apart s t := by
  unfold execCallDeadlineExpiry at does
  split at does
  · split at does
    · exact (endWithPass_apart _ _ s).next does
    · exact (Apart.refl s).next does
  · exact (Apart.refl s).next does

theorem liveTimeout_apart {id : Nat} (does : execLiveTimeout id s = .next t) : Apart s t := by
  unfold execLiveTimeout at does
  split at does
  · split at does
    · exact (endWithPass_apart _ _ s).next does
    · exact (Apart.refl s).next does
  · exact (Apart.refl s).next does

/-! ## Description -/

theorem talkKeyPress_apart (does : execTalkKeyPress s = .next t) : Apart s t := by
  unfold execTalkKeyPress at does
  split at does
  · split at does
    · exact ((takeTalkKey_apart _ s).trans (changeDescriber_apart _ _ _)).next does
    · exact (Apart.refl s).next does
  · exact (Apart.refl s).next does

theorem talkKeyRelease_apart (does : execTalkKeyRelease s = .next t) : Apart s t := by
  unfold execTalkKeyRelease at does
  split at does
  · split at does
    · exact ((takeTalkKey_apart _ s).trans (changeDescriber_apart _ _ _)).next does
    · exact (Apart.refl s).next does
  · exact (Apart.refl s).next does

theorem describerLevelEvent_apart {d : Fin 4} (does : execDescriberLevelEvent d s = .next t) : Apart s t := by
  unfold execDescriberLevelEvent at does
  split at does
  · refine Apart.next ?_ does
    refine .trans ?_ (changeDescriber_apart _ _ _)
    exact ⟨rfl, rfl, rfl⟩
  · exact (Apart.refl s).next does

theorem descPhaseEvent_apart (does : execDescPhaseEvent s = .next t) : Apart s t := by
  unfold execDescPhaseEvent at does
  split at does
  · refine Apart.next ?_ does
    refine .trans ?_ (evaluateAll_apart _ _)
    exact ⟨rfl, rfl, rfl⟩
  · exact (Apart.refl s).next does

theorem descStackReport_apart (does : execDescStackReport s = .next t) : Apart s t := by
  unfold execDescStackReport at does
  split at does
  · refine Apart.next ?_ does
    refine .trans ?_ (evaluateAll_apart _ _)
    exact ⟨rfl, rfl, rfl⟩
  · exact (Apart.refl s).next does

theorem graceExpiry_apart {c : Fin 4} (does : execGraceExpiry c s = .next t) : Apart s t := by
  unfold execGraceExpiry at does
  dsimp only at does
  split at does
  · split at does
    · exact ((withdraw_apart c s).trans (enter_apart c _ _ _)).next does
    · exact (Apart.refl s).next does
  · exact (Apart.refl s).next does

/-! ## Store and notices -/

theorem programComplete_apart (does : execProgramComplete s = .next t) : Apart s t := by
  unfold execProgramComplete at does
  dsimp only at does
  split at does
  · exact ((setStore_apart _ s).trans (storeNotice_apart _ _ _ _)).next does
  · exact (Apart.refl s).next does

theorem eraseComplete_apart {left : List Host.Cell} (does : execEraseComplete left s = .next t) : Apart s t := by
  unfold execEraseComplete at does
  dsimp only at does
  split at does
  · exact ((setStore_apart _ s).trans (storeNotice_apart _ _ _ _)).next does
  · exact (Apart.refl s).next does

theorem saveComplete_apart {left : List Host.Cell} (does : execSaveComplete left s = .next t) : Apart s t := by
  unfold execSaveComplete at does
  dsimp only at does
  split at does
  · exact ((setStore_apart _ s).trans (storeNotice_apart _ _ _ _)).next does
  · exact (Apart.refl s).next does

theorem storeReadDone_apart {p : Port} (does : execStoreReadDone p s = .next t) : Apart s t := by
  unfold execStoreReadDone at does
  dsimp only at does
  split at does
  · exact (Apart.refl s).next does
  · split at does
    · exact (Apart.refl s).next does
    · exact (Apart.refl s).next does
    · refine Apart.next ?_ does
      refine .trans ?_ (finishRead_apart _ _ _ _)
      exact ⟨rfl, rfl, rfl⟩
    · exact (finishRead_apart _ _ _ s).next does

theorem noticeOffer_apart {n : Nat} (does : execNoticeOffer n s = .next t) : Apart s t := by
  unfold execNoticeOffer at does
  dsimp only at does
  split at does
  · exact (Apart.refl s).next does
  · exact Apart.next (by exact ⟨rfl, rfl, rfl⟩) does

end

/-! ## Every command -/

/-- What a command can do to the latecomer list, to the halls' phases and to the phase events that wait between them. -/
inductive StepEffect (s : State) : State → Prop
  | list {t} (h : ListStep s t) : StepEffect s t
  | turn {t} (ev : PhaseEvent) (h : Turned ev s t) : StepEffect s t
  | event (ev : PhaseEvent) (rest : List PhaseEvent) (waits : s.mail.toAdmission = ev :: rest) :
      StepEffect s (admissionAction ev (eventSeen ev rest s))
  | boot (straps : BitVec 2) (m : Flash) (draws : Nat) (queue : List Instr) : StepEffect s (State.boot straps m draws queue)

theorem Apart.effect {s t : State} (a : Apart s t) : StepEffect s t := .list a.step

theorem PhaseStep.effect {s t : State} (a : PhaseStep s t) : StepEffect s t := by
  rcases a with h | ⟨ev, h⟩
  · exact .list h
  · exact .turn ev h

theorem startUp_effect {straps : BitVec 2} {s t : State} (does : Host.Outcome.next (startUp straps s) = (.next t : Step)) :
    StepEffect s t := Host.Outcome.next.inj does ▸ .boot _ _ _ _

theorem restartTakesEffect_effect {straps : BitVec 2} {s t : State} (does : execRestartTakesEffect straps s = .next t) :
    StepEffect s t := by
  unfold execRestartTakesEffect at does
  split at does
  · exact startUp_effect does
  · exact ((Apart.refl s).next does).effect

theorem admissionPhaseEvent_effect {s t : State} (does : execAdmissionPhaseEvent s = .next t) : StepEffect s t := by
  rcases execAdmissionPhaseEvent_cases does with rfl | ⟨ev, rest, waits, rfl⟩
  · exact (Apart.refl t).effect
  · exact .event ev rest waits

theorem exec_effect {c : Instr} {s t : State} (does : exec c s = .next t) : StepEffect s t := by
  cases c with
  | powerOn straps => exact startUp_effect does
  | resetLine straps => exact startUp_effect does
  | restartTakesEffect straps => exact restartTakesEffect_effect does
  | i2cWriteStart p addr data => exact (i2cWriteStart_apart does).effect
  | i2cWriteEnd p => exact ((setPort_apart p _ s).next does).effect
  | writeTimeout p => exact (writeTimeout_apart does).effect
  | i2cRead p addr count => exact (i2cRead_apart does).effect
  | stretchLimit p => exact (stretchLimit_apart does).effect
  | orderClear p => exact (request_phase orderClear_phase does).effect
  | orderPut p => exact (request_phase orderPut_phase does).effect
  | orderAppend p => exact (request_phase orderAppend_phase does).effect
  | hallOpen p => exact (request_phase hallOpen_phase does).effect
  | segStart p => exact (request_phase segStart_phase does).effect
  | segEnd p => exact (request_phase segEnd_phase does).effect
  | gapMark p => exact (request_phase gapMark_phase does).effect
  | gapEnd p => exact (request_phase gapEnd_phase does).effect
  | hallDark p => exact (request_phase hallDarkRequest_phase does).effect
  | planPut p => exact (request_phase planPut_phase does).effect
  | hallSet p => exact (request_phase hallSet_phase does).effect
  | hallStatus p => exact (request_phase hallStatus_phase does).effect
  | hallQuietEvent h => exact (hallQuietEvent_phase does).effect
  | hallSoundEvent h => exact (hallSoundEvent_phase does).effect
  | planStepFire h => exact .list (planStepFire_step does)
  | intervalDue h => exact .list (intervalDue_step does)
  | zoneSet p => exact (request_apart zoneSet_apart does).effect
  | zoneStatus p => exact (request_apart zoneStatus_apart does).effect
  | zonePhaseEvent => exact (zonePhaseEvent_apart does).effect
  | relayRequest => exact (relayRequest_apart does).effect
  | channelChangeReport => exact (channelChangeReport_apart does).effect
  | overlayPush q => exact (overlayPush_apart does).effect
  | overlayRemoval o z => exact (overlayRemoval_apart does).effect
  | overCurrentEvent l => exact (overCurrentEvent_apart does).effect
  | foldBackRecovery l => exact ((setLoop_apart l _ s).next does).effect
  | openLoopBegin l => exact (openLoopBegin_apart does).effect
  | openLoopEnd l => exact (openLoopEnd_apart does).effect
  | loopReset p => exact (request_apart loopReset_apart does).effect
  | inputFrame lane good slots => exact (inputFrame_apart lane good slots does).effect
  | mixBlock sense => exact ((mixBlock_apart sense s).next does).effect
  | rampStep z => exact ((setZoneUnit_apart _ s).next does).effect
  | playerPhraseEnd n => exact ((phraseEnd_apart s n).next does).effect
  | repeatSilenceEnd n => exact ((repeatSilenceEnd_apart s n).next does).effect
  | chimeNoteEnd => exact ((chimeNoteEnd_apart s).next does).effect
  | chimeStrikeEnd => exact ((chimeStrikeEnd_apart s).next does).effect
  | levelPeriodEnd => exact (levelPeriodEnd_apart does).effect
  | levelSet p => exact (request_apart levelSet_apart does).effect
  | levelRead p => exact (request_apart (fun _ s => .refl s) does).effect
  | doorSet p => exact .list (request_step doorSet_step does)
  | partyAdd p => exact .list (request_step partyAdd_step does)
  | partyRemove p => exact .list (request_step partyRemove_step does)
  | partyMove p => exact .list (request_step partyMove_step does)
  | partyList p => exact .list (request_step partyList_step does)
  | admitNow p => exact .list (request_step admitNow_step does)
  | admitExtend p => exact .list (request_step admitExtend_step does)
  | admitClose p => exact .list (request_step admitClose_step does)
  | usherClear p => exact .list (request_step usherClear_step does)
  | admissionPhaseEvent => exact admissionPhaseEvent_effect does
  | windowWarn h => exact .list (windowWarn_step does)
  | windowDeadline h => exact .list (windowDeadline_step does)
  | addKeyPress => exact .list (keyCommand_step (fun _ => addKeyPress_step _ _ _) does)
  | addKeyRepeat => exact .list (keyCommand_step (fun _ => addKeyRepeat_step _ _ _) does)
  | removeKeyPress => exact .list (keyCommand_step (fun _ => removeKeyPress_step _ _) does)
  | removeKeyLong => exact .list (keyCommand_step (fun _ => discards_step _ _) does)
  | doneKeyPress => exact .list (keyCommand_step (fun _ => doneKeyPress_step _ _) does)
  | usherKeyPress => exact .list (keyCommand_step (fun _ => usherCall_step _ _ _) does)
  | usherKeyLong => exact .list (keyCommand_step (fun _ => usherCall_step _ _ _) does)
  | keyScanSweep down => exact (keyScanSweep_apart does).effect
  | keyDebounceDone k => exact (keyStep_apart does).effect
  | keyLong k => exact (keyStep_apart does).effect
  | keyRepeat k => exact (keyStep_apart does).effect
  | keyStuck k => exact (keyStep_apart does).effect
  | keyRelease k => exact (keyStep_apart does).effect
  | keymapSet p => exact (request_apart keymapSet_apart does).effect
  | scanSet p => exact (request_apart scanSet_apart does).effect
  | keyStatus p => exact (request_apart keyStatus_apart does).effect
  | lampTest p => exact (request_apart (lampTest_apart p) does).effect
  | lampStateOffer => exact (lampStateOffer_apart does).effect
  | tallyStateOffer => exact (tallyStateOffer_apart does).effect
  | refuseIndication => exact (refuseIndication_apart does).effect
  | lampFrame => exact (lampFrame_apart does).effect
  | refuseOverlayEnd l => exact ((setLamp_apart l _ s).next does).effect
  | lampTestEnd l => exact ((setLamp_apart l _ s).next does).effect
  | cutFlashEnd d => exact (cutFlashEnd_apart does).effect
  | callSubmit p => exact (request_apart (callSubmit_apart p) does).effect
  | unitCallSubmission u => exact (unitCallSubmission_apart does).effect
  | callCancel p => exact (request_apart (callCancel_apart p) does).effect
  | liveEnd p => exact (request_apart (liveEnd_apart p) does).effect
  | callList p => exact (request_apart callList_apart does).effect
  | callStackReport => exact (callStackReport_apart does).effect
  | callHushChange => exact (callHushChange_apart does).effect
  | callPhaseEvent => exact (callPhaseEvent_apart does).effect
  | hallCallCancel => exact (hallCallCancel_apart does).effect
  | planCallCancel => exact (planCallCancel_apart does).effect
  | admissionCallCancel => exact (admissionCallCancel_apart does).effect
  | callDeadlineExpiry id => exact (callDeadlineExpiry_apart does).effect
  | liveTimeout id => exact (liveTimeout_apart does).effect
  | descSet p => exact (request_apart descSet_apart does).effect
  | descStatus p => exact (request_apart (fun _ s => .refl s) does).effect
  | talkOpen p => exact (request_apart (talkLatch_apart _) does).effect
  | talkClose p => exact (request_apart (talkLatch_apart _) does).effect
  | talkKeyPress => exact (talkKeyPress_apart does).effect
  | talkKeyRelease => exact (talkKeyRelease_apart does).effect
  | describerLevelEvent d => exact (describerLevelEvent_apart does).effect
  | descPhaseEvent => exact (descPhaseEvent_apart does).effect
  | descStackReport => exact (descStackReport_apart does).effect
  | graceExpiry c => exact (graceExpiry_apart does).effect
  | storeOpen p => exact (request_apart (storeOpenRequest_apart p) does).effect
  | storeFill p => exact (request_apart (storeFill_apart p) does).effect
  | storeProgram p => exact (request_apart (storeProgram_apart p) does).effect
  | programComplete => exact (programComplete_apart does).effect
  | storeErase p => exact (request_apart (storeErase_apart p) does).effect
  | eraseComplete left => exact (eraseComplete_apart does).effect
  | storeRead p => exact (request_apart (storeRead_apart p) does).effect
  | storeReadDone p => exact (storeReadDone_apart does).effect
  | storeClose p => exact (request_apart (storeClose_apart p) does).effect
  | settingsSave p => exact (request_apart settingsSave_apart does).effect
  | saveComplete left => exact (saveComplete_apart does).effect
  | restart p => exact (request_apart restart_apart does).effect
  | partInfo p => exact (request_apart (fun _ s => .refl s) does).effect
  | noticeOffer n => exact (noticeOffer_apart does).effect
  | noticeRead p => exact (request_apart (fun _ _ => ⟨rfl, rfl, rfl⟩) does).effect
  | noticeAck p => exact (request_apart (fun _ _ => ⟨rfl, rfl, rfl⟩) does).effect
  | noticeSet p => exact (request_apart (noticeSet_apart p) does).effect
  | houseClockTick => exact ((tick_apart s).next does).effect

end Sys2Proof.Machine

/-! PROOFS. Every step keeps the laws of the latecomer list, of its windows and quotas, and of the phase events. -/

namespace Sys2Proof.Machine

/-- The command at the front runs in a state that differs from the step's in its queue alone. -/
theorem step_effect {s t : State} (does : step s = .next t) :
    ∃ rest, StepEffect { s with pending := rest } t := by
  unfold step at does
  split at does
  · exact ⟨s.pending, Host.Outcome.next.inj does ▸ (Apart.refl s).effect⟩
  · exact ⟨_, exec_effect does⟩

/-! ## Phase events (R7) -/

theorem Follows.snoc {view now : Phase} {l : List PhaseEvent} {ev : PhaseEvent} (chain : Follows view l now) (old : ev.old = now)
    (out : ev.old = .interval → ev.new = .playing ∨ ev.new = .onBreak ∨ ev.new = .ended ∨ ev.new = .dark) :
    Follows view (l ++ [ev]) ev.new := by
  induction l generalizing view with
  | nil => exact ⟨old.trans chain.symm, fun h => out (old.trans (chain.symm.trans h)), rfl⟩
  | cons e l ih => exact ⟨chain.1, chain.2.1, ih chain.2.2⟩

theorem PhaseLaw.list {s t : State} (law : PhaseLaw s) (a : ListStep s t) : PhaseLaw t := by
  intro h
  rw [a.view, a.post, a.phase]
  exact law h

theorem PhaseLaw.turn {s t : State} {ev : PhaseEvent} (law : PhaseLaw s) (a : Turned ev s t) : PhaseLaw t := by
  intro h
  rw [a.moves.view, a.post, List.filter_append]
  by_cases k : ev.hall = h
  · subst k
    rw [a.new, List.filter_cons_of_pos (by simp), List.filter_nil]
    exact (law ev.hall).snoc a.old a.out
  · rw [a.other h k, List.filter_cons_of_neg (by simpa using k), List.filter_nil, List.append_nil]
    exact law h

theorem PhaseLaw.seen {s : State} {ev : PhaseEvent} {rest : List PhaseEvent} (law : PhaseLaw s)
    (waits : s.mail.toAdmission = ev :: rest) : PhaseLaw (eventSeen ev rest s) := by
  intro h
  have chain := law h
  rw [waits] at chain
  by_cases k : ev.hall = h
  · subst k
    rw [List.filter_cons_of_pos (by simp)] at chain
    simpa [eventSeen, viewedUnit, hallOf] using chain.2.2
  · rw [List.filter_cons_of_neg (by simpa using k)] at chain
    simpa [eventSeen, viewedUnit, hallOf, PerHall.get_set_ne _ _ k] using chain

/-- R7, R86: an event at the front of the queue comes from the phase that the unit has in view. -/
theorem PhaseLaw.front {s : State} {ev : PhaseEvent} {rest : List PhaseEvent} (law : PhaseLaw s)
    (waits : s.mail.toAdmission = ev :: rest) : ev.old = s.admission.view.get ev.hall ∧
      (ev.old = .interval → ev.new = .playing ∨ ev.new = .onBreak ∨ ev.new = .ended ∨ ev.new = .dark) := by
  have chain := law ev.hall
  rw [waits, List.filter_cons_of_pos (by simp)] at chain
  exact ⟨chain.1, fun h => chain.2.1 (chain.1.symm.trans h)⟩

theorem eventSeen_view (ev : PhaseEvent) (rest : List PhaseEvent) (s : State) :
    (eventSeen ev rest s).admission.view.get ev.hall = ev.new := viewedUnit_view_self _ _ _

/-! ## Start-up -/

section
variable (straps : BitVec 2) (m : Flash) (draws : Nat) (queue : List Instr)

theorem PhaseLaw.boot : PhaseLaw (State.boot straps m draws queue) := by
  intro h
  cases h <;> rfl

theorem WaitingLaw.boot : WaitingLaw (State.boot straps m draws queue).admission where
  few := Nat.zero_le _
  distinct := .nil
  inRange _ hq := by cases hq
  counter := ⟨Nat.le_refl 1, show 1 ≤ 999 by decide⟩
  live _ hq := by cases hq
  hall _ hq := by cases hq
  window h hw := by cases h <;> cases hw
  admitting _ hq := by cases hq

theorem AdmittingLaw.boot : AdmittingLaw (State.boot straps m draws queue).admission where
  order := .nil
  quota e w hw := by
    generalize ((State.boot straps m draws queue).admission.entrances.get e).settings.hall = h at hw
    cases h <;> cases hw
  deadline h w hw := by cases h <;> cases hw
  interval h w hw := by cases h <;> cases hw

end

/-! ## Every command, every step -/

theorem StepEffect.phaseLaw {s t : State} (e : StepEffect s t) (law : PhaseLaw s) : PhaseLaw t := by
  cases e with
  | list a => exact law.list a
  | turn ev a => exact law.turn a
  | event ev rest waits => exact (law.seen waits).list (admissionAction_step (eventSeen_view ev rest s))
  | boot straps m draws queue => exact .boot _ _ _ _

theorem StepEffect.waitingLaw {s t : State} (e : StepEffect s t) (law : WaitingLaw s.admission) : WaitingLaw t.admission := by
  cases e with
  | list a => exact a.moves.waiting law
  | turn ev a => exact a.moves.waiting law
  | event ev rest waits => exact law.event ev rest
  | boot straps m draws queue => exact .boot _ _ _ _

theorem StepEffect.admittingLaw {s t : State} (e : StepEffect s t) (list : WaitingLaw s.admission) (phases : PhaseLaw s)
    (law : AdmittingLaw s.admission) : AdmittingLaw t.admission := by
  cases e with
  | list a => exact a.moves.admitting list law
  | turn ev a => exact a.moves.admitting list law
  | event ev rest waits => exact law.event list rest (phases.front waits).1 (phases.front waits).2
  | boot straps m draws queue => exact .boot _ _ _ _

theorem phaseChainKept : Rules.PhaseChainKept := fun _ _ law does =>
  have ⟨_, e⟩ := step_effect does
  e.phaseLaw law

theorem admittingKept : Rules.AdmittingKept := fun _ _ list phases law does =>
  have ⟨_, e⟩ := step_effect does
  e.admittingLaw list phases law

/-- Settles O58: every command moves the latecomer list, the halls' phases and their events by one of four kinds of step, and
each of these keeps the three laws. -/
theorem waitingKept : Obligations.WaitingKept :=
  ⟨fun _ _ law does =>
    have ⟨_, e⟩ := step_effect does
    e.waitingLaw law, phaseChainKept, admittingKept⟩

end Sys2Proof.Machine

/-! PROOFS. Requests as the statements write them, and the codes of names and flags in their bytes. -/

namespace Sys2Proof.Machine

/-! ## Requests -/

section
variable {code : Byte} {p : Port} {s : State} {ps pl : List Byte} {unit : List Byte → State → Answer} {st : Status} {a : Bool}

/-- A request that its unit refuses with a payload. -/
theorem Asks.refusedWith (asks : Asks s p code ps)
    (does : unit ps (withoutRequest p s) = ⟨withoutRequest p s, some (st, pl)⟩) :
    takeRequest code p s unit = .next (replied p st pl s) := by
  rw [takeRequest_waiting unit asks, does]
  rfl

theorem Asks.refused (asks : Asks s p code ps) (does : unit ps (withoutRequest p s) = refuse st (withoutRequest p s)) :
    takeRequest code p s unit = .next (replied p st [] s) := asks.refusedWith does

/-- A request that its unit accepts and that changes nothing. -/
theorem Asks.reported (asks : Asks s p code ps) (does : unit ps (withoutRequest p s) = accept a pl (withoutRequest p s)) :
    takeRequest code p s unit = .next (replied p (done a) pl s) := asks.refusedWith does

/-- A request that its unit accepts with a change of state that leaves the ports alone: the change may be made after the
answer (R191). -/
theorem Asks.accepted (f : State → State) (asks : Asks s p code ps)
    (does : unit ps (withoutRequest p s) = accept a pl (f (withoutRequest p s)))
    (apart : ∀ s, answer p (done a) pl (f s) = f (answer p (done a) pl s)) :
    takeRequest code p s unit = .next (f (replied p (done a) pl s)) := by
  rw [takeRequest_waiting unit asks, does]
  exact congrArg _ (apart _)

end

@[simp] theorem done_false : done false = .ok := rfl

@[simp] theorem hallOf_withoutRequest (p : Port) (s : State) (h : Hall) : hallOf (withoutRequest p s) h = hallOf s h := rfl

@[simp] theorem saving_withoutRequest (p : Port) (s : State) : saving (withoutRequest p s) = saving s := rfl

@[simp] theorem storeOpen_withoutRequest (p : Port) (s : State) : storeOpen (withoutRequest p s) = storeOpen s := rfl

@[simp] theorem planInUse_withoutRequest (plan : Fin 8) (p : Port) (s : State) :
    planInUse plan (withoutRequest p s) = planInUse plan s := rfl

@[simp] theorem openFault_withoutRequest (h : Hall) (p : Port) (s : State) :
    openFault h (withoutRequest p s) = openFault h s := rfl

/-! ## Codes -/

@[simp] theorem byteAt_cons_zero (b : Byte) (ps : List Byte) : byteAt (b :: ps) 0 = b := rfl

@[simp] theorem byteAt_cons_succ (b : Byte) (ps : List Byte) (i : Nat) : byteAt (b :: ps) (i + 1) = byteAt ps i := rfl

@[simp] theorem byteAt_cons_one (b c : Byte) (ps : List Byte) : byteAt (b :: c :: ps) 1 = c := rfl

theorem byteAt_drop (ps : List Byte) (k i : Nat) : byteAt (ps.drop k) i = byteAt ps (k + i) := by
  simp [byteAt, List.getD_eq_getElem?_getD, List.getElem?_drop]

@[simp] theorem natAt_drop (ps : List Byte) (k i : Nat) : natAt (ps.drop k) i = natAt ps (k + i) := by
  rw [natAt, byteAt_drop, natAt]

theorem natAt_lt (ps : List Byte) (i : Nat) : natAt ps i < 256 := (byteAt ps i).isLt

/-- FFH, the byte for NONE, as a number. -/
theorem byteAt_eq_none_iff {ps : List Byte} {i : Nat} : byteAt ps i = 0xFF ↔ natAt ps i = 255 := by
  rw [← BitVec.toNat_inj]; rfl

theorem nameAt_eq_none_iff {α : Type} {names : List α} {ps : List Byte} {i : Nat} :
    nameAt names ps i = none ↔ names.length ≤ natAt ps i := List.getElem?_eq_none_iff

theorem nameAt_hall {ps : List Byte} {i : Nat} {h : Hall} (e : byteAt ps i = hallByte h) : nameAt hallNames ps i = some h := by
  unfold nameAt natAt
  rw [e]
  cases h <;> rfl

theorem nameAt_hall_none {ps : List Byte} {i : Nat} (e : 1 < natAt ps i) : nameAt hallNames ps i = none :=
  nameAt_eq_none_iff.mpr e

theorem nameAt_hallByte_none {b : Byte} (e : 1 < b.toNat) (ps : List Byte) : nameAt hallNames (b :: ps) 0 = none :=
  nameAt_hall_none (ps := b :: ps) (i := 0) e

/-- A hall byte is the code of a hall, or names none. -/
theorem hall_of_natAt {ps : List Byte} {i : Nat} (e : natAt ps i ≤ 1) : ∃ h, nameAt hallNames ps i = some h :=
  ⟨_, List.getElem?_eq_getElem (show natAt ps i < hallNames.length from Nat.lt_succ_of_le e)⟩

@[simp] theorem nameAt_hallByte (h : Hall) (ps : List Byte) : nameAt hallNames (hallByte h :: ps) 0 = some h := nameAt_hall rfl

theorem nameAt_flag {ps : List Byte} {i : Nat} {flag : Bool} (e : byteAt ps i = flagByte flag) :
    nameAt flagNames ps i = some flag := by
  unfold nameAt natAt
  rw [e]
  cases flag <;> rfl

theorem nameAt_flag_none {ps : List Byte} {i : Nat} (e : 1 < natAt ps i) : nameAt flagNames ps i = none :=
  nameAt_eq_none_iff.mpr e

theorem finUpTo_getElem? {n i : Nat} (h : i < n) : (finUpTo n)[i]? = some ⟨i, h⟩ := by
  rw [List.getElem?_eq_getElem (by rw [finUpTo_length]; exact h), Table.finUpTo_get]

theorem finUpTo_eq_none_iff {n i : Nat} : (finUpTo n)[i]? = none ↔ n ≤ i := by
  rw [List.getElem?_eq_none_iff, finUpTo_length]

theorem finUpTo_eq_some_iff {n i : Nat} {x : Fin n} : (finUpTo n)[i]? = some x ↔ i = x.val := by
  constructor
  · intro h
    have lt : i < n := by
      by_contra hn
      rw [finUpTo_eq_none_iff.mpr (Nat.le_of_not_lt hn)] at h
      cases h
    rw [finUpTo_getElem? lt] at h
    exact congrArg Fin.val (Option.some.inj h)
  · rintro rfl
    exact finUpTo_getElem? x.isLt

theorem optNameAt_eq_none_iff {α : Type} {names : List α} {ps : List Byte} {i : Nat} :
    optNameAt names ps i = none ↔ names.length ≤ natAt ps i ∧ natAt ps i ≠ 255 := by
  unfold optNameAt
  split
  · next h => simp [byteAt_eq_none_iff.mp h]
  · next h => simp [byteAt_eq_none_iff.not.mp h]

/-- A number below `n`, or NONE, with its byte. -/
theorem optNameAt_finUpTo_val {n : Nat} {ps : List Byte} {i : Nat} {x : Option (Fin n)} (h : optNameAt (finUpTo n) ps i = some x) :
    x.map Fin.val = if natAt ps i = 255 then none else some (natAt ps i) := by
  unfold optNameAt at h
  split at h
  · next e =>
    cases h
    rw [if_pos (byteAt_eq_none_iff.mp e)]
    rfl
  · next e =>
    rw [if_neg (byteAt_eq_none_iff.not.mp e)]
    obtain ⟨y, hy, rfl⟩ := Option.map_eq_some_iff.mp h
    rw [finUpTo_eq_some_iff.mp hy]
    rfl

/-! ## Clamped numbers -/

theorem clampNat_fst {lo hi n : Nat} (h : lo ≤ hi) : (clampNat lo hi n).1 = max lo (min hi n) := by
  unfold clampNat
  repeat' split
  all_goals dsimp only; omega

theorem clampNat_snd {lo hi n : Nat} : (clampNat lo hi n).2 = true ↔ n < lo ∨ hi < n := by
  unfold clampNat
  repeat' split
  all_goals simp; omega

/-! ## The Programme unit's changes leave the ports -/

theorem answer_setHall (h : Hall) (r : HallRecord) (p : Port) (st : Status) (pl : List Byte) (s : State) :
    answer p st pl (setHall h r s) = setHall h r (answer p st pl s) := rfl

theorem answer_orderCall (o : ProgrammeOrder) (p : Port) (st : Status) (pl : List Byte) (s : State) :
    answer p st pl (orderCall o s) = orderCall o (answer p st pl s) := rfl

theorem answer_changePhase (h : Hall) (r : HallRecord) (e : Option Admission) (c : Cause) (p : Port) (st : Status) (pl : List Byte)
    (s : State) : answer p st pl (changePhase h r e c s) = changePhase h r e c (answer p st pl s) := rfl

theorem answer_setPlan (plan : Fin 8) (steps : List PlanStep) (p : Port) (st : Status) (pl : List Byte) (s : State) :
    answer p st pl (setPlan plan steps s) = setPlan plan steps (answer p st pl s) := rfl

theorem answer_fireStep (h : Hall) (p : Port) (st : Status) (pl : List Byte) (s : State) :
    answer p st pl (fireStep h s) = fireStep h (answer p st pl s) := by
  unfold fireStep
  have hall : hallOf (answer p st pl s) h = hallOf s h := rfl
  dsimp only
  rw [hall, answer_programme]
  split
  · split <;> rfl
  · rfl

theorem answer_fireAtOnce (h : Hall) (n : Nat) (p : Port) (st : Status) (pl : List Byte) (s : State) :
    answer p st pl (fireAtOnce h n s) = fireAtOnce h n (answer p st pl s) := by
  induction n generalizing s with
  | zero => rfl
  | succ n ih =>
    have due : stepDue h (answer p st pl s) = stepDue h s := rfl
    unfold fireAtOnce
    rw [due]
    split
    · rw [ih, answer_fireStep]
    · rfl

end Sys2Proof.Machine

/-! PROOFS. The phase change, the running order and its requests (R2–R7). -/

namespace Sys2Proof.Machine

theorem orderClear_rule : Obligations.OrderClear := by
  intro s p
  refine ⟨fun h asks => ⟨fun dark => ?_, fun lit => ?_⟩, fun b asks bad => ?_⟩
  · exact asks.accepted (a := false) (setHall h { hallOf s h with order := [], position := 0 }) (by simp [orderClear, dark])
      (answer_setHall h _ p _ _)
  · exact asks.refused (by simp [orderClear, lit])
  · exact asks.refused (by simp [orderClear, nameAt_hallByte_none bad])

/-! ## Segment records (R3) -/

/-- A record that is taken names its kind, its admission, its description mode and its plan. -/
theorem readSegment_eq_some_iff {ps : List Byte} {x : Segment × Bool} : readSegment ps = some x ↔
    ∃ kind admission desc plan, nameAt segmentKindNames ps 0 = some kind ∧ nameAt admissionNames ps 1 = some admission ∧
      nameAt descModeNames ps 2 = some desc ∧ optNameAt (finUpTo 8) ps 5 = some plan ∧
      x = if kind = .interval then
          if wordAt ps 3 = 0xFFFF then (⟨kind, admission, desc, none, plan⟩, false)
          else (⟨kind, admission, desc, some (clampNat 60 3600 (wordAt ps 3)).1, plan⟩, (clampNat 60 3600 (wordAt ps 3)).2)
        else (⟨kind, admission, desc, none, none⟩, wordAt ps 3 != 0xFFFF || plan.isSome) := by
  unfold readSegment
  simp only [Option.bind_eq_bind, Option.bind_eq_some_iff]
  constructor
  · rintro ⟨kind, hk, admission, ha, desc, hd, plan, hp, h⟩
    refine ⟨kind, admission, desc, plan, hk, ha, hd, hp, ?_⟩
    split at h
    · next k =>
      rw [if_pos k]
      split at h
      · next w => rw [if_pos w]; exact (Option.some.inj h).symm
      · next w => rw [if_neg w]; exact (Option.some.inj h).symm
    · next k => rw [if_neg k]; exact (Option.some.inj h).symm
  · rintro ⟨kind, admission, desc, plan, hk, ha, hd, hp, rfl⟩
    refine ⟨kind, hk, admission, ha, desc, hd, plan, hp, ?_⟩
    split
    · split <;> rfl
    · rfl

theorem readSegment_eq_none_iff {ps : List Byte} : readSegment ps = none ↔
    2 < natAt ps 0 ∨ 2 < natAt ps 1 ∨ 2 < natAt ps 2 ∨ (7 < natAt ps 5 ∧ natAt ps 5 ≠ 255) := by
  have kind : nameAt segmentKindNames ps 0 = none ↔ 2 < natAt ps 0 := nameAt_eq_none_iff
  have admission : nameAt admissionNames ps 1 = none ↔ 2 < natAt ps 1 := nameAt_eq_none_iff
  have desc : nameAt descModeNames ps 2 = none ↔ 2 < natAt ps 2 := nameAt_eq_none_iff
  have plan : optNameAt (finUpTo 8) ps 5 = none ↔ 7 < natAt ps 5 ∧ natAt ps 5 ≠ 255 := by
    rw [optNameAt_eq_none_iff, finUpTo_length]; exact Iff.rfl
  rw [← kind, ← admission, ← desc, ← plan]
  constructor
  · intro h
    by_contra sound
    simp only [not_or, ← ne_eq, Option.ne_none_iff_exists'] at sound
    obtain ⟨⟨k, hk⟩, ⟨a, ha⟩, ⟨d, hd⟩, ⟨q, hq⟩⟩ := sound
    rw [readSegment_eq_some_iff.mpr ⟨k, a, d, q, hk, ha, hd, hq, rfl⟩] at h
    cases h
  · intro bad
    by_contra taken
    obtain ⟨x, hx⟩ := Option.ne_none_iff_exists'.mp taken
    obtain ⟨k, a, d, q, hk, ha, hd, hq, -⟩ := readSegment_eq_some_iff.mp hx
    simp [hk, ha, hd, hq] at bad

/-- The name at a code in a field of three names. -/
theorem nameAt_three {α : Type} {x y z v : α} {ps : List Byte} {i : Nat} (h : nameAt [x, y, z] ps i = some v) :
    v = (match natAt ps i with | 0 => x | 1 => y | _ => z) ∧ (v = z ∧ natAt ps i = 2 ∨ natAt ps i < 2) := by
  unfold nameAt at h
  match e : natAt ps i with
  | 0 => rw [e] at h; cases h; exact ⟨rfl, .inr (by omega)⟩
  | 1 => rw [e] at h; cases h; exact ⟨rfl, .inr (by omega)⟩
  | 2 => rw [e] at h; cases h; exact ⟨rfl, .inl ⟨rfl, rfl⟩⟩
  | n + 3 => rw [e] at h; cases h

theorem wordAt_eq (ps : List Byte) (i : Nat) : wordAt ps i = natAt ps i * 256 + natAt ps (i + 1) := rfl

/-- The kind's code is 2 exactly for an INTERVAL. -/
theorem interval_iff {ps : List Byte} {kind : SegmentKind} (h : nameAt segmentKindNames ps 0 = some kind) :
    kind = .interval ↔ natAt ps 0 = 2 := by
  unfold nameAt at h
  match e : natAt ps 0 with
  | 0 => rw [e] at h; cases h; decide
  | 1 => rw [e] at h; cases h; decide
  | 2 => rw [e] at h; cases h; decide
  | n + 3 => rw [e] at h; cases h

theorem segmentRecords_rule : Rules.SegmentRecords := by
  refine ⟨fun ps => ⟨readSegment_eq_none_iff, fun g adjusted read => ?_⟩, fun ps => ⟨rfl, fun n => ?_⟩⟩
  · obtain ⟨kind, admission, desc, plan, hk, ha, hd, hp, hx⟩ := readSegment_eq_some_iff.mp read
    have planVal := optNameAt_finUpTo_val hp
    have planSome : plan.isSome = true ↔ natAt ps 5 ≠ 255 := by
      rw [← Option.isSome_map (f := Fin.val), planVal]
      split <;> simp_all
    simp only [interval_iff hk] at hx
    have fields : g.kind = kind ∧ g.admission = admission ∧ g.desc = desc := by
      have : g = _ := congrArg Prod.fst hx
      rw [this]
      by_cases interval : natAt ps 0 = 2
      · rw [if_pos interval]
        by_cases absent : wordAt ps 3 = 0xFFFF
        · rw [if_pos absent]; exact ⟨rfl, rfl, rfl⟩
        · rw [if_neg absent]; exact ⟨rfl, rfl, rfl⟩
      · rw [if_neg interval]; exact ⟨rfl, rfl, rfl⟩
    refine ⟨fields.1.trans (nameAt_three hk).1, fields.2.1.trans (nameAt_three ha).1, fields.2.2.trans (nameAt_three hd).1,
      fun interval => ?_, fun other => ?_⟩
    · rw [if_pos interval] at hx
      by_cases absent : wordAt ps 3 = 0xFFFF
      · rw [if_pos absent] at hx
        cases hx
        exact ⟨(if_pos absent).symm, planVal, iff_of_false Bool.false_ne_true fun present => present.1 absent⟩
      · rw [if_neg absent] at hx
        cases hx
        refine ⟨Eq.trans ?_ (if_neg absent).symm, planVal, clampNat_snd.trans (and_iff_right absent).symm⟩
        exact congrArg some (clampNat_fst (by decide))
    · rw [if_neg other] at hx
      cases hx
      exact ⟨rfl, rfl, by rw [Bool.or_eq_true, planSome, bne_iff_ne]; rfl⟩
  · rw [readSegments]
    cases readSegment ps with
    | none => rfl
    | some g => cases readSegments (ps.drop 6) n <;> rfl

theorem readSegments_length {ps : List Byte} {n : Nat} {x : List Segment × Bool} (h : readSegments ps n = some x) :
    x.1.length = n := by
  induction n generalizing ps x with
  | zero => cases h; rfl
  | succ n ih =>
    rw [readSegments] at h
    simp only [Option.bind_eq_bind, Option.bind_eq_some_iff, Option.some.injEq] at h
    obtain ⟨g, -, rest, hr, rfl⟩ := h
    simp [ih hr]

/-! ## The order that a put leaves (R5) -/

theorem writeAt_length {order new : List Segment} {first : Nat} (h : first ≤ order.length) :
    (writeAt order first new).length = max order.length (first + new.length) := by
  simp only [writeAt, List.length_append, List.length_take, List.length_drop]
  omega

theorem writeAt_getElem? {order new : List Segment} {first : Nat} (h : first ≤ order.length) (i : Nat) :
    (writeAt order first new)[i]? = if first ≤ i ∧ i < first + new.length then new[i - first]? else order[i]? := by
  unfold writeAt
  rw [List.append_assoc, List.getElem?_append, List.length_take, Nat.min_eq_left h]
  split
  · next before => rw [List.getElem?_take_of_lt before, if_neg (by omega)]
  · next past =>
    rw [List.getElem?_append]
    split
    · rw [if_pos (by omega)]
    · rw [if_neg (by omega), List.getElem?_drop]
      congr 1
      omega

theorem orderPut_rule : Rules.OrderPut := by
  intro s p ps asks
  refine ⟨fun bad => ?_, fun h hall some few length => ⟨fun lit => ?_, fun dark => ⟨fun bad => ?_, ?_⟩⟩⟩
  · refine asks.refused ?_
    unfold orderPut
    dsimp only
    split
    · rfl
    · next h name =>
      have named : ¬ 1 < natAt ps 0 := fun e => by rw [nameAt_hall_none e] at name; cases name
      rw [if_pos (bad.resolve_left named)]
  all_goals have form : ¬ (natAt ps 2 = 0 ∨ 8 < natAt ps 2 ∨ ps.length ≠ 3 + 6 * natAt ps 2) := by omega
  · refine asks.refused ?_
    simp only [orderPut, nameAt_hall hall, if_neg form]
    exact if_pos lit
  · refine asks.refused ?_
    simp only [orderPut, nameAt_hall hall, if_neg form, hallOf_withoutRequest, dark, orderLimit, ne_eq, not_true_eq_false,
      if_false]
    split
    · rfl
    · next fits => rw [bad.resolve_left (fun b => fits (.inl b)) |>.resolve_left fun b => fits (.inr b)]
  · intro new adjusted start fits read
    have count := readSegments_length read
    refine ⟨writeAt (hallOf s h).order (natAt ps 1) new, ?_, ?_, ?_⟩
    · refine asks.accepted (setHall h _) ?_ (answer_setHall h _ p _ _)
      simp only [orderPut, nameAt_hall hall, if_neg form, hallOf_withoutRequest, dark, ne_eq, not_true_eq_false, if_false,
        read, if_neg (show ¬ ((hallOf s h).order.length < natAt ps 1 ∨ orderLimit < natAt ps 1 + natAt ps 2) from
          by unfold orderLimit; omega)]
    · rw [writeAt_length start, count]
    · intro i
      rw [writeAt_getElem? start, count]

theorem orderAppend_rule : Rules.OrderAppend := by
  intro s p ps
  refine ⟨fun b asks bad => ?_, fun h asks => ⟨fun unread => ?_, fun g adjusted read => ⟨fun interval => ?_, fun kind dark => ?_,
    fun kind lit full => ?_, fun kind room lit running => ?_, fun kind room ended => ?_⟩⟩⟩
  · exact asks.refused (by simp [orderAppend, nameAt_hallByte_none bad])
  · exact asks.refused (by simp [orderAppend, unread])
  · exact asks.refused (by simp [orderAppend, read, interval])
  · exact asks.refused (by simp [orderAppend, read, kind, dark])
  · exact asks.refused (by simp [orderAppend, read, kind, lit, orderLimit, full])
  · exact asks.accepted (setHall h _) (by simp [orderAppend, read, kind, lit, orderLimit, Nat.not_le.mpr room, running])
      (answer_setHall h _ p _ _)
  · exact asks.accepted (changePhase h _ _ _)
      (by simp [orderAppend, read, kind, orderLimit, Nat.not_le.mpr room, ended]) (answer_changePhase h _ _ _ p _ _)

/-! ## The end of a show (R19, R20) -/

theorem answer_teardown (h : Hall) (p : Port) (st : Status) (pl : List Byte) (s : State) :
    answer p st pl (teardown h s) = teardown h (answer p st pl s) := rfl

theorem hallDark_rule : Obligations.HallDark := by
  intro s p
  refine ⟨fun b f asks bad => ?_, fun h force asks => ?_⟩
  · refine asks.refused ?_
    rcases bad with bad | bad
    · simp [hallDarkRequest, nameAt_hallByte_none bad]
    · simp [hallDarkRequest, nameAt_flag_none (ps := [b, f]) (i := 1) bad]
  · have flag : nameAt flagNames [hallByte h, flagByte force] 1 = some force := nameAt_flag rfl
    refine ⟨fun dark => ?_, fun soft show_ => ?_, fun ends => ?_⟩
    · exact asks.reported (a := false) (by simp [hallDarkRequest, flag, dark])
    · refine asks.refused ?_
      subst soft
      rcases show_ with e | e | e | e
      all_goals simp [hallDarkRequest, flag, e]
    · refine asks.accepted (a := false) (teardown h) ?_ (answer_teardown h p _ _)
      rcases ends with e | e | ⟨forced, lit⟩
      · simp [hallDarkRequest, flag, e]
      · simp [hallDarkRequest, flag, e]
      · subst forced
        simp only [hallDarkRequest, nameAt_hallByte, flag, hallOf_withoutRequest]
        split
        · next e => exact absurd e lit
        · rfl
        · rfl
        · rfl

end Sys2Proof.Machine

namespace Sys2Proof

/-- Settles O4: both sides are one record. -/
theorem phaseChangeIsHandedOn : Obligations.PhaseChangeIsHandedOn := by
  intro h r ended cause s
  rfl

/-- Settles O5, by the hall's phase. -/
theorem orderClear : Obligations.OrderClear := Machine.orderClear_rule

/-- Settles O6, by the tests of each request in their order. -/
theorem orderPutAndAppend : Obligations.OrderPutAndAppend :=
  ⟨Machine.orderPut_rule, Machine.orderAppend_rule, Machine.segmentRecords_rule⟩

/-- Settles O10, by the hall's phase and the force flag. -/
theorem hallDark : Obligations.HallDark := Machine.hallDark_rule

end Sys2Proof

/-! PROOFS. The phase machine of the Programme unit: HALL_OPEN, SEG_START, SEG_END, the gaps, and the plan steps that fire
at once (R8–R18, R23–R25). -/

namespace Sys2Proof.Machine

/-! ## Plan steps that fire at once (R23, R24) -/

/-- Several orders handed to the Call unit, in their order. -/
def orderCalls (l : List ProgrammeOrder) (s : State) : State := { s with mail := { s.mail with toCall := s.mail.toCall ++ l } }

theorem orderCall_eq (o : ProgrammeOrder) (s : State) : orderCall o s = orderCalls [o] s := rfl

theorem orderCalls_nil (s : State) : orderCalls [] s = s := by simp [orderCalls]

theorem orderCalls_append (l m : List ProgrammeOrder) (s : State) : orderCalls m (orderCalls l s) = orderCalls (l ++ m) s := by
  simp [orderCalls]

theorem orderCalls_setHall (l : List ProgrammeOrder) (h : Hall) (r : HallRecord) (s : State) :
    orderCalls l (setHall h r s) = setHall h r (orderCalls l s) := rfl

@[simp] theorem hallOf_setHall (h : Hall) (r : HallRecord) (s : State) : hallOf (setHall h r s) h = r := PerHall.get_set_self _ _ _

theorem setHall_hallOf (h : Hall) (s : State) : setHall h (hallOf s h) s = s := by
  cases h <;> rfl

theorem setHall_setHall (h : Hall) (q r : HallRecord) (s : State) : setHall h r (setHall h q s) = setHall h r s := by
  cases h <;> rfl

/-- The order that the entry of a plan step gives, where the plan holds the step. -/
def stepOrder (h : Hall) (due : Clock) (plans : Table (List PlanStep) 8) (e : PendingStep) : Option ProgrammeOrder :=
  ((plans.get e.plan)[e.step]?).map fun st => .submit (planSubmission h due e st)

theorem fireStep_front {h : Hall} {s : State} {e : PendingStep} {rest : List PendingStep} {due : Clock}
    (steps : (hallOf s h).steps = e :: rest) (span : (hallOf s h).due = some due) :
    fireStep h s = setHall h { hallOf s h with steps := rest } (orderCalls (stepOrder h due s.programme.plans e).toList s) := by
  unfold fireStep stepOrder
  dsimp only
  rw [steps, span]
  dsimp only
  split
  · next st hst => rw [hst]; rfl
  · next hst => rw [hst, Option.map_none, Option.toList_none, orderCalls_nil]

theorem stepDue_front {h : Hall} {s : State} {e : PendingStep} {rest : List PendingStep}
    (steps : (hallOf s h).steps = e :: rest) : stepDue h s = reached s.clock e.fire := by
  unfold stepDue
  rw [steps]

theorem fireAtOnce_none {h : Hall} {s : State} (steps : (hallOf s h).steps = []) (n : Nat) : fireAtOnce h n s = s := by
  cases n with
  | zero => rfl
  | succ n => simp [fireAtOnce, stepDue, steps]

/-- Nothing fires while the front entry is not due. -/
theorem fireAtOnce_early {h : Hall} {s : State} {n : Nat}
    (early : 0 < n → ∀ e, (hallOf s h).steps.head? = some e → reached s.clock e.fire = false) : fireAtOnce h n s = s := by
  cases n with
  | zero => rfl
  | succ n =>
    cases steps : (hallOf s h).steps with
    | nil => exact fireAtOnce_none steps _
    | cons e rest =>
      unfold fireAtOnce
      rw [stepDue_front steps, early (Nat.succ_pos n) e (by rw [steps]; rfl)]
      rfl

/-- The due entries at the front of the pending step list fire in list order. -/
theorem fireAtOnce_fires {h : Hall} {due : Clock} {fired rest : List PendingStep} {n : Nat} {s : State}
    (span : (hallOf s h).due = some due) (steps : (hallOf s h).steps = fired ++ rest) (few : fired.length ≤ n)
    (reach : ∀ e ∈ fired, reached s.clock e.fire = true)
    (early : fired.length < n → ∀ e, rest.head? = some e → reached s.clock e.fire = false) :
    fireAtOnce h n s = setHall h { hallOf s h with steps := rest }
      (orderCalls (fired.filterMap (stepOrder h due s.programme.plans)) s) := by
  induction fired generalizing n s with
  | nil =>
    rw [List.nil_append] at steps
    rw [fireAtOnce_early (by rw [steps]; exact early), List.filterMap_nil, orderCalls_nil, ← steps]
    exact (setHall_hallOf h s).symm
  | cons e fired ih =>
    obtain ⟨n, rfl⟩ : ∃ m, n = m + 1 := ⟨n - 1, by simp only [List.length_cons] at few; omega⟩
    have front : (hallOf s h).steps = e :: (fired ++ rest) := steps
    have later := ih (n := n) (s := setHall h { hallOf s h with steps := fired ++ rest }
      (orderCalls (stepOrder h due s.programme.plans e).toList s)) (by rw [hallOf_setHall]; exact span) (by rw [hallOf_setHall])
      (Nat.le_of_succ_le_succ few) (fun x hx => reach x (List.mem_cons_of_mem _ hx)) (fun k => early (Nat.succ_lt_succ k))
    unfold fireAtOnce
    rw [stepDue_front front, reach e List.mem_cons_self, if_pos rfl, fireStep_front front span, later, hallOf_setHall,
      orderCalls_setHall, setHall_setHall, orderCalls_append]
    congr 2
    cases k : stepOrder h due s.programme.plans e with
    | none => rw [List.filterMap_cons_none k]; rfl
    | some o => rw [List.filterMap_cons_some k]; rfl

theorem fireAtOnce_rule : Rules.FireAtOnce := by
  intro h s
  exact ⟨fun steps => fireAtOnce_none steps 6, fun due fired rest span steps few reach early =>
    fireAtOnce_fires span steps few reach early⟩

theorem ordersToTheCallUnit_rule : Rules.OrdersToTheCallUnit := fun _ => ⟨fun _ => rfl, fun _ => rfl⟩

/-! ## The check of a running order (R8) -/

theorem mem_zip_range {α : Type} {l : List α} {e : Nat × α} : e ∈ (List.range l.length).zip l ↔ l[e.1]? = some e.2 := by
  rw [List.mem_iff_getElem?]
  constructor
  · rintro ⟨i, h⟩
    obtain ⟨hr, hl⟩ := List.getElem?_zip_eq_some.mp h
    obtain ⟨hi, he⟩ := List.getElem?_eq_some_iff.mp hr
    rw [List.getElem_range] at he
    rw [← he]; exact hl
  · intro h
    obtain ⟨hi, -⟩ := List.getElem?_eq_some_iff.mp h
    refine ⟨e.1, List.getElem?_zip_eq_some.mpr ⟨?_, h⟩⟩
    rw [List.getElem?_range hi]

theorem zip_range_pairwise {α : Type} (l : List α) :
    ((List.range l.length).zip l).Pairwise fun x y => x.1 < y.1 := by
  rw [← List.pairwise_map (f := Prod.fst) (R := (· < ·)), List.map_fst_zip (by simp)]
  exact List.pairwise_lt_range

/-- The segment before an index is an INTERVAL. -/
def afterInterval (order : List Segment) (i : Nat) : Bool :=
  i != 0 && (match order[i - 1]? with | some p => decide (p.kind = .interval) | none => false)

theorem afterInterval_iff {order : List Segment} {i : Nat} :
    afterInterval order i = true ↔ i ≠ 0 ∧ ∃ q, order[i - 1]? = some q ∧ q.kind = .interval := by
  unfold afterInterval
  rw [Bool.and_eq_true, bne_iff_ne]
  cases order[i - 1]? <;> simp

theorem segmentFault_eq (plans : Table (List PlanStep) 8) (order : List Segment) (i : Nat) (g : Segment) :
    segmentFault plans order i g =
      if i = 0 && decide (g.kind = .interval) then some 3
      else if i + 1 = order.length && decide (g.kind = .interval) then some 4
      else if decide (g.kind = .interval) && afterInterval order i then some 5
      else if decide (g.kind = .interval) && g.length.isNone then some 6
      else match g.plan with
        | some p => if plans.get p = [] then some 7 else none
        | none => none := rfl

/-- The table of R8, test 3, in its order. -/
theorem segmentFault_codes (plans : Table (List PlanStep) 8) (order : List Segment) (i : Nat) (g : Segment) :
    let interval := g.kind = .interval
    let first := interval ∧ i = 0
    let last := interval ∧ i + 1 = order.length
    let adjacent := interval ∧ i ≠ 0 ∧ ∃ q, order[i - 1]? = some q ∧ q.kind = .interval
    let noLength := interval ∧ g.length = none
    let emptyPlan := ∃ plan, g.plan = some plan ∧ plans.get plan = []
    let fault := segmentFault plans order i g
    (first → fault = some 3) ∧
    (¬first → last → fault = some 4) ∧
    (¬first → ¬last → adjacent → fault = some 5) ∧
    (¬first → ¬last → ¬adjacent → noLength → fault = some 6) ∧
    (¬first → ¬last → ¬adjacent → ¬noLength → emptyPlan → fault = some 7) ∧
    (¬first → ¬last → ¬adjacent → ¬noLength → ¬emptyPlan → fault = none) := by
  intro interval first last adjacent noLength emptyPlan fault
  have isFirst : (i = 0 && decide (g.kind = .interval)) = true ↔ first := by simp [first, interval, and_comm]
  have isLast : (i + 1 = order.length && decide (g.kind = .interval)) = true ↔ last := by simp [last, interval, and_comm]
  have isAdjacent : (decide (g.kind = .interval) && afterInterval order i) = true ↔ adjacent := by
    rw [Bool.and_eq_true, afterInterval_iff, decide_eq_true_eq]
  have hasNone : (decide (g.kind = .interval) && g.length.isNone) = true ↔ noLength := by
    rw [Bool.and_eq_true, Option.isNone_iff_eq_none, decide_eq_true_eq]
  rw [← isFirst, ← isLast, ← isAdjacent, ← hasNone]
  refine ⟨fun f => ?_, fun f l => ?_, fun f l a => ?_, fun f l a n => ?_, fun f l a n empty => ?_, fun f l a n sound => ?_⟩
  all_goals show segmentFault plans order i g = _; rw [segmentFault_eq]
  · rw [if_pos f]
  · rw [if_neg f, if_pos l]
  · rw [if_neg f, if_neg l, if_pos a]
  · rw [if_neg f, if_neg l, if_neg a, if_pos n]
  · rw [if_neg f, if_neg l, if_neg a, if_neg n]
    obtain ⟨plan, named, empty⟩ := empty
    rw [named]; exact if_pos empty
  · rw [if_neg f, if_neg l, if_neg a, if_neg n]
    split
    · next plan named => exact if_neg fun empty => sound ⟨plan, named, empty⟩
    · rfl

theorem segmentFault_eq_none_iff {plans : Table (List PlanStep) 8} {order : List Segment} {i : Nat} {g : Segment} :
    segmentFault plans order i g = none ↔
      (g.kind = .interval → i ≠ 0 ∧ i + 1 ≠ order.length ∧ g.length.isSome = true ∧
        ∀ q, order[i - 1]? = some q → q.kind ≠ .interval) ∧
      ∀ plan, g.plan = some plan → plans.get plan ≠ [] := by
  obtain ⟨c3, c4, c5, c6, c7, c0⟩ := segmentFault_codes plans order i g
  constructor
  · intro sound
    rw [sound] at c3 c4 c5 c6 c7
    have f : ¬(g.kind = .interval ∧ i = 0) := fun k => nomatch c3 k
    have l : ¬(g.kind = .interval ∧ i + 1 = order.length) := fun k => nomatch c4 f k
    have a : ¬(g.kind = .interval ∧ i ≠ 0 ∧ ∃ q, order[i - 1]? = some q ∧ q.kind = .interval) := fun k => nomatch c5 f l k
    have n : ¬(g.kind = .interval ∧ g.length = none) := fun k => nomatch c6 f l a k
    exact ⟨fun k => ⟨fun z => f ⟨k, z⟩, fun z => l ⟨k, z⟩, Option.isSome_iff_ne_none.mpr fun z => n ⟨k, z⟩,
      fun q hq kq => a ⟨k, fun z => f ⟨k, z⟩, q, hq, kq⟩⟩, fun plan named empty => nomatch c7 f l a n ⟨plan, named, empty⟩⟩
  · rintro ⟨sound, full⟩
    exact c0 (fun k => (sound k.1).1 k.2) (fun k => (sound k.1).2.1 k.2)
      (fun ⟨k, _, q, hq, kq⟩ => (sound k).2.2.2 q hq kq) (fun k => Option.isSome_iff_ne_none.mp (sound k.1).2.2.1 k.2)
      (fun ⟨plan, named, empty⟩ => full plan named empty)

theorem orderFault_nil (plans : Table (List PlanStep) 8) : orderFault plans [] = some (2, 0) := rfl

theorem orderFault_eq_none_iff {plans : Table (List PlanStep) 8} {order : List Segment} : orderFault plans order = none ↔
    order ≠ [] ∧ ∀ i g, order[i]? = some g → segmentFault plans order i g = none := by
  unfold orderFault
  split
  · next h => simp [h]
  · next h =>
    simp only [List.findSome?_eq_none_iff, mem_zip_range, Option.map_eq_none_iff, Prod.forall, ne_eq, h, not_false_eq_true, true_and]

theorem orderFault_first {plans : Table (List PlanStep) 8} {order : List Segment} {fault i : Nat}
    (h : orderFault plans order = some (fault, i)) (held : order ≠ []) :
    ∃ g, order[i]? = some g ∧ segmentFault plans order i g = some fault ∧
      ∀ j q, j < i → order[j]? = some q → segmentFault plans order j q = none := by
  unfold orderFault at h
  rw [if_neg held] at h
  obtain ⟨before, e, after, cut, found, clear⟩ := List.findSome?_eq_some_iff.mp h
  obtain ⟨f, hf, same⟩ := Option.map_eq_some_iff.mp found
  cases same
  have here : order[e.1]? = some e.2 := mem_zip_range.mp (cut ▸ List.mem_append_right _ List.mem_cons_self)
  refine ⟨e.2, here, hf, fun j q lt hq => ?_⟩
  have mem : (j, q) ∈ before ++ e :: after := cut ▸ mem_zip_range.mpr hq
  rcases List.mem_append.mp mem with inside | past
  · exact Option.map_eq_none_iff.mp (clear _ inside)
  · have rising := zip_range_pairwise order
    rw [cut] at rising
    rcases List.mem_cons.mp past with rfl | past
    · exact absurd lt (Nat.lt_irrefl _)
    · exact absurd ((List.pairwise_cons.mp (List.pairwise_append.mp rising).2.1).1 _ past) (Nat.lt_asymm lt)

theorem runningOrderCheck_rule : Rules.RunningOrderCheck := by
  intro plans order
  refine ⟨?_, rfl, fun fault i h held => orderFault_first h held, fun i g => segmentFault_codes plans order i g⟩
  simp only [orderFault_eq_none_iff, segmentFault_eq_none_iff]

/-! ## HALL_OPEN (R8, R9) -/

/-- The pending steps of an optional plan against a due time. -/
theorem schedule_eq (r : HallRecord) (plans : Table (List PlanStep) 8) (now due : Clock) (plan : Option (Fin 8)) :
    r.schedule plans now due plan = { r with steps := match plan with
      | some q => sortSteps now (planEntries now due q (plans.get q))
      | none => r.steps } := by
  cases plan <;> rfl

theorem wordAt_one (b d1 d0 : Byte) : wordAt [b, d1, d0] 1 = d1.toNat * 256 + d0.toNat := rfl

/-- An accepted opening, once the answer is taken out of the way. -/
theorem hallOpen_accepted {s : State} {p : Port} {h : Hall} {ps : List Byte} (asks : Asks s p 0x13 ps)
    (hall : nameAt hallNames ps 0 = some h) (sound : openFault h s = none) :
    exec (.hallOpen p) s = .next (fireAtOnce h 6 (changePhase h
      (openedHall (hallOf s h) s.programme.plans s.clock (dueIn ps).1) none .hallOpen (replied p (done (dueIn ps).2) [] s))) := by
  refine asks.accepted (fun t => fireAtOnce h 6 (changePhase h
    (openedHall (hallOf s h) s.programme.plans s.clock (dueIn ps).1) none .hallOpen t)) ?_ fun t => ?_
  · simp [Machine.hallOpen, hall, sound]
  · rw [answer_fireAtOnce, answer_changePhase]

theorem hallOpen_refused {s : State} {p : Port} {h : Hall} {ps fault : List Byte} (asks : Asks s p 0x13 ps)
    (hall : nameAt hallNames ps 0 = some h) (found : openFault h s = some fault) :
    exec (.hallOpen p) s = .next (replied p .state fault s) :=
  asks.refusedWith (by simp [Machine.hallOpen, hall, found])

theorem hallOpen_rule : Rules.HallOpen := by
  intro s p d1 d0
  refine ⟨fun b asks bad => asks.refused (by simp [Machine.hallOpen, nameAt_hallByte_none bad]), fun h asks => ?_⟩
  have refused := fun fault => hallOpen_refused (fault := fault) asks (nameAt_hallByte h _)
  refine ⟨fun lit => refused _ (by simp [openFault, lit]), fun dark shut => refused _ (by simp [openFault, dark, shut]),
    fun dark shut => ⟨fun fault i found => refused _ (by simp [openFault, dark, shut, found]), fun sound => ?_⟩⟩
  have accepted := hallOpen_accepted asks (nameAt_hallByte h _) (by simp [openFault, dark, shut, sound])
  refine ⟨fun absent => ?_, fun present => ?_⟩
  · have due : dueIn [hallByte h, d1, d0] = (none, false) := if_pos absent
    rw [due] at accepted
    exact accepted
  · have due : dueIn [hallByte h, d1, d0] = (some (max 60 (min 5400 (d1.toNat * 256 + d0.toNat))),
        decide (d1.toNat * 256 + d0.toNat < 60 ∨ 5400 < d1.toNat * 256 + d0.toNat)) := by
      unfold dueIn
      rw [wordAt_one, if_neg present]
      exact Prod.ext (congrArg some (clampNat_fst (by decide))) (Bool.eq_iff_iff.mpr (clampNat_snd.trans decide_eq_true_iff.symm))
    rw [due] at accepted
    rw [accepted]
    dsimp only [openedHall]
    rw [schedule_eq]
    rfl

/-! ## SEG_START and SEG_END (R10–R12) -/

theorem expectedMatches_iff {b e : Byte} {r : HallRecord} : expectedMatches [b, e] r = true ↔ e = 0xFF ∨ e.toNat = r.position := by
  unfold expectedMatches
  rw [Bool.or_eq_true, beq_iff_eq, beq_iff_eq]
  rfl

section
variable {s : State} {p : Port} {h : Hall} {e : Byte}

theorem segStart_refused (asks : Asks s p 0x14 [hallByte h, e])
    (bad : expectedMatches [hallByte h, e] (hallOf s h) = false ∨ (hallOf s h).phase = .playing ∨ (hallOf s h).phase = .gap ∨
      (hallOf s h).phase = .dark ∨ (hallOf s h).phase = .ended) :
    exec (.segStart p) s = .next (replied p .state [] s) := by
  refine asks.refused ?_
  rcases bad with k | k | k | k | k
  all_goals simp [Machine.segStart, k]

/-- From OPEN and BREAK the segment at the position starts. -/
theorem segStart_segment {g : Segment} (asks : Asks s p 0x14 [hallByte h, e])
    (expected : expectedMatches [hallByte h, e] (hallOf s h) = true) (phase : (hallOf s h).phase = .opened ∨ (hallOf s h).phase = .onBreak)
    (segment : (hallOf s h).order[(hallOf s h).position]? = some g) {f : State → State}
    (starts : ∀ t, t.clock = s.clock → t.programme.plans = s.programme.plans → startSegment h (hallOf s h) g t = f t)
    (apart : ∀ t, answer p .ok [] (f t) = f (answer p .ok [] t)) :
    exec (.segStart p) s = .next (f (replied p .ok [] s)) := by
  refine asks.accepted (a := false) f ?_ apart
  have start := starts (withoutRequest p s) rfl rfl
  have current : (hallOf s h).segment = some g := segment
  rcases phase with k | k
  all_goals simp [Machine.segStart, expected, k, current, start]

theorem segEnd_refused (asks : Asks s p 0x15 [hallByte h, e])
    (bad : expectedMatches [hallByte h, e] (hallOf s h) = false ∨ (hallOf s h).phase = .opened ∨ (hallOf s h).phase = .onBreak ∨
      (hallOf s h).phase = .dark ∨ (hallOf s h).phase = .ended) :
    exec (.segEnd p) s = .next (replied p .state [] s) := by
  refine asks.refused ?_
  rcases bad with k | k | k | k | k
  all_goals simp [Machine.segEnd, k]

end

/-- An expected position that is present and is not the hall's. -/
theorem expectedMatches_false {b e : Byte} {r : HallRecord} (present : e ≠ 0xFF) (other : e.toNat ≠ r.position) :
    expectedMatches [b, e] r = false :=
  Bool.eq_false_iff.mpr fun k => (expectedMatches_iff.mp k).elim present other

theorem segStart_rule : Rules.SegStart := by
  intro s p e
  refine ⟨fun b asks bad => asks.refused (by simp [Machine.segStart, nameAt_hallByte_none bad]), fun h asks => ?_⟩
  refine ⟨fun present other => segStart_refused asks (.inl (expectedMatches_false present other)),
    fun phase => segStart_refused asks (.inr phase), fun match_ => ?_⟩
  have expected : expectedMatches [hallByte h, e] (hallOf s h) = true := expectedMatches_iff.mpr match_
  refine ⟨fun interval => ?_, fun g segment => ⟨fun kind => ⟨fun brk => ?_, fun opened => ?_⟩, fun seconds kind length brk => ?_⟩⟩
  · exact asks.accepted (a := false) (fun t => changePhase h _ none .segStart (cancelPlanCalls h t))
      (by simp [Machine.segStart, expected, interval, HallRecord.endSpan]) fun _ => rfl
  · exact segStart_segment asks expected (.inr brk) segment (f := fun t => changePhase h _ none .segStart t)
      (fun t _ _ => by simp [startSegment, brk, kind]) fun _ => rfl
  · exact segStart_segment asks expected (.inl opened) segment (f := fun t => changePhase h _ none .segStart (cancelPlanCalls h t))
      (fun t _ _ => by simp [startSegment, opened, kind, HallRecord.endSpan]) fun _ => rfl
  · refine segStart_segment asks expected (.inr brk) segment (f := fun t => fireAtOnce h 6 (changePhase h _ none .segStart t))
      (fun t clock plans => ?_) fun t => by rw [answer_fireAtOnce, answer_changePhase]
    simp only [startSegment, brk, kind, length, schedule_eq, clock, plans]
    rfl

theorem segEnd_rule : Rules.SegEnd := by
  intro s p e
  refine ⟨fun b asks bad => asks.refused (by simp [Machine.segEnd, nameAt_hallByte_none bad]), fun h asks => ?_⟩
  refine ⟨fun present other => segEnd_refused asks (.inl (expectedMatches_false present other)),
    fun phase => segEnd_refused asks (.inr phase), fun match_ => ?_⟩
  have expected : expectedMatches [hallByte h, e] (hallOf s h) = true := expectedMatches_iff.mpr match_
  refine ⟨fun phase => ?_, fun interval => ?_⟩
  · refine asks.accepted (a := false) (fun t => changePhase h _ _ .segEnd t) ?_ fun _ => rfl
    rcases phase with k | k
    all_goals simp only [Machine.segEnd, nameAt_hallByte, hallOf_withoutRequest, expected, k]; rfl
  · refine asks.accepted (a := false) (fun t => changePhase h _ _ .segEnd (cancelPlanCalls h t)) ?_ fun _ => rfl
    simp only [Machine.segEnd, nameAt_hallByte, hallOf_withoutRequest, expected, interval]
    rfl

/-! ## Gaps (R14–R18) -/

theorem admitsAtGaps_iff {r : HallRecord} : admitsAtGaps r = true ↔ ∃ g, r.order[r.position]? = some g ∧ g.admission = .atGaps := by
  unfold admitsAtGaps HallRecord.segment
  cases r.order[r.position]? <;> simp

theorem gapMarkAndEnd_rule : Rules.GapMarkAndEnd := by
  intro s p
  refine ⟨fun b bad => ⟨fun asks => ?_, fun asks => ?_⟩, fun h => ⟨fun asks => ⟨fun may => ?_, fun mayNot => ?_⟩,
    fun asks => ⟨fun gap => ?_, fun other => ?_⟩⟩⟩
  · exact asks.refused (by simp [Machine.gapMark, nameAt_hallByte_none bad])
  · exact asks.refused (by simp [Machine.gapEnd, nameAt_hallByte_none bad])
  · exact asks.accepted (a := false) (changePhase h _ none .gapMark)
      (by simp [Machine.gapMark, may.1, admitsAtGaps_iff.mpr may.2]) (answer_changePhase h _ _ _ p _ _)
  · refine asks.refused ?_
    rw [← admitsAtGaps_iff] at mayNot
    simp only [Machine.gapMark, nameAt_hallByte]
    exact if_neg (by rw [Bool.and_eq_true, decide_eq_true_eq]; exact mayNot)
  · exact asks.accepted (a := false) (changePhase h _ none .gapEnd) (by simp [Machine.gapEnd, gap]) (answer_changePhase h _ _ _ p _ _)
  · exact asks.refused (by simp [Machine.gapEnd, other])

theorem hallLevelEvents_rule : Rules.HallLevelEvents := by
  intro s h rest
  refine ⟨fun quiet => ⟨fun taken => ?_, fun untaken => ?_⟩, fun sound => ⟨fun gap locked => ?_, fun other => ?_⟩⟩
  · show execHallQuietEvent h s = _
    simp only [execHallQuietEvent, quiet, taken.1, admitsAtGaps_iff.mpr taken.2.1, taken.2.2]
    rfl
  · rw [← admitsAtGaps_iff] at untaken
    show execHallQuietEvent h s = _
    simp only [execHallQuietEvent, quiet]
    exact if_neg (by simpa using untaken)
  · show execHallSoundEvent h s = _
    simp only [execHallSoundEvent, sound, gap, locked]
    rfl
  · show execHallSoundEvent h s = _
    simp only [execHallSoundEvent, sound]
    exact if_neg (by rw [Bool.and_eq_true, decide_eq_true_eq]; rintro ⟨gap, locked⟩; simp [gap, locked] at other)

end Sys2Proof.Machine

namespace Sys2Proof

/-- Settles O7: the tests in their order, the table of R8 for an order, and an induction on the entries that fire. -/
theorem hallOpenAndItsCheck : Obligations.HallOpenAndItsCheck :=
  ⟨Machine.hallOpen_rule, Machine.runningOrderCheck_rule, Machine.fireAtOnce_rule⟩

/-- Settles O8, by the hall's phase. -/
theorem segStartAndEnd : Obligations.SegStartAndEnd :=
  ⟨Machine.segStart_rule, Machine.segEnd_rule, Machine.fireAtOnce_rule, Machine.ordersToTheCallUnit_rule⟩

/-- Settles O9, by the hall's phase, the segment's admission and the lock of lane 0. -/
theorem gapsAndHallLevels : Obligations.GapsAndHallLevels := ⟨Machine.gapMarkAndEnd_rule, Machine.hallLevelEvents_rule⟩

end Sys2Proof

/-! PROOFS. Call plans: their schedule, their firing, and the requests that write plans and hall settings (R21–R27). -/

namespace Sys2Proof.Machine

/-! ## The schedule of a plan (R23) -/

theorem mem_planEntries {now due : Clock} {plan : Fin 8} {steps : List PlanStep} {e : PendingStep} :
    e ∈ planEntries now due plan steps ↔ ∃ i st, steps[i]? = some st ∧
      e = ⟨plan, i, due - BitVec.ofNat 32 (10 * st.offset)⟩ ∧ (reached now e.fire = false ∨ e.fire = now) := by
  unfold planEntries
  simp only [List.mem_filter, List.mem_map, mem_zip_range, Prod.exists, Bool.or_eq_true, Bool.not_eq_true', decide_eq_true_eq]
  constructor
  · rintro ⟨⟨i, st, at_, rfl⟩, keep⟩
    exact ⟨i, st, at_, rfl, keep⟩
  · rintro ⟨i, st, at_, rfl, keep⟩
    exact ⟨⟨i, st, at_, rfl⟩, keep⟩

theorem planEntries_rising (now due : Clock) (plan : Fin 8) (steps : List PlanStep) :
    (planEntries now due plan steps).Pairwise fun x y => x.step < y.step := by
  unfold planEntries
  refine .filter _ ?_
  rw [List.pairwise_map]
  exact zip_range_pairwise steps

/-- R23: one entry goes before another: it fires earlier, or at the same time with a lower step index. -/
def FiresBefore (now : Clock) (x y : PendingStep) : Prop :=
  (x.fire - now).toNat < (y.fire - now).toNat ∨ (x.fire = y.fire ∧ x.step < y.step)

theorem mem_insertStep {now : Clock} {e x : PendingStep} {l : List PendingStep} : x ∈ insertStep now e l ↔ x = e ∨ x ∈ l := by
  induction l with
  | nil => simp [insertStep]
  | cons y l ih =>
    unfold insertStep
    split
    · simp
    · simp only [List.mem_cons, ih]
      tauto

/-- An entry that does not fire later than one of a higher step index goes before it. -/
theorem firesBefore_of_le {now : Clock} {x y : PendingStep} (fire : (x.fire - now).toNat ≤ (y.fire - now).toNat)
    (step : x.step < y.step) : FiresBefore now x y := by
  rcases Nat.lt_or_eq_of_le fire with lt | eq
  · exact .inl lt
  · refine .inr ⟨?_, step⟩
    have := BitVec.eq_of_toNat_eq eq
    bv_omega

theorem FiresBefore.le {now : Clock} {x y : PendingStep} (h : FiresBefore now x y) :
    (x.fire - now).toNat ≤ (y.fire - now).toNat := by
  rcases h with lt | ⟨eq, -⟩
  · exact Nat.le_of_lt lt
  · rw [eq]

theorem insertStep_sorted {now : Clock} {e : PendingStep} {l : List PendingStep} (sorted : l.Pairwise (FiresBefore now))
    (below : ∀ x ∈ l, x.step < e.step) : (insertStep now e l).Pairwise (FiresBefore now) := by
  induction l with
  | nil => exact List.pairwise_singleton _ _
  | cons y l ih =>
    obtain ⟨head, tail⟩ := List.pairwise_cons.mp sorted
    unfold insertStep
    split
    · next lt =>
      refine List.pairwise_cons.mpr ⟨fun x hx => .inl ?_, sorted⟩
      rcases List.mem_cons.mp hx with rfl | hx
      · exact lt
      · exact Nat.lt_of_lt_of_le lt (head x hx).le
    · next ge =>
      refine List.pairwise_cons.mpr ⟨fun x hx => ?_, ih tail fun x hx => below x (List.mem_cons_of_mem _ hx)⟩
      rcases mem_insertStep.mp hx with rfl | hx
      · exact firesBefore_of_le (Nat.le_of_not_lt ge) (below y List.mem_cons_self)
      · exact head x hx

/-- Entries of rising step index, put one after another into a sorted list of lower indexes. -/
theorem insertSteps_sorted {now : Clock} {l acc : List PendingStep} (sorted : acc.Pairwise (FiresBefore now))
    (rising : l.Pairwise fun x y => x.step < y.step) (below : ∀ x ∈ acc, ∀ y ∈ l, x.step < y.step) :
    (l.foldl (fun acc e => insertStep now e acc) acc).Pairwise (FiresBefore now) := by
  induction l generalizing acc with
  | nil => exact sorted
  | cons e l ih =>
    obtain ⟨head, tail⟩ := List.pairwise_cons.mp rising
    refine ih (insertStep_sorted sorted fun x hx => below x hx e List.mem_cons_self) tail fun x hx y hy => ?_
    rcases mem_insertStep.mp hx with rfl | hx
    · exact head y hy
    · exact below x hx y (List.mem_cons_of_mem _ hy)

theorem mem_insertSteps {now : Clock} {l acc : List PendingStep} {x : PendingStep} :
    x ∈ l.foldl (fun acc e => insertStep now e acc) acc ↔ x ∈ l ∨ x ∈ acc := by
  induction l generalizing acc with
  | nil => simp
  | cons e l ih =>
    rw [List.foldl_cons, ih, mem_insertStep, List.mem_cons]
    tauto

theorem planSchedule_rule : Rules.PlanSchedule := by
  intro now due plan steps
  refine ⟨fun e => ?_, insertSteps_sorted .nil (planEntries_rising _ _ _ _) fun x hx => nomatch hx⟩
  rw [sortSteps, mem_insertSteps, mem_planEntries]
  simp

/-! ## Firing, and the end of an interval (R24, R26) -/

theorem planStepAndIntervalDue_rule : Rules.PlanStepAndIntervalDue := by
  intro s h due
  refine ⟨fun e rest st steps span reach step => ?_, fun interval span reach => ⟨fun fresh => ?_, fun offered => ?_⟩⟩
  · show execPlanStepFire h s = _
    unfold execPlanStepFire
    rw [stepDue_front steps, reach, if_pos rfl, fireStep_front steps span, stepOrder, step]
    rfl
  all_goals
    show execIntervalDue h s = _
    unfold execIntervalDue
    dsimp only
    rw [span]
  · exact if_pos (by simp [interval, reach, fresh])
  · exact if_neg (by simp [offered])

/-! ## Writing a plan and a hall's settings (R21, R27) -/

theorem toNat_byteOf {n : Nat} (h : n < 256) : (byteOf n).toNat = n := Nat.mod_eq_of_lt h

@[simp] theorem natAt_cons_one (b c : Byte) (ps : List Byte) : natAt (b :: c :: ps) 1 = c.toNat := rfl

theorem planIndex (plan : Fin 8) (ps : List Byte) : (finUpTo 8)[natAt (byteOf plan.val :: ps) 0]? = some plan :=
  finUpTo_eq_some_iff.mpr (toNat_byteOf (by have := plan.isLt; omega))

theorem writeStep_length {steps : List PlanStep} {i : Nat} (st : PlanStep) (h : i ≤ steps.length) :
    (writeStep steps i st).length = max steps.length (i + 1) := by
  simp only [writeStep, List.length_append, List.length_take, List.length_cons, List.length_drop]
  omega

theorem writeStep_getElem? {steps : List PlanStep} {i : Nat} (st : PlanStep) (h : i ≤ steps.length) (j : Nat) :
    (writeStep steps i st)[j]? = if j = i then some st else steps[j]? := by
  unfold writeStep
  rw [List.getElem?_append, List.length_take, Nat.min_eq_left h]
  split
  · next before => rw [List.getElem?_take_of_lt before, if_neg (by omega)]
  · next past =>
    rcases Nat.eq_or_lt_of_le (Nat.le_of_not_lt past) with rfl | lt
    · rw [Nat.sub_self, if_pos rfl]; rfl
    · obtain ⟨k, rfl⟩ : ∃ k, j = i + 1 + k := ⟨j - (i + 1), by omega⟩
      rw [if_neg (by omega), show i + 1 + k - i = k + 1 by omega, List.getElem?_cons_succ, List.getElem?_drop]

theorem nameAt_flag_of_le {ps : List Byte} {i : Nat} (h : natAt ps i ≤ 1) :
    nameAt flagNames ps i = some (decide (natAt ps i = 1)) := by
  unfold nameAt
  rcases Nat.le_one_iff_eq_zero_or_eq_one.mp h with e | e <;> rw [e] <;> rfl

/-- A PLAN_PUT that names a plan and has a flag: its tests in their order. -/
theorem planPut_eq {ps : List Byte} {plan : Fin 8} {present : Bool} (hp : (finUpTo 8)[natAt ps 0]? = some plan)
    (hf : nameAt flagNames ps 2 = some present) (s : State) : Machine.planPut ps s =
      if ps.length ≠ (if present then 18 else 3) then refuse .range s
      else if saving s then refuse .busy s
      else if planInUse plan s then refuse .state s
      else if 5 < natAt ps 1 ∨ (s.programme.plans.get plan).length < natAt ps 1 then refuse .range s
      else if present then
        match readPlanStep (ps.drop 3) with
        | some st => accept st.2 [] (setPlan plan (writeStep (s.programme.plans.get plan) (natAt ps 1) st.1) s)
        | none => refuse .range s
      else accept false [] (setPlan plan ((s.programme.plans.get plan).take (natAt ps 1)) s) := by
  unfold Machine.planPut
  dsimp only
  split
  · next hp' hf' =>
    cases hp.symm.trans hp'
    cases hf.symm.trans hf'
    rfl
  · next unnamed => exact absurd hf (unnamed plan present hp)

theorem planPutAndHallSet_rule : Rules.PlanPutAndHallSet := by
  intro s p free
  refine ⟨fun h ps v adjusted asks read => ?_, fun plan i ps idle => ⟨fun asks few fits => ?_,
    fun st adjusted asks length few fits read => ?_⟩⟩
  · exact asks.accepted (setHall h _) (by simp [Machine.hallSet, free, read]) (answer_setHall h _ p _ _)
  · refine asks.accepted (a := false) (setPlan plan _) ?_ (answer_setPlan plan _ p _ _)
    rw [planPut_eq (planIndex plan _) (present := false) rfl]
    simp [free, idle, Nat.not_lt.mpr few, Nat.not_lt.mpr fits]
  · refine ⟨writeStep (s.programme.plans.get plan) i.toNat st, ?_, writeStep_length st fits, writeStep_getElem? st fits⟩
    refine asks.accepted (setPlan plan _) ?_ (answer_setPlan plan _ p _ _)
    rw [planPut_eq (planIndex plan _) (present := true) rfl]
    simp [free, idle, Nat.not_lt.mpr few, Nat.not_lt.mpr fits, length, read]

/-! ## Requests refused (R21, R27) -/

/-- What a PLAN_PUT of the wrong form is. -/
abbrev BadPlanForm (ps : List Byte) : Prop :=
  7 < natAt ps 0 ∨ 1 < natAt ps 2 ∨ (natAt ps 2 = 0 ∧ ps.length ≠ 3) ∨ (natAt ps 2 = 1 ∧ ps.length ≠ 18)

theorem planPut_badForm {ps : List Byte} (bad : BadPlanForm ps) (s : State) : Machine.planPut ps s = refuse .range s := by
  by_cases plan : 7 < natAt ps 0
  · have none : (finUpTo 8)[natAt ps 0]? = none := finUpTo_eq_none_iff.mpr plan
    simp only [Machine.planPut, none]
  by_cases flag : 1 < natAt ps 2
  · simp only [Machine.planPut, finUpTo_getElem? (Nat.lt_of_not_le plan), nameAt_flag_none flag]
  · rw [planPut_eq (finUpTo_getElem? (Nat.lt_of_not_le plan)) (nameAt_flag_of_le (Nat.le_of_not_lt flag)), if_pos]
    rcases bad with k | k | ⟨k, length⟩ | ⟨k, length⟩
    · exact absurd k plan
    · exact absurd k flag
    · simpa [k] using length
    · simpa [k] using length

theorem planPut_wellFormed {ps : List Byte} {plan : Fin 8} (index : natAt ps 0 = plan.val) (form : ¬BadPlanForm ps) (s : State) :
    Machine.planPut ps s =
      if saving s then refuse .busy s
      else if planInUse plan s then refuse .state s
      else if 5 < natAt ps 1 ∨ (s.programme.plans.get plan).length < natAt ps 1 then refuse .range s
      else if natAt ps 2 = 1 then
        match readPlanStep (ps.drop 3) with
        | some st => accept st.2 [] (setPlan plan (writeStep (s.programme.plans.get plan) (natAt ps 1) st.1) s)
        | none => refuse .range s
      else accept false [] (setPlan plan ((s.programme.plans.get plan).take (natAt ps 1)) s) := by
  obtain ⟨-, flag, clear, set⟩ : ¬ 7 < natAt ps 0 ∧ ¬ 1 < natAt ps 2 ∧ ¬(natAt ps 2 = 0 ∧ ps.length ≠ 3) ∧
      ¬(natAt ps 2 = 1 ∧ ps.length ≠ 18) := by simpa only [BadPlanForm, not_or] using form
  rw [planPut_eq (finUpTo_eq_some_iff.mpr index) (nameAt_flag_of_le (Nat.le_of_not_lt flag)), if_neg]
  · simp only [decide_eq_true_eq]
  · simp only [decide_eq_true_eq]
    split <;> omega

theorem planInUse_iff {plan : Fin 8} {s : State} : planInUse plan s = true ↔ ∃ h,
    ((hallOf s h).phase ≠ .dark ∧ ∃ g ∈ (hallOf s h).order, g.plan = some plan) ∨ ∃ e ∈ (hallOf s h).steps, e.plan = plan := by
  have both : ∀ h, h ∈ bothHalls := fun h => by cases h <;> decide
  unfold planInUse
  simp only [List.any_eq_true, both, true_and, Bool.or_eq_true, Bool.and_eq_true, bne_iff_ne, decide_eq_true_eq]

theorem readHallSettings_eq_some_iff {ps : List Byte} {x : HallSettings × Bool} : readHallSettings ps = some x ↔
    ∃ preshow, optNameAt (finUpTo 8) ps 5 = some preshow ∧
      x = (⟨(clampNat 10 300 (wordAt ps 0)).1, (clampNat 5 120 (natAt ps 2)).1, (clampNat 0 30 (natAt ps 3)).1,
          if byteAt ps 4 = 0xFF then none else some (natAt ps 4), preshow⟩,
        (clampNat 10 300 (wordAt ps 0)).2 || (clampNat 5 120 (natAt ps 2)).2 || (clampNat 0 30 (natAt ps 3)).2) := by
  unfold readHallSettings
  simp only [Option.bind_eq_bind, Option.bind_eq_some_iff, Option.some.injEq, eq_comm (b := x)]

theorem readHallSettings_eq_none_iff {ps : List Byte} :
    readHallSettings ps = none ↔ 7 < natAt ps 5 ∧ natAt ps 5 ≠ 255 := by
  have preshow : optNameAt (finUpTo 8) ps 5 = none ↔ 7 < natAt ps 5 ∧ natAt ps 5 ≠ 255 := by
    rw [optNameAt_eq_none_iff, finUpTo_length]; exact Iff.rfl
  rw [← preshow]
  unfold readHallSettings
  cases optNameAt (finUpTo 8) ps 5 <;> simp

/-! ## The record of a plan step (R21) -/

/-- The description zones of a set. -/
theorem descZones_iff {zones : ZoneSet} : zones &&& descZones ≠ 0 ↔ ∃ z d, zoneIn z zones = true ∧ zoneKind z = .desc d := by
  have desc : ∀ z : ZoneNo, zoneIn z descZones = true ↔ ∃ d, zoneKind z = .desc d := by decide
  have both : ∀ z, zoneIn z (zones &&& descZones) = (zoneIn z zones && zoneIn z descZones) := fun z => by simp [zoneIn]
  rw [ne_eq, zoneSet_eq_zero]
  simp only [both, not_forall, Bool.not_eq_false, Bool.and_eq_true, desc, exists_and_left]

theorem readPhrases_eq_some_iff {ps : List Byte} {list : List Nat} : readPhrases ps = some list ↔
    1 ≤ natAt ps 0 ∧ natAt ps 0 ≤ 6 ∧ list = ((ps.drop 1).take (natAt ps 0)).map BitVec.toNat := by
  unfold readPhrases
  dsimp only
  split
  · next few => simp [few, eq_comm]
  · next many => simp only [reduceCtorEq, false_iff]; exact fun h => many ⟨h.1, h.2.1⟩

/-- A record that is taken: its mode, its zones, and its phrases or its chime. -/
theorem readPlanStep_eq_some_iff {ps : List Byte} {x : PlanStep × Bool} : readPlanStep ps = some x ↔
    ∃ mode targets, nameAt callModeNames ps 14 = some mode ∧ zoneSetAt ps 10 = some targets ∧
      ¬(targets = 0 ∨ targets &&& descZones ≠ 0) ∧
      ((natAt ps 2 = 0 ∧ ∃ list, readPhrases (ps.drop 3) = some list ∧
        x = (⟨(clampNat 0 3600 (wordAt ps 0)).1, .phrases list, targets, (clampNat 0 6 (natAt ps 13)).1, mode⟩,
          (clampNat 0 3600 (wordAt ps 0)).2 || (clampNat 0 6 (natAt ps 13)).2)) ∨
      (natAt ps 2 = 1 ∧ ∃ pattern, (finUpTo 8)[natAt ps 3]? = some pattern ∧
        x = (⟨(clampNat 0 3600 (wordAt ps 0)).1, .chime pattern (clampNat 1 4 (natAt ps 4)).1, targets,
            (clampNat 0 6 (natAt ps 13)).1, mode⟩,
          (clampNat 0 3600 (wordAt ps 0)).2 || (clampNat 0 6 (natAt ps 13)).2 || (clampNat 1 4 (natAt ps 4)).2))) := by
  unfold readPlanStep
  simp only [Option.bind_eq_bind, Option.bind_eq_some_iff]
  constructor
  · rintro ⟨mode, hm, targets, ht, h⟩
    refine ⟨mode, targets, hm, ht, ?_⟩
    split at h
    · cases h
    · next allowed =>
      refine ⟨allowed, ?_⟩
      split at h
      · next kind =>
        obtain ⟨list, hl, e⟩ := Option.bind_eq_some_iff.mp h
        exact .inl ⟨kind, list, hl, (Option.some.inj e).symm⟩
      · next kind =>
        obtain ⟨pattern, hp, e⟩ := Option.bind_eq_some_iff.mp h
        exact .inr ⟨kind, pattern, hp, (Option.some.inj e).symm⟩
      · cases h
  · rintro ⟨mode, targets, hm, ht, allowed, content⟩
    refine ⟨mode, hm, targets, ht, ?_⟩
    rw [if_neg allowed]
    rcases content with ⟨kind, list, hl, rfl⟩ | ⟨kind, pattern, hp, rfl⟩
    · rw [kind]; exact Option.bind_eq_some_iff.mpr ⟨list, hl, rfl⟩
    · rw [kind]; exact Option.bind_eq_some_iff.mpr ⟨pattern, hp, rfl⟩

theorem readPlanStep_eq_none_iff {ps : List Byte} : readPlanStep ps = none ↔
    1 < natAt ps 2 ∨ (natAt ps 2 = 0 ∧ (natAt ps 3 = 0 ∨ 6 < natAt ps 3)) ∨ (natAt ps 2 = 1 ∧ 7 < natAt ps 3) ∨
      1 < natAt ps 14 ∨ ∀ zones, zoneSetAt ps 10 = some zones → zones = 0 ∨ ∃ z d, zoneIn z zones = true ∧ zoneKind z = .desc d := by
  have phrases : ∀ list, readPhrases (ps.drop 3) = some list ↔ 1 ≤ natAt ps 3 ∧ natAt ps 3 ≤ 6 ∧
      list = ((ps.drop 4).take (natAt ps 3)).map BitVec.toNat := fun list => by
    rw [readPhrases_eq_some_iff, natAt_drop, List.drop_drop]
  have mode : nameAt callModeNames ps 14 = none ↔ 1 < natAt ps 14 := nameAt_eq_none_iff
  simp only [← descZones_iff]
  rw [← mode]
  constructor
  · intro refused
    by_contra sound
    simp only [not_or, not_and, not_forall, exists_prop] at sound
    obtain ⟨kind, few, pattern, named, targets, ht, filled, loops⟩ := sound
    obtain ⟨m, hm⟩ := Option.ne_none_iff_exists'.mp named
    have allowed : ¬(targets = 0 ∨ targets &&& descZones ≠ 0) := not_or.mpr ⟨filled, loops⟩
    rcases Nat.le_one_iff_eq_zero_or_eq_one.mp (Nat.le_of_not_lt kind) with k | k
    · have list := (phrases _).mpr ⟨Nat.pos_of_ne_zero (few k).1, Nat.le_of_not_lt (few k).2, rfl⟩
      rw [readPlanStep_eq_some_iff.mpr ⟨m, targets, hm, ht, allowed, .inl ⟨k, _, list, rfl⟩⟩] at refused
      cases refused
    · have chime := finUpTo_getElem? (Nat.lt_of_not_le (pattern k))
      rw [readPlanStep_eq_some_iff.mpr ⟨m, targets, hm, ht, allowed, .inr ⟨k, _, chime, rfl⟩⟩] at refused
      cases refused
  · intro bad
    by_contra taken
    obtain ⟨x, hx⟩ := Option.ne_none_iff_exists'.mp taken
    obtain ⟨m, targets, hm, ht, allowed, content⟩ := readPlanStep_eq_some_iff.mp hx
    rcases bad with k | k | k | k | k
    · rcases content with ⟨c, -⟩ | ⟨c, -⟩ <;> omega
    · rcases content with ⟨c, list, hl, -⟩ | ⟨c, -⟩
      · have := (phrases list).mp hl; omega
      · omega
    · rcases content with ⟨c, -⟩ | ⟨c, pattern, hp, -⟩
      · omega
      · have := finUpTo_eq_some_iff.mp hp; omega
    · rw [hm] at k; cases k
    · exact allowed (k targets ht)

theorem planPutAndHallSetRefused_rule : Rules.PlanPutAndHallSetRefused := by
  intro s p ps
  refine ⟨fun asks => ⟨fun bad => ?_, fun good busy => ?_, fun good free unread => ?_⟩,
    fun asks => ⟨fun bad => asks.refused (planPut_badForm bad _), fun plan index form => ?_⟩, fun plan => planInUse_iff,
    readHallSettings_eq_none_iff, readPlanStep_eq_none_iff⟩
  · exact asks.refused (by simp only [Machine.hallSet, nameAt_hall_none bad])
  · obtain ⟨h, named⟩ := hall_of_natAt good
    exact asks.refused (by simp [Machine.hallSet, named, busy])
  · obtain ⟨h, named⟩ := hall_of_natAt good
    exact asks.refused (by simp only [Machine.hallSet, named, saving_withoutRequest, free, unread, Bool.false_eq_true, if_false])
  · have tests := planPut_wellFormed index form (withoutRequest p s)
    refine ⟨fun busy => asks.refused ?_, fun free used => asks.refused ?_, fun free idle bad => asks.refused ?_⟩
    · simp [tests, busy]
    · simp [tests, free, used]
    · rw [tests, saving_withoutRequest, free, planInUse_withoutRequest, idle]
      simp only [Bool.false_eq_true, if_false]
      split
      · rfl
      · next fits =>
        obtain ⟨set, unread⟩ := (bad.resolve_left fun k => fits (.inl k)).resolve_left fun k => fits (.inr k)
        rw [if_pos set, unread]

theorem zoneSetAt_testBit {ps : List Byte} {i : Nat} {zones : ZoneSet} (h : zoneSetAt ps i = some zones) (z : ZoneNo) :
    zoneIn z zones = (natAt ps i * 65536 + natAt ps (i + 1) * 256 + natAt ps (i + 2)).testBit z.val := by
  unfold zoneSetAt at h
  dsimp only at h
  split at h
  · rw [← Option.some.inj h, zoneIn, BitVec.getLsbD_ofNat, wordAt_eq, Nat.add_assoc _ (_ * 256)]
    simp
  · cases h

theorem callMode_of_code {ps : List Byte} {i : Nat} {mode : CallMode} (h : nameAt callModeNames ps i = some mode) :
    mode = if natAt ps i = 0 then .duck else .replace := by
  unfold nameAt at h
  match e : natAt ps i with
  | 0 => rw [e] at h; exact (Option.some.inj h).symm
  | 1 => rw [e] at h; exact (Option.some.inj h).symm
  | n + 2 => rw [e] at h; cases h

theorem clampNat_zero_fst (hi n : Nat) : (clampNat 0 hi n).1 = min hi n := by
  rw [clampNat_fst (Nat.zero_le hi), Nat.zero_max]

theorem clampNat_zero_snd {hi n : Nat} : (clampNat 0 hi n).2 = true ↔ hi < n := by
  rw [clampNat_snd, or_iff_right (Nat.not_lt_zero n)]

theorem planStepRecord {ps : List Byte} {st : PlanStep} {adjusted : Bool} (read : readPlanStep ps = some (st, adjusted)) :
    let offset := natAt ps 0 * 256 + natAt ps 1
    let zones := natAt ps 10 * 65536 + natAt ps 11 * 256 + natAt ps 12
    let clamped := 3600 < offset ∨ 6 < natAt ps 13
    st.offset = min 3600 offset ∧ st.priority = min 6 (natAt ps 13) ∧
    st.mode = (if natAt ps 14 = 0 then .duck else .replace) ∧
    (∀ z : ZoneNo, zoneIn z st.targets = zones.testBit z.val) ∧
    (natAt ps 2 = 0 → st.content = .phrases (((ps.drop 4).take (natAt ps 3)).map BitVec.toNat) ∧ (adjusted = true ↔ clamped)) ∧
    (natAt ps 2 ≠ 0 →
      (∃ pattern : Fin 8, pattern.val = natAt ps 3 ∧ st.content = .chime pattern (max 1 (min 4 (natAt ps 4)))) ∧
      (adjusted = true ↔ clamped ∨ natAt ps 4 < 1 ∨ 4 < natAt ps 4)) := by
  obtain ⟨mode, targets, hm, ht, -, content⟩ := readPlanStep_eq_some_iff.mp read
  intro offset zones clamped
  have isClamped : ((clampNat 0 3600 (wordAt ps 0)).2 || (clampNat 0 6 (natAt ps 13)).2) = true ↔ clamped := by
    rw [Bool.or_eq_true, clampNat_zero_snd, clampNat_zero_snd]
    rfl
  rcases content with ⟨kind, list, hl, e⟩ | ⟨kind, pattern, hp, e⟩
  · cases e
    obtain ⟨-, -, rfl⟩ := readPhrases_eq_some_iff.mp hl
    refine ⟨clampNat_zero_fst _ _, clampNat_zero_fst _ _, callMode_of_code hm, zoneSetAt_testBit ht, fun _ => ⟨?_, isClamped⟩,
      fun other => absurd kind other⟩
    rw [natAt_drop, List.drop_drop]
  · cases e
    refine ⟨clampNat_zero_fst _ _, clampNat_zero_fst _ _, callMode_of_code hm, zoneSetAt_testBit ht, fun other => ?_,
      fun _ => ⟨⟨pattern, (finUpTo_eq_some_iff.mp hp).symm, ?_⟩, ?_⟩⟩
    · rw [kind] at other; cases other
    · exact congrArg (Content.chime pattern) (clampNat_fst (by decide))
    · rw [Bool.or_eq_true, isClamped, clampNat_snd]

theorem hallRecord {ps : List Byte} {v : HallSettings} {adjusted : Bool} (read : readHallSettings ps = some (v, adjusted)) :
    let window := natAt ps 0 * 256 + natAt ps 1
    v.breakWindow = max 10 (min 300 window) ∧ v.gapWindow = max 5 (min 120 (natAt ps 2)) ∧ v.warnTime = min 30 (natAt ps 3) ∧
    v.phrase = (if natAt ps 4 = 255 then none else some (natAt ps 4)) ∧
    v.preshow.map Fin.val = (if natAt ps 5 = 255 then none else some (natAt ps 5)) ∧
    (adjusted = true ↔ window < 10 ∨ 300 < window ∨ natAt ps 2 < 5 ∨ 120 < natAt ps 2 ∨ 30 < natAt ps 3) := by
  obtain ⟨preshow, hp, e⟩ := readHallSettings_eq_some_iff.mp read
  cases e
  refine ⟨clampNat_fst (by decide), clampNat_fst (by decide), clampNat_zero_fst _ _, ?_, optNameAt_finUpTo_val hp, ?_⟩
  · simp only [byteAt_eq_none_iff]
  · rw [Bool.or_eq_true, Bool.or_eq_true, clampNat_snd, clampNat_snd, clampNat_zero_snd, wordAt_eq]
    tauto

theorem planStepAndHallRecords_rule : Rules.PlanStepAndHallRecords :=
  ⟨fun _ _ _ read => planStepRecord read, fun _ _ _ read => hallRecord read⟩

end Sys2Proof.Machine

namespace Sys2Proof

/-- Settles O11: an induction on the entries of a plan for its schedule, the tests in their order for its requests. -/
theorem callPlans : Obligations.CallPlans :=
  ⟨Machine.planSchedule_rule, Machine.planStepAndIntervalDue_rule, Machine.planPutAndHallSet_rule,
    Machine.planPutAndHallSetRefused_rule, Machine.planStepAndHallRecords_rule⟩

end Sys2Proof

/-! PROOFS. The submissions of the Programme and the Admission unit to the Call unit (R130, R134, R136). -/

namespace Sys2Proof.Machine

/-! ## The tests of a submission (R134) -/

theorem isPhrases_iff {content : Content} : isPhrases content = true ↔ ∃ list, content = .phrases list := by
  cases content <;> simp [isPhrases]

theorem lacksPhrase_iff {s : State} {content : Content} : lacksPhrase s content = true ↔
    ∃ list n, content = .phrases list ∧ n ∈ list ∧ phraseEntry s.store.directory n = none := by
  cases content <;> simp [lacksPhrase]

section
variable {c : Submission} {s : State}

/-- A test of a submission, as the rule states it. -/
abbrev SubmissionDark (c : Submission) (s : State) : Prop := s.call.view.get c.hall = .dark
abbrev SubmissionBusy (c : Submission) (s : State) : Prop := (∃ list, c.content = .phrases list) ∧ storeOpen s = true
abbrev SubmissionAbsent (c : Submission) (s : State) : Prop :=
  ∃ list n, c.content = .phrases list ∧ n ∈ list ∧ phraseEntry s.store.directory n = none

theorem linkDark_iff : linkDark s (some c.hall) = true ↔ SubmissionDark c s := decide_eq_true_iff

theorem storeKeepsOut_iff : (isPhrases c.content && storeOpen s) = true ↔ SubmissionBusy c s := by
  rw [Bool.and_eq_true, isPhrases_iff]

theorem submissionRefusal_dark (dark : SubmissionDark c s) : submissionRefusal c s = some .state := if_pos (linkDark_iff.mpr dark)

theorem submissionRefusal_busy (lit : ¬SubmissionDark c s) (busy : SubmissionBusy c s) : submissionRefusal c s = some .busy := by
  unfold submissionRefusal
  rw [if_neg (linkDark_iff.not.mpr lit), if_pos (storeKeepsOut_iff.mpr busy)]

theorem submissionRefusal_absent (lit : ¬SubmissionDark c s) (free : ¬SubmissionBusy c s) (absent : SubmissionAbsent c s) :
    submissionRefusal c s = some .notFound := by
  unfold submissionRefusal
  rw [if_neg (linkDark_iff.not.mpr lit), if_neg (storeKeepsOut_iff.not.mpr free), if_pos (lacksPhrase_iff.mpr absent)]

theorem submissionRefusal_none (lit : ¬SubmissionDark c s) (free : ¬SubmissionBusy c s) (held : ¬SubmissionAbsent c s) :
    submissionRefusal c s = none := by
  unfold submissionRefusal
  rw [if_neg (linkDark_iff.not.mpr lit), if_neg (storeKeepsOut_iff.not.mpr free), if_neg (lacksPhrase_iff.not.mpr held)]

theorem submit_refused {st : Status} (refused : submissionRefusal c s = some st) :
    submit c s = stepLost c (answerSubmission (.refused st) s) := by
  unfold submit
  rw [refused]

theorem nameCode_hall (h : Hall) : nameCode hallNames h = match h with | .a => 0 | .b => 1 := by cases h <;> rfl

theorem stepLost_plan {plan : Fin 8} {step : Nat} (origin : c.origin = .plan plan step) : stepLost c s =
    offerTo (onlyPort .house) 5 0 (byteOf (128 + 64 * (match c.hall with | .a => 0 | .b => 1) + 8 * plan.val + step)) none s := by
  unfold stepLost
  rw [origin, ← nameCode_hall]
  rfl

theorem stepLost_admission (origin : c.origin = .admission) : stepLost c s = s := by
  unfold stepLost
  rw [origin]

/-! ## The call that gives way (R136) -/

theorem victim_none {queue : List Call} {n : Nat} (idle : ∀ d ∈ queue, d.state ≠ .queued) : victim queue n = none := by
  have empty : queue.filter isQueued = [] := List.filter_eq_nil_iff.mpr fun d hd => by simpa [isQueued] using idle d hd
  unfold victim
  rw [empty]
  rfl

/-- The last QUEUED call of the queue is the one that may give way. -/
theorem victim_last {before after : List Call} {v : Call} (queued : v.state = .queued) (last : ∀ d ∈ after, d.state ≠ .queued)
    (n : Nat) : victim (before ++ v :: after) n = if v.priority < n then some v else none := by
  have none : after.filter isQueued = [] := List.filter_eq_nil_iff.mpr fun d hd => by simpa [isQueued] using last d hd
  have final : ((before ++ v :: after).filter isQueued).getLast? = some v := by
    rw [List.filter_append, List.filter_cons_of_pos (by simpa [isQueued] using queued), none, List.getLast?_concat]
  unfold victim
  rw [final]

theorem submit_room (sound : submissionRefusal c s = none) (room : s.call.queue.length < 16) :
    submit c s = takeSubmission (submittedCall c s.clock) s := by
  unfold submit
  rw [sound]
  exact if_pos room

theorem submit_dropped (sound : submissionRefusal c s = none) (full : 16 ≤ s.call.queue.length)
    (stays : victim s.call.queue c.priority = none) : submit c s =
      offerTo (onlyPort .house) 5 0 (nameByte originNames (submittedCall c s.clock).origin) none (answerSubmission .dropped s) := by
  have priority : victim s.call.queue (submittedCall c s.clock).priority = none := stays
  unfold submit
  rw [sound]
  dsimp only
  rw [if_neg (show ¬ s.call.queue.length < queueLimit from Nat.not_lt.mpr full), priority]
  rfl

theorem submit_displaces {v : Call} (sound : submissionRefusal c s = none) (full : 16 ≤ s.call.queue.length)
    (leaves : victim s.call.queue c.priority = some v) : submit c s =
      takeSubmission (submittedCall c s.clock) (dropNotice v.id v.origin
        { s with call := { s.call with queue := s.call.queue.filter fun d => d.id ≠ v.id } }) := by
  have priority : victim s.call.queue (submittedCall c s.clock).priority = some v := leaves
  have others : s.call.queue.filter (fun d => d.id != v.id) = s.call.queue.filter fun d => d.id ≠ v.id :=
    List.filter_congr fun d _ => by simp [bne, beq_eq_decide]
  unfold submit
  rw [sound]
  dsimp only
  rw [if_neg (show ¬ s.call.queue.length < queueLimit from Nat.not_lt.mpr full), priority]
  dsimp only
  rw [others]
  rfl

end

/-! ## The rules -/

theorem exec_unitCallSubmission {s t : State} {sender : Submitter} {c : Submission}
    (waits : sender = .programme ∧
        (∃ rest, s.mail.toCall = .submit c :: rest ∧ t = { s with mail := { s.mail with toCall := rest } }) ∨
      sender = .admission ∧ (∃ rest, s.mail.admissionToCall = .submit c :: rest ∧
        t = { s with mail := { s.mail with admissionToCall := rest } })) :
    exec (.unitCallSubmission sender) s = .next (submit c t) ∧ t.call = s.call ∧ t.store = s.store ∧ t.clock = s.clock := by
  rcases waits with ⟨rfl, rest, front, rfl⟩ | ⟨rfl, rest, front, rfl⟩
  · refine ⟨?_, rfl, rfl, rfl⟩
    show execUnitCallSubmission .programme s = _
    simp only [execUnitCallSubmission, front]
    rfl
  · refine ⟨?_, rfl, rfl, rfl⟩
    show execUnitCallSubmission .admission s = _
    simp only [execUnitCallSubmission, front]
    rfl

theorem unitCallSubmission_rule : Rules.UnitCallSubmission := by
  intro s sender c t waits
  obtain ⟨submits, call, store, clock⟩ := exec_unitCallSubmission waits
  dsimp only
  rw [submits]
  have open_ : storeOpen s = storeOpen t := by unfold storeOpen; rw [store]
  rw [← call, ← store, ← clock, open_]
  have refused : ∀ st, submissionRefusal c t = some st →
      (c.origin = .admission →
        Host.Outcome.next (submit c t) = (.next { t with call := { t.call with submitted := some (.refused st) } } : Step)) ∧
      ∀ plan step, c.origin = .plan plan step → Host.Outcome.next (submit c t) =
        (.next (offerTo (onlyPort .house) 5 0 (byteOf (128 + 64 * (match c.hall with | .a => 0 | .b => 1) + 8 * plan.val + step))
          none { t with call := { t.call with submitted := some (.refused st) } }) : Step) := fun st found =>
    ⟨fun origin => congrArg _ ((submit_refused found).trans (stepLost_admission origin)),
      fun plan step origin => congrArg _ ((submit_refused found).trans (stepLost_plan origin))⟩
  refine ⟨fun dark => refused _ (submissionRefusal_dark dark), fun lit busy => refused _ (submissionRefusal_busy lit busy),
    fun lit free absent => refused _ (submissionRefusal_absent lit free absent), fun lit free held => ?_⟩
  have sound := submissionRefusal_none lit free held
  refine ⟨fun room => ?_, fun full idle => ?_, fun full before v after queue queued last => ⟨fun lower => ?_, fun higher => ?_⟩⟩
  · exact congrArg _ (submit_room sound (Nat.lt_of_not_le room))
  · exact congrArg _ (submit_dropped sound full (victim_none idle))
  · refine congrArg _ (submit_displaces sound full ?_)
    rw [queue, victim_last queued last, if_pos lower]
  · refine congrArg _ (submit_dropped sound full ?_)
    rw [queue, victim_last queued last, if_neg (Nat.not_lt.mpr higher)]

theorem submittedCall_rule : Rules.SubmittedCall := by
  refine ⟨fun c now => ?_, fun id origin s => ?_⟩
  · have deadline : (clampNat 50 9000 (leftUntil now c.deadline)).1 =
        max 50 (min 9000 (if reached now c.deadline then 0 else (c.deadline - now).toNat)) := clampNat_fst (by decide)
    unfold submittedCall
    rw [deadline]
    rfl
  · cases origin <;> rfl

theorem callTakenIn_rule : Rules.CallTakenIn := fun _ _ => rfl

end Sys2Proof.Machine

namespace Sys2Proof

/-- Settles O30, by the tests of R134 in their order and by the last QUEUED call of a full queue. -/
theorem unitCallSubmission : Obligations.UnitCallSubmission :=
  ⟨Machine.unitCallSubmission_rule, Machine.submittedCall_rule, Machine.callTakenIn_rule⟩

end Sys2Proof

/-! PROOFS. Writes to a control port: the end of a write, the router, and the bus commands (R186–R191). -/

namespace Sys2Proof.Machine

/-! ## The end of a write (R189, R190) -/

/-- R189: a good frame. -/
theorem goodFrame_iff {r : PortRecord} : goodFrame r = true ↔
    r.overflow = false ∧ 3 ≤ r.buffer.length ∧ natAt r.buffer 2 ≤ 60 ∧ r.buffer.length = 3 + natAt r.buffer 2 := by
  unfold goodFrame
  simp only [Bool.and_eq_true, Bool.not_eq_true', decide_eq_true_eq, and_assoc]

theorem abandonWrite_idle {r : PortRecord} (ret : r.ret = .idle) : abandonWrite r =
    { r with buffer := [], overflow := false, setAside := none, state := .idle, reply := r.setAside } := by
  unfold abandonWrite
  rw [ret]

theorem abandonWrite_ready {r : PortRecord} (ret : r.ret = .ready) : abandonWrite r =
    { r with buffer := [], overflow := false, setAside := none, state := .ready, reply := r.setAside } := by
  unfold abandonWrite
  rw [ret]

section
variable {p : Port} {r : PortRecord}

theorem endWrite_elsewhere (other : r.state ≠ .receiving) : endWrite p r = r := if_pos other

theorem endWrite_probe (receiving : r.state = .receiving) (empty : r.buffer = []) : endWrite p r = abandonWrite r := by
  unfold endWrite
  rw [if_neg (not_not.mpr receiving), if_pos empty]

theorem endWrite_bad (receiving : r.state = .receiving) (held : r.buffer ≠ []) (bad : ¬goodFrame r = true) :
    endWrite p r = readyWith r ⟨.frame, byteAt r.buffer 1, []⟩ := by
  unfold endWrite
  rw [if_neg (not_not.mpr receiving), if_neg held]
  exact if_neg bad

theorem endWrite_good (receiving : r.state = .receiving) (held : r.buffer ≠ []) (good : goodFrame r = true) :
    endWrite p r = match route p (byteAt r.buffer 0) (r.buffer.drop 3) with
      | .ok request => pendingWith r (byteAt r.buffer 1) request
      | .error status => readyWith r ⟨status, byteAt r.buffer 1, []⟩ := by
  unfold endWrite
  rw [if_neg (not_not.mpr receiving), if_neg held]
  exact if_pos good

theorem endWrite_state : (endWrite p r).state ≠ .receiving := by
  by_cases receiving : r.state = .receiving
  · by_cases held : r.buffer = []
    · rw [endWrite_probe receiving held]
      unfold abandonWrite
      cases r.ret <;> simp
    · by_cases good : goodFrame r = true
      · rw [endWrite_good receiving held good]
        split <;> simp [pendingWith, readyWith]
      · rw [endWrite_bad receiving held good]
        simp [readyWith]
  · rwa [endWrite_elsewhere receiving]

end

theorem endOfWrite_rule : Rules.EndOfWrite := by
  intro p r
  dsimp only
  rw [← goodFrame_iff]
  refine ⟨endWrite_elsewhere, fun receiving empty => ⟨fun ret => ?_, fun ret => ?_⟩, fun receiving held bad => ?_,
    fun receiving held good => ⟨fun status refused => ?_, fun request taken => ?_⟩⟩
  · rw [endWrite_probe receiving empty, abandonWrite_idle ret]
  · rw [endWrite_probe receiving empty, abandonWrite_ready ret]
  · exact endWrite_bad receiving held bad
  · rw [endWrite_good receiving held good, byteAt, refused]
    rfl
  · rw [endWrite_good receiving held good, byteAt, taken]
    rfl

/-! ## The router (R191) -/

/-- The ports that a row permits, in port order. -/
def RequestRow.ports (row : RequestRow) : List Port := [.stage, .house, .booth].filter row.permits

theorem RequestRow.mem_ports {row : RequestRow} {p : Port} : p ∈ row.ports ↔ row.permits p = true := by
  have all : p ∈ [Port.stage, .house, .booth] := by cases p <;> decide
  rw [RequestRow.ports, List.mem_filter, and_iff_right all]

theorem requestRow_isSome {code : Byte} : (requestRow code).isSome = true ↔ code.toNat ∈ requestTable.map RequestRow.code := by
  unfold requestRow
  simp only [List.find?_isSome, List.mem_map, beq_iff_eq]

/-- The row of a code with a fixed length and its ports, from a check of the table. -/
theorem requestRow_of_table {code : Byte} {length : Option Nat} {ports : List Port}
    (h : (requestTable.find? fun r => r.code == code.toNat).map (fun r => (r.length, r.ports)) = some (length, ports)) :
    ∃ row, requestRow code = some row ∧ row.length = length ∧ ∀ p, row.permits p = true ↔ p ∈ ports := by
  obtain ⟨row, found, e⟩ := Option.map_eq_some_iff.mp h
  cases e
  exact ⟨row, found, rfl, fun p => RequestRow.mem_ports.symm⟩

/-- Lists of codes with one length and one set of ports each, from a check of the table. -/
theorem requestRows_of_table {rows : List (List Port × Option Nat × List Nat)}
    (h : ∀ e ∈ rows, ∀ n ∈ e.2.2,
      (requestTable.find? fun r => r.code == n).map (fun r => (r.length, r.ports)) = some (e.2.1, e.1)) :
    ∀ ports length codes, (ports, length, codes) ∈ rows → ∀ code : Byte, code.toNat ∈ codes →
      ∃ row, requestRow code = some row ∧ row.length = length ∧ ∀ p, row.permits p = true ↔ p ∈ ports :=
  fun _ _ _ listed _ coded => requestRow_of_table (h _ listed _ coded)

theorem route_unknown {p : Port} {code : Byte} {ps : List Byte} (h : requestRow code = none) : route p code ps = .error .unknown := by
  unfold route
  rw [h]

theorem route_denied {p : Port} {code : Byte} {ps : List Byte} {row : RequestRow} (h : requestRow code = some row)
    (denied : row.permits p = false) : route p code ps = .error .denied := by
  simp [route, h, denied]

theorem route_permitted {p : Port} {code : Byte} {ps : List Byte} {row : RequestRow} (h : requestRow code = some row)
    (permitted : row.permits p = true) : route p code ps =
      if ∀ n, row.length = some n → ps.length = n then .ok ⟨code, ps⟩ else .error .range := by
  unfold route
  rw [h]
  cases length : row.length <;> simp [permitted, length]

theorem router_rule : Rules.Router := by
  refine ⟨fun p code ps => ⟨route_unknown, fun row found => ⟨route_denied found, fun permitted => ?_⟩⟩, fun code => ?_, ?_⟩
  · rw [route_permitted found permitted]
    refine ⟨fun length => if_pos (by simp [length]), fun n length => ⟨fun fits => if_pos (by simp [length, fits]),
      fun other => if_neg (by simpa [length] using other)⟩⟩
  · exact requestRow_isSome
  · exact requestRows_of_table (by decide)

/-! ## The bus commands (R186, R188) -/

theorem acknowledges_iff {s : State} {addr : BitVec 7} :
    acknowledges s addr = true ↔ s.engine.started = true ∧ addr.toNat = 0x2C + s.straps.toNat := by
  unfold acknowledges
  rw [Bool.and_eq_true, beq_iff_eq, ← BitVec.toNat_inj, BitVec.toNat_add, BitVec.toNat_setWidth]
  have straps := s.straps.isLt
  rw [Nat.mod_eq_of_lt (show s.straps.toNat < 2 ^ 7 by omega), show (0x2C#7).toNat = 0x2C from rfl,
    Nat.mod_eq_of_lt (show 0x2C + s.straps.toNat < 2 ^ 7 by omega)]

theorem writeStart_rule : Rules.WriteStart := by
  intro s p addr data
  dsimp only
  rw [← acknowledges_iff]
  have begins : acknowledges s addr = true →
      exec (.i2cWriteStart p addr data) s = .next (setPort p (beginWrite data (endWrite p (s.ports.get p))) s) := fun own => if_pos own
  refine ⟨fun other => if_neg other, fun own pending => ?_, fun own idle => ?_, fun own ready => ?_, endWrite_state⟩
  all_goals rw [begins own]; unfold beginWrite
  · rw [pending]; rfl
  · rw [idle]; rfl
  · rw [ready]; rfl

theorem writeEndAndTimeout_rule : Rules.WriteEndAndTimeout := by
  intro s p
  have ends : (s.ports.get p).state = .receiving →
      exec (.writeTimeout p) s = .next (setPort p (abandonWrite (s.ports.get p)) s) := fun receiving => if_pos receiving
  refine ⟨rfl, fun other => if_neg other, fun receiving => ⟨fun ret => ?_, fun ret => ?_⟩⟩
  · rw [ends receiving, abandonWrite_idle ret]; rfl
  · rw [ends receiving, abandonWrite_ready ret]; rfl

end Sys2Proof.Machine

namespace Sys2Proof

/-- Settles O50, by the port's state and its frame, and for the router by a check of the request table. -/
theorem portWrites : Obligations.PortWrites :=
  ⟨Machine.writeStart_rule, Machine.endOfWrite_rule, Machine.router_rule, Machine.writeEndAndTimeout_rule⟩

end Sys2Proof

/-! PROOFS. The status requests, and how fields are spelled in bytes (R28, R32, R82, R122, R170; Control Ports, 10.5). -/

namespace Sys2Proof

/-- A table is the list of its entries in order. -/
theorem Table.toList_eq {α : Type} {n : Nat} (t : Table α n) : t.toList = (finUpTo n).map t.get := by
  refine List.ext_getElem (by rw [List.length_map, finUpTo_length, t.len]) fun i _ _ => ?_
  rw [List.getElem_map, Table.finUpTo_get]
  rfl

namespace Machine

/-! ## HALL_STATUS and ZONE_STATUS (R28, R32) -/

theorem partyCount_eq (s : State) (h : Hall) (st : PartyState) :
    partyCount s h st = (s.admission.parties.filter fun q => decide (q.hall = h ∧ q.state = st)).length :=
  congrArg List.length (List.filter_congr fun _ _ => (Bool.decide_and _ _).symm)

theorem byteOf_toNat (b : Byte) : byteOf b.toNat = b := BitVec.ofNat_toNat 8 b

theorem finUpTo_byteOf {n : Nat} (x : Fin n) (h : n ≤ 256) (ps : List Byte) :
    (finUpTo n)[natAt (byteOf x.val :: ps) 0]? = some x :=
  finUpTo_eq_some_iff.mpr (toNat_byteOf (Nat.lt_of_lt_of_le x.isLt h))

theorem hallStatus_reported {s : State} {p : Port} {h : Hall} (asks : Asks s p 0x1B [nameByte hallNames h]) :
    exec (.hallStatus p) s = .next (replied p .ok
      ([nameByte phaseNames (hallOf s h).phase, byteOf (hallOf s h).position, byteOf (hallOf s h).order.length] ++
        windowBytes (s.admission.windows.get h) ++ bytes2 (s.admission.totals.get h) ++ clockBytes (hallOf s h).due ++
        [byteOf (partyCount s h .held), byteOf (partyCount s h .admitting)]) s) := by
  refine Asks.reported (a := false) asks ?_
  unfold hallStatus
  rw [show nameAt hallNames [nameByte hallNames h] 0 = some h from nameAt_hall rfl]
  rfl

theorem zoneStatus_reported {s : State} {p : Port} {z : ZoneNo} (asks : Asks s p 0x21 [byteOf z.val]) :
    exec (.zoneStatus p) s = .next (replied p .ok
      ([zoneByte z] ++ (kindBytes s.zoneUnit z).1 ++
        [nameByte baseSourceNames (s.zoneUnit.zones.get z).baseSource, stepByte (s.zoneUnit.zones.get z).baseGain,
          stepByte (s.zoneUnit.zones.get z).target, stepByte (s.zoneUnit.zones.get z).bgStep,
          stepByte (s.zoneUnit.zones.get z).settings.trim] ++
        (kindBytes s.zoneUnit z).2 ++ clockBytes (s.zoneUnit.zones.get z).lastClip ++
        [byteOf (s.zoneUnit.zones.get z).stack.length] ++
        (s.zoneUnit.zones.get z).stack.reverse.flatMap overlayBytes) s) := by
  refine Asks.reported (a := false) asks ?_
  unfold zoneStatus
  rw [finUpTo_byteOf z (by decide)]
  rfl

/-- R32: the six bytes of an entry, by its mode and its owner. -/
theorem overlayBytes_eq : overlayBytes = fun o : Overlay => [nameByte sourceNames o.source] ++
    (match o.mode with
      | .duck depth => [0x00, stepByte depth]
      | .replace => [0x01, 0x80]) ++ [byteOf o.priority] ++
    (match o.owner with
      | .call id => [0x00, byteOf id]
      | .channel c => [0x01, byteOf c.val]) := by
  funext o
  obtain ⟨source, mode, priority, owner⟩ := o
  cases mode <;> cases owner <;> rfl

theorem hallAndZoneStatus_rule : Rules.HallAndZoneStatus := by
  intro s p b
  refine ⟨fun h asks => ?_, fun asks bad => asks.refused (by simp only [hallStatus, nameAt_hallByte_none bad]),
    fun asks bad => asks.refused ?_, fun z asks => ?_⟩
  · rw [hallStatus_reported asks, partyCount_eq, partyCount_eq]
    dsimp only
    cases s.admission.windows.get h <;> cases (hallOf s h).due <;> rfl
  · simp only [zoneStatus, finUpTo_eq_none_iff.mpr (show 18 ≤ natAt [b] 0 from bad)]
  · rw [zoneStatus_reported asks, overlayBytes_eq]
    unfold kindBytes
    dsimp only
    cases zoneKind z <;> cases (s.zoneUnit.zones.get z).lastClip <;> rfl

/-! ## LEVEL_READ, KEY_STATUS and DESC_STATUS (R82, R122, R170) -/

/-- In a list of blocks of one length, an entry is found by its block and its place there. -/
theorem flatMap_block_getElem? {α β : Type} {f : α → List β} {k : Nat} (block : ∀ x, (f x).length = k) {l : List α} {i j : Nat}
    {x : α} (at_ : l[i]? = some x) (place : j < k) : (l.flatMap f)[k * i + j]? = (f x)[j]? := by
  induction l generalizing i with
  | nil => cases at_
  | cons y l ih =>
    rw [List.flatMap_cons]
    cases i with
    | zero =>
      cases at_
      rw [Nat.mul_zero, Nat.zero_add, List.getElem?_append_left (by rw [block]; exact place)]
    | succ i =>
      rw [List.getElem?_append_right (by rw [block, Nat.mul_succ]; omega), block, ← ih at_]
      congr 1
      rw [Nat.mul_succ]
      omega

theorem flatMap_block_length {α β : Type} {f : α → List β} {k : Nat} (block : ∀ x, (f x).length = k) (l : List α) :
    (l.flatMap f).length = k * l.length := by
  rw [List.length_flatMap, List.map_congr_left (fun x _ => block x), List.map_const', List.sum_replicate, smul_eq_mul, Nat.mul_comm]

/-- The two values of a sound channel, and the three of a sense channel (Control Ports). -/
def soundValues (s : State) (c : Fin 6) : List Nat :=
  [(s.level.sound.get c).run + (if (s.level.sound.get c).state = .sound then 512 else 0) + (if frozen s c then 1024 else 0),
    peakValue (s.level.sound.get c).lastPeak]

def senseValues (s : State) (l : Fin 8) : List Nat :=
  [peakValue (s.level.sense.get l).lastPeak, peakValue (s.level.sense.get l).lastDrive,
    if (s.zoneUnit.loops.get l).shut then 4095 else (s.level.sense.get l).openRun]

theorem levelValues_eq (s : State) :
    levelValues s = (finUpTo 6).flatMap (soundValues s) ++ (finUpTo 8).flatMap (senseValues s) := rfl

theorem levelValues_length (s : State) : (levelValues s).length = 36 := rfl

theorem levelValues_sound (s : State) (c : Fin 6) {j : Nat} (place : j < 2) :
    (levelValues s)[2 * c.val + j]? = (soundValues s c)[j]? := by
  have length : ((finUpTo 6).flatMap (soundValues s)).length = 12 := rfl
  rw [levelValues_eq, List.getElem?_append_left (by rw [length]; have := c.isLt; omega)]
  exact flatMap_block_getElem? (k := 2) (fun _ => rfl) (finUpTo_getElem? c.isLt) place

theorem levelValues_sense (s : State) (l : Fin 8) {j : Nat} (place : j < 3) :
    (levelValues s)[12 + (3 * l.val + j)]? = (senseValues s l)[j]? := by
  have length : ((finUpTo 6).flatMap (soundValues s)).length = 12 := rfl
  rw [levelValues_eq, List.getElem?_append_right (by rw [length]; omega), length, Nat.add_sub_cancel_left]
  exact flatMap_block_getElem? (k := 3) (fun _ => rfl) (finUpTo_getElem? l.isLt) place

theorem frozen_iff {s : State} {c : Fin 6} :
    frozen s c = true ↔ (s.engine.lanes.get (if c.val < 2 then .lane0 else .lane1)).locked = false := by
  unfold frozen soundLane
  rw [Bool.not_eq_true']

theorem count_keys (s : State) (st : KeyState) : (s.panel.keys.count fun r => r.state = st) =
    ((finUpTo 64).filter fun k => decide ((s.panel.keys.get k).state = st)).length := by
  rw [Table.count, Table.toList_eq, List.filter_map, List.length_map]
  rfl

theorem channelBytes_eq (now : Clock) (ch : Channel) : channelBytes now ch =
    writeChannelSettings ch.settings ++ [nameByte talkStateNames ch.talk] ++
      (match ch.expiry with
        | some t => bytes2 (leftUntil now t)
        | none => [0xFF, 0xFF]) := by
  unfold channelBytes
  cases ch.expiry <;> rfl

theorem keyStatus_reported {s : State} {p : Port} {b : Byte} (asks : Asks s p 0x42 [b]) (good : b.toNat ≤ 63) :
    exec (.keyStatus p) s = .next (replied p .ok
      ([b] ++ ((finUpTo 64).filter fun k => decide (b.toNat ≤ k.val ∧ k.val < b.toNat + 16)).flatMap
          (fun k => [nameByte keyStateNames (s.panel.keys.get k).state, writeRole (s.panel.roles.get k)]) ++
        [byteOf (s.panel.keys.count fun r => r.state = .stuck), byteOf (s.panel.keys.count fun r => r.state = .ghost)] ++
        writeTimings s.panel.timings) s) := by
  refine Asks.reported (a := false) asks ?_
  have shown : ((finUpTo 64).filter fun k : Fin 64 => decide (b.toNat ≤ k.val ∧ k.val < b.toNat + 16)) =
      (finUpTo 64).filter fun k => b.toNat ≤ k.val && decide (k.val < b.toNat + 16) :=
    List.filter_congr fun _ _ => Bool.decide_and _ _
  rw [shown]
  unfold keyStatus
  dsimp only
  rw [if_neg (show ¬ 63 < natAt [b] 0 from Nat.not_lt.mpr good), show natAt [b] 0 = b.toNat from rfl, byteOf_toNat]
  rfl

theorem descStatus_reported {s : State} {p : Port} (asks : Asks s p 0x59 []) :
    exec (.descStatus p) s = .next (replied p .ok
      ((finUpTo 4).flatMap (fun c => channelBytes s.clock (channelOf s c)) ++
        (finUpTo 4).flatMap fun d => describerBytes (s.description.describers.get d)) s) := by
  refine Asks.reported (a := false) asks ?_
  unfold descStatus
  rw [Table.toList_eq, Table.toList_eq, List.flatMap_map, List.flatMap_map]
  rfl

theorem levelKeyAndDescriptionStatus_rule : Rules.LevelKeyAndDescriptionStatus := by
  intro s p b
  refine ⟨fun asks => ⟨levelValues s, levelValues_length s, fun c => ⟨?_, levelValues_sound s c (j := 1) (by decide)⟩,
      fun l => ⟨levelValues_sense s l (j := 0) (by decide), ?_, ?_⟩, ?_⟩, fun x y rest => rfl,
    fun asks => ⟨fun bad => asks.refused (if_pos bad), fun good => ?_⟩, fun asks => ?_⟩
  · have value := levelValues_sound s c (j := 0) (by decide)
    rw [Nat.add_zero] at value
    rw [value]
    simp only [soundValues, frozen_iff, List.getElem?_cons_zero]
  · rw [show 13 + 3 * l.val = 12 + (3 * l.val + 1) by omega, levelValues_sense s l (by decide)]
    rfl
  · rw [show 14 + 3 * l.val = 12 + (3 * l.val + 2) by omega, levelValues_sense s l (by decide)]
    rfl
  · exact Asks.reported (a := false) asks rfl
  · rw [keyStatus_reported asks good, count_keys, count_keys]
    simp only [writeTimings, List.append_assoc, List.cons_append, List.nil_append]
  · rw [descStatus_reported asks]
    simp only [channelBytes_eq]
    rfl

/-! ## Fields -/

theorem stepByte_toInt {x : Int} (low : -128 ≤ x) (high : x ≤ 127) : (stepByte x).toInt = x := by
  unfold stepByte
  rw [BitVec.toInt_ofInt]
  exact Int.bmod_eq_of_le (by omega) (by omega)

theorem fieldCodes_rule : Rules.FieldCodes := by
  refine ⟨fun n h => ⟨?_, rfl⟩, fun n h => ⟨?_, rfl⟩, fun n h => ⟨?_, rfl⟩, fun x => stepByte_toInt, fun n => toNat_byteOf, rfl, rfl,
    fun f => ⟨rfl, fun h => rfl⟩, fun z zones => rfl, ?_⟩
  · simp [bytes2, byteOf]; omega
  · simp [bytes3, byteOf]; omega
  · simp [bytes4, byteOf]; omega
  · decide

end Machine

/-- Settles O55: the payload of each request is the one its unit gives, read field by field. -/
theorem statusRequests : Obligations.StatusRequests :=
  ⟨Machine.hallAndZoneStatus_rule, Machine.levelKeyAndDescriptionStatus_rule, Machine.fieldCodes_rule⟩

end Sys2Proof

/-! PROOFS. The state after reset: its laws, its reset values, and the factory defaults (R183 and each unit's chapter). -/

namespace Sys2Proof.Machine

/-! ## The factory defaults -/

theorem defaultEntrance_lamp {e f : Fin 12} (h : (defaultEntrance e).lamp = (defaultEntrance f).lamp) : e = f :=
  Option.some.inj h

theorem defaultEntrance_foyer : ∀ e f : Fin 12, (defaultEntrance e).zone = (defaultEntrance f).zone →
    (defaultEntrance e).hall = (defaultEntrance f).hall := by decide

theorem defaultHall_inRange : HallInRange defaultHall := by
  simp [HallInRange, defaultHall]

theorem factorySettings_inRange : SettingsInRange factorySettings where
  halls h := by cases h <;> exact defaultHall_inRange
  quotas e := by simp [factorySettings, defaultEntrance]
  lamps e f _ same := by
    simp only [factorySettings, Table.get_ofFn] at same
    exact defaultEntrance_lamp same
  foyersOneHall e f _ same := by
    simp only [factorySettings, Table.get_ofFn] at same ⊢
    exact defaultEntrance_foyer e f same
  zones z := by simp [factorySettings, defaultZone, ZoneInRange]
  loops l := by simp [factorySettings, defaultLoop]
  foyers f := by simp [factorySettings, defaultFoyer, FoyerInRange]
  sound c := by
    have inRange : ∀ c : Fin 6, SoundInRange (defaultSound c) := by decide
    simp only [factorySettings, Table.get_ofFn]
    exact inRange c
  sense c := by simp [factorySettings, defaultSense, SenseInRange]
  timings := by simp [factorySettings, defaultTimings, TimingsInRange]
  channels c := by simp [factorySettings, defaultChannel, ChannelInRange]
  plans p := by simp [factorySettings]

theorem factoryDefaults_rule : Rules.FactoryDefaults := by
  have loops : ∀ l : Fin 8, defaultLoop l = { hall := if l.val ≤ 5 then .a else .b, driveLimit := 1800 } := by decide
  have sound : ∀ c : Fin 6, defaultSound c =
      if c.val < 2 then { upper := -80, lower := -92, soundHold := 5, quietHold := 300 }
      else { upper := -72, lower := -84, soundHold := 3, quietHold := 80 } := by decide
  have entrances : ∀ e : Fin 12, defaultEntrance e =
      { hall := if e.val ≤ 7 then .a else .b
        zone := some (if e.val ≤ 3 then 0 else if e.val ≤ 7 then 1 else 2)
        quota := 6
        stepFree := decide (e.val = 0 ∨ e.val = 4 ∨ e.val = 8)
        lamp := some e } := by decide
  have roles : ∀ (row : Fin 6) (column : Fin 8),
      defaultRole ⟨8 * row.val + column.val, by omega⟩ =
        if column.val % 4 = 0 then .add ⟨2 * row.val + column.val / 4, by omega⟩
        else if column.val % 4 = 1 then .remove ⟨2 * row.val + column.val / 4, by omega⟩
        else if column.val % 4 = 2 then .done ⟨2 * row.val + column.val / 4, by omega⟩
        else .usher ⟨2 * row.val + column.val / 4, by omega⟩ := by decide
  have talk : ∀ d : Fin 4, defaultRole ⟨48 + d.val, by omega⟩ = .talk d := by decide
  have unused : ∀ k : Fin 64, 52 ≤ k.val → defaultRole k = .none := by decide
  have channels : ∀ c : Fin 4, defaultChannel c =
      { zone := c, hall := if c.val ≤ 1 then .a else .b, input := some c, talkMode := .key, depth := -24, gain := 0, grace := 3 } := by
    decide
  refine ⟨fun h => by cases h <;> rfl, fun p => Table.get_fill _ p, fun z => Table.get_fill _ z, fun l => ?_, fun f => Table.get_fill _ f,
    fun c => ?_, fun l => Table.get_fill _ l, fun e => ?_, fun row column => ?_, fun d => ?_, fun k high => ?_, rfl, fun c => ?_⟩
  · exact (Table.get_ofFn _ l).trans (loops l)
  · exact (Table.get_ofFn _ c).trans (sound c)
  · exact (Table.get_ofFn _ e).trans (entrances e)
  · exact (Table.get_ofFn _ _).trans (roles row column)
  · exact (Table.get_ofFn _ _).trans (talk d)
  · exact (Table.get_ofFn _ k).trans (unused k high)
  · exact (Table.get_ofFn _ c).trans (channels c)

/-! ## Start-up over any flash -/

theorem map_map_of_inverse {α β : Type} {n : Nat} {f : α → β} {g : β → α} (inverse : ∀ a, g (f a) = a) (t : Table α n) :
    (t.map f).map g = t := Table.ext fun i => by rw [Table.get_map, Table.get_map, inverse]

theorem settings_ext {u v : Settings} (halls : u.halls = v.halls) (entrances : u.entrances = v.entrances) (zones : u.zones = v.zones)
    (loops : u.loops = v.loops) (foyers : u.foyers = v.foyers) (sound : u.sound = v.sound) (sense : u.sense = v.sense)
    (roles : u.roles = v.roles) (timings : u.timings = v.timings) (channels : u.channels = v.channels) (plans : u.plans = v.plans) :
    u = v := by
  cases u
  cases v
  simp_all only

@[simp] theorem zoneKind_loopZone (l : Fin 8) : zoneKind (loopZone l) = .loop l := by simp [zoneKind, loopZone]

@[simp] theorem zoneKind_descZone (d : Fin 4) : zoneKind (descZone d) = .desc d := by
  have low : ¬ d.val + 8 < 8 := by omega
  have high : d.val + 8 < 12 := by omega
  simp [zoneKind, descZone, low, high]

@[simp] theorem zoneKind_foyerZone (f : Fin 6) : zoneKind (foyerZone f) = .foyer f := by
  have low : ¬ f.val + 12 < 8 := by omega
  simp [zoneKind, foyerZone, low]

section
variable (straps : BitVec 2) (m : Flash) (draws : Nat) (queue : List Instr)

/-- The units hold the settings in force. -/
theorem currentSettings_boot : currentSettings (State.boot straps m draws queue) = settingsInForce (loadImage m) := by
  have zones : (State.boot straps m draws queue).zoneUnit.zones.map ZoneRecord.settings = (settingsInForce (loadImage m)).zones :=
    Table.ext fun z => by
      rw [Table.get_map]
      exact congrArg ZoneRecord.settings (Table.get_ofFn _ z)
  have entrances := map_map_of_inverse (f := fun e => (⟨e, 0, false, false, .off⟩ : Entrance)) (g := Entrance.settings)
    (fun _ => rfl) (settingsInForce (loadImage m)).entrances
  have loops := map_map_of_inverse (f := bootLoop) (g := LoopRecord.settings) (fun _ => rfl) (settingsInForce (loadImage m)).loops
  have foyers := map_map_of_inverse (f := bootFoyer) (g := FoyerRecord.settings) (fun _ => rfl) (settingsInForce (loadImage m)).foyers
  have sound := map_map_of_inverse (f := fun c => (⟨c, .quiet, 0, 0, 0⟩ : SoundChannel)) (g := SoundChannel.settings)
    (fun _ => rfl) (settingsInForce (loadImage m)).sound
  have sense := map_map_of_inverse (f := fun c => (⟨c, 0, 0, 0, 0, 0⟩ : SenseChannel)) (g := SenseChannel.settings)
    (fun _ => rfl) (settingsInForce (loadImage m)).sense
  have channels := map_map_of_inverse (f := fun c => (⟨c, .off, none⟩ : Channel)) (g := Channel.settings)
    (fun _ => rfl) (settingsInForce (loadImage m)).channels
  exact settings_ext rfl entrances zones loops foyers sound sense rfl rfl channels rfl

theorem boot_zone (z : ZoneNo) :
    (State.boot straps m draws queue).zoneUnit.zones.get z = bootZone (settingsInForce (loadImage m)) z := Table.get_ofFn _ z

theorem boot_stack (z : ZoneNo) : ((State.boot straps m draws queue).zoneUnit.zones.get z).stack = [] := by
  rw [boot_zone]; rfl

theorem boot_loop (l : Fin 8) :
    (State.boot straps m draws queue).zoneUnit.loops.get l = bootLoop ((settingsInForce (loadImage m)).loops.get l) :=
  Table.get_map _ _ l

theorem boot_channel (c : Fin 4) : channelOf (State.boot straps m draws queue) c =
    ⟨(settingsInForce (loadImage m)).channels.get c, .off, none⟩ := Table.get_map _ _ c

theorem boot_safe (flash : m.wf = true) (settings : SettingsInRange (settingsInForce (loadImage m))) :
    Safe (State.boot straps m draws queue) where
  overlays z := by
    rw [boot_stack]
    exact ⟨Nat.zero_le _, .nil, .nil⟩
  flash := flash
  store opened := nomatch opened
  waiting := .boot straps m draws queue
  phases := .boot straps m draws queue
  admitting := .boot straps m draws queue
  queue := ⟨Nat.zero_le _, .nil, fun _ h => (List.not_mem_nil h).elim, ⟨Nat.le_refl 1, show 1 ≤ 255 by decide⟩, .nil⟩
  channels c :=
    { overlay := fun z => by rw [holdsOn, boot_stack, boot_channel]; simp
      expiry := by rw [boot_channel]; rfl
      dark := fun _ => by rw [boot_channel] }
  ports p := by
    cases p
    all_goals exact ⟨rfl, rfl, Nat.zero_le _, nofun⟩
  outputs :=
    { limit := fun l => by rw [boot_loop]; exact settings.loops l
      made := fun z x h => nomatch (Table.get_fill [] z ▸ h : x ∈ [])
      sending := fun z x h => nomatch (Table.get_fill [] z ▸ h : x ∈ [])
      duties := fun l d h => nomatch (Table.get_fill [] l ▸ h : d ∈ []) }
  settings := by rw [SettingsLaw, currentSettings_boot]; exact settings

/-- R29, R33–R35: the base of a zone after start-up, by its kind. -/
theorem bootZone_loop (v : Settings) (l : Fin 8) :
    (bootZone v (loopZone l)).baseSource = .silence ∧ (bootZone v (loopZone l)).baseGain = -121 := by
  simp [bootZone]

theorem bootZone_desc (v : Settings) (d : Fin 4) :
    (bootZone v (descZone d)).baseSource = .silence ∧ (bootZone v (descZone d)).baseGain = -121 := by
  simp [bootZone]

theorem bootZone_foyer (v : Settings) (f : Fin 6) : (bootZone v (foyerZone f)).baseSource = (idleBase (v.foyers.get f)).1 ∧
    (bootZone v (foyerZone f)).baseGain = (idleBase (v.foyers.get f)).2 := by
  simp [bootZone]

theorem boot_foyer (f : Fin 6) :
    (State.boot straps m draws queue).zoneUnit.foyers.get f = bootFoyer ((settingsInForce (loadImage m)).foyers.get f) :=
  Table.get_map _ _ f

/-- R195: a notice kind after start-up. -/
theorem bootNotices_kind (detail : Byte × Byte) (k : Fin 16) : (bootNotices detail).kinds.get k =
    ⟨k != kindPhase && k != kindStart, if k = kindStart then some ⟨1, detail.1, detail.2, 0⟩ else none⟩ := Table.get_ofFn _ k

theorem boot_notices (p : Port) :
    (State.boot straps m draws queue).notices.get p = bootNotices (startDetail (loadImage m)) := by cases p <;> rfl

/-- R195: START is pending and not masked, so the attention line is asserted. -/
theorem boot_attention (p : Port) : attention ((State.boot straps m draws queue).notices.get p) = true := by
  rw [boot_notices]
  rfl

/-- R35: a foyer's base after start-up goes with its idle source. -/
theorem boot_foyerBase (f : Fin 6) : ((State.boot straps m draws queue).zoneUnit.zones.get (foyerZone f)).baseSource =
      (idleBase ((State.boot straps m draws queue).zoneUnit.foyers.get f).settings).1 ∧
    ((State.boot straps m draws queue).zoneUnit.zones.get (foyerZone f)).baseGain =
      (idleBase ((State.boot straps m draws queue).zoneUnit.foyers.get f).settings).2 := by
  rw [boot_zone, boot_foyer]
  exact bootZone_foyer _ f

theorem idleBase_silence {v : FoyerSettings} (idle : v.idleSource = .silence) : idleBase v = (.silence, -121) := by
  unfold idleBase
  rw [idle]

theorem idleBase_aux {v : FoyerSettings} (idle : v.idleSource = .aux) : idleBase v = (.aux, v.idleGain) := by
  unfold idleBase
  rw [idle]

theorem boot_atResetValues : Rules.AtResetValues (State.boot straps m draws queue) := by
  refine ⟨fun h => by cases h <;> rfl,
    ⟨fun h => by cases h <;> rfl, rfl, rfl, fun z => ?_, fun l => ⟨?_, ?_⟩, fun d => ?_,
      fun f => ⟨?_, fun idle => ?_, fun idle => ?_⟩⟩,
    ⟨rfl, fun l => by cases l <;> rfl, fun z => ⟨Table.get_fill _ z, Table.get_fill _ z⟩,
      fun l => ⟨Table.get_fill _ l, Table.get_fill _ l⟩⟩,
    fun c => ?_, fun c => ?_,
    ⟨rfl, rfl, fun h => by cases h <;> exact ⟨rfl, rfl, rfl⟩, fun e => ?_, fun k => Table.get_fill _ k, fun f => Table.get_fill _ f⟩,
    ⟨rfl, rfl, rfl, rfl, fun h => by cases h <;> rfl, fun n => Table.get_fill _ n, fun n => Table.get_fill _ n⟩,
    ⟨fun c => ?_, fun d => Table.get_fill _ d, fun h => by cases h <;> rfl⟩,
    ⟨rfl, rfl, fun k => Table.get_fill _ k, fun l => Table.get_fill _ l, fun e => Table.get_fill _ e, fun d => Table.get_fill _ d⟩,
    ⟨rfl, rfl, rfl, fun i => Table.get_fill _ i, rfl, fun p => by cases p <;> rfl, rfl⟩,
    fun p => by cases p <;> rfl, fun p => ?_, rfl, rfl⟩
  · dsimp only
    rw [boot_zone]
    rfl
  · dsimp only
    rw [boot_zone]
    exact bootZone_loop _ l
  · rw [boot_loop]
    rfl
  · dsimp only
    rw [boot_zone]
    exact bootZone_desc _ d
  · rw [boot_foyer]
    rfl
  · have base := boot_foyerBase straps m draws queue f
    rwa [idleBase_silence idle] at base
  · have base := boot_foyerBase straps m draws queue f
    rwa [idleBase_aux idle] at base
  · have record : (State.boot straps m draws queue).level.sound.get c = ⟨(settingsInForce (loadImage m)).sound.get c, .quiet, 0, 0, 0⟩ :=
      Table.get_map _ _ c
    rw [record]
  · have record : (State.boot straps m draws queue).level.sense.get c = ⟨(settingsInForce (loadImage m)).sense.get c, 0, 0, 0, 0, 0⟩ :=
      Table.get_map _ _ c
    rw [record]
  · have record : (State.boot straps m draws queue).admission.entrances.get e =
        ⟨(settingsInForce (loadImage m)).entrances.get e, 0, false, false, .off⟩ := Table.get_map _ _ e
    rw [record]
  · have record : (State.boot straps m draws queue).description.channels.get c =
        ⟨(settingsInForce (loadImage m)).channels.get c, .off, none⟩ := boot_channel straps m draws queue c
    rw [record]
  · rw [boot_notices]
    refine ⟨rfl, rfl, rfl, fun k => ?_⟩
    rw [bootNotices_kind]
    refine ⟨by simp [kindPhase, kindStart], ?_⟩
    by_cases start : k = kindStart
    · simp [start, kindStart]
    · exact iff_of_false (by simp [start]) start

end

/-! ## The state after reset -/

/-- An erased flash holds no image. -/
theorem loadImage_erased : loadImage [] = .error .empty := by
  have length : bigEndian (Flash.readAll [] imageStart 2) = 0xFFFF := by simp [Flash.readAll, Flash.read, erasedByte, bigEndian]
  unfold loadImage
  rw [length]
  rfl

theorem settings_reset : settingsInForce (loadImage []) = factorySettings := by rw [loadImage_erased]; rfl

theorem resetValues_rule : Rules.ResetValues :=
  ⟨boot_atResetValues 0 [] 0 [], (currentSettings_boot 0 [] 0 []).trans settings_reset, boot_attention 0 [] 0 [], rfl, rfl⟩

theorem resetIsSafe_rule : Rules.ResetIsSafe := boot_safe 0 [] 0 [] rfl (settings_reset ▸ factorySettings_inRange)

end Sys2Proof.Machine

namespace Sys2Proof

/-- Settles O3: start-up over any flash gives the reset values, and the erased flash gives the factory defaults. -/
theorem stateAfterReset : Obligations.StateAfterReset :=
  ⟨Machine.resetIsSafe_rule, Machine.resetValues_rule, Machine.factoryDefaults_rule⟩

end Sys2Proof

/-! PROOFS. The records of ZONE_SET, LEVEL_SET, SCAN_SET, DESC_SET and DOOR_SET: what they give, and that it lies in its
range. -/

namespace Sys2Proof.Machine

theorem clampInt_fst {lo hi n : Int} (h : lo ≤ hi) : (clampInt lo hi n).1 = max lo (min hi n) := by
  unfold clampInt
  repeat' split
  all_goals dsimp only; omega

theorem clampInt_snd {lo hi n : Int} : (clampInt lo hi n).2 = true ↔ n < lo ∨ hi < n := by
  unfold clampInt
  repeat' split
  all_goals simp; omega

/-- A number lies in the range it was taken to. -/
theorem clampInt_range {lo hi : Int} (h : lo ≤ hi) (n : Int) : lo ≤ (clampInt lo hi n).1 ∧ (clampInt lo hi n).1 ≤ hi := by
  rw [clampInt_fst h]; omega

theorem clampNat_range {lo hi : Nat} (h : lo ≤ hi) (n : Nat) : lo ≤ (clampNat lo hi n).1 ∧ (clampNat lo hi n).1 ≤ hi := by
  rw [clampNat_fst h]; omega

/-- A number had to be taken into its range exactly where that changed it. -/
theorem clampInt_moved {lo hi n : Int} (h : lo ≤ hi) : (clampInt lo hi n).2 = true ↔ max lo (min hi n) ≠ n := by
  rw [clampInt_snd]; omega

theorem clampNat_moved {lo hi n : Nat} (h : lo ≤ hi) : (clampNat lo hi n).2 = true ↔ max lo (min hi n) ≠ n := by
  rw [clampNat_snd]; omega

/-! ## ZONE_SET (R30, R31, R35) -/

theorem readZoneCommon_fst (ps : List Byte) : (readZoneCommon ps).1 =
    { trim := max (-24) (min 24 (byteAt ps 1).toInt), rampDown := max 1 (min 20 (natAt ps 2))
      rampUp := max 1 (min 20 (natAt ps 3)), duckDepth := max (-60) (min 0 (byteAt ps 4).toInt) } := by
  simp [readZoneCommon, clampInt_fst, clampNat_fst, stepAt, signed]

theorem readZoneCommon_snd (ps : List Byte) : (readZoneCommon ps).2 = true ↔
    ((byteAt ps 1).toInt < -24 ∨ 24 < (byteAt ps 1).toInt) ∨ natAt ps 2 < 1 ∨ 20 < natAt ps 2 ∨ natAt ps 3 < 1 ∨
      20 < natAt ps 3 ∨ (byteAt ps 4).toInt < -60 ∨ 0 < (byteAt ps 4).toInt := by
  simp only [readZoneCommon, Bool.or_eq_true, clampInt_snd, clampNat_snd, stepAt, signed, or_assoc]

theorem readZoneCommon_inRange (ps : List Byte) : ZoneInRange (readZoneCommon ps).1 := by
  rw [readZoneCommon_fst]
  dsimp only [ZoneInRange]
  omega

theorem readLoopSettings_eq_some_iff {ps : List Byte} {x : LoopSettings × Bool} : readLoopSettings ps = some x ↔
    ∃ hall, nameAt hallNames ps 0 = some hall ∧
      x = (⟨hall, (clampNat 0 2047 (wordAt ps 9)).1⟩, (clampNat 0 2047 (wordAt ps 9)).2) := by
  unfold readLoopSettings
  simp only [Option.bind_eq_bind, Option.bind_eq_some_iff, Option.some.injEq, eq_comm (b := x)]

theorem readLoopSettings_eq_none_iff {ps : List Byte} : readLoopSettings ps = none ↔ 1 < natAt ps 0 := by
  have hall : nameAt hallNames ps 0 = none ↔ 1 < natAt ps 0 := nameAt_eq_none_iff
  rw [← hall]
  unfold readLoopSettings
  cases nameAt hallNames ps 0 <;> simp

theorem readLoopSettings_inRange {ps : List Byte} {x : LoopSettings × Bool} (read : readLoopSettings ps = some x) :
    x.1.driveLimit ≤ 2047 := by
  obtain ⟨hall, -, rfl⟩ := readLoopSettings_eq_some_iff.mp read
  exact (clampNat_range (Nat.zero_le _) _).2

theorem readFoyerSettings_eq_some_iff {ps : List Byte} {x : FoyerSettings × Bool} : readFoyerSettings ps = some x ↔
    ∃ idle quiet, nameAt idleSourceNames ps 5 = some idle ∧ optNameAt hallNames ps 8 = some quiet ∧
      x = (⟨idle, (clampInt (-121) 24 (stepAt ps 6)).1, (clampInt (-121) 24 (stepAt ps 7)).1, quiet⟩,
        (clampInt (-121) 24 (stepAt ps 6)).2 || (clampInt (-121) 24 (stepAt ps 7)).2) := by
  unfold readFoyerSettings
  simp only [Option.bind_eq_bind, Option.bind_eq_some_iff, Option.some.injEq, eq_comm (b := x), exists_and_left]

theorem readFoyerSettings_eq_none_iff {ps : List Byte} :
    readFoyerSettings ps = none ↔ 1 < natAt ps 5 ∨ (1 < natAt ps 8 ∧ natAt ps 8 ≠ 255) := by
  have idle : nameAt idleSourceNames ps 5 = none ↔ 1 < natAt ps 5 := nameAt_eq_none_iff
  have quiet : optNameAt hallNames ps 8 = none ↔ 1 < natAt ps 8 ∧ natAt ps 8 ≠ 255 := optNameAt_eq_none_iff
  rw [← idle, ← quiet]
  unfold readFoyerSettings
  cases nameAt idleSourceNames ps 5 <;> cases optNameAt hallNames ps 8 <;> simp

theorem readFoyerSettings_inRange {ps : List Byte} {x : FoyerSettings × Bool} (read : readFoyerSettings ps = some x) :
    FoyerInRange x.1 := by
  obtain ⟨idle, quiet, -, -, rfl⟩ := readFoyerSettings_eq_some_iff.mp read
  have gain := fun n => clampInt_range (lo := -121) (hi := 24) (by decide) n
  exact ⟨(gain _).1, (gain _).2, (gain _).1, (gain _).2⟩

/-- A hall byte that is taken is the code of the hall it names. -/
theorem nameAt_hall_iff {ps : List Byte} {i : Nat} {h : Hall} : nameAt hallNames ps i = some h ↔ byteAt ps i = hallByte h := by
  refine ⟨fun named => ?_, nameAt_hall⟩
  have low : natAt ps i < 2 := (List.getElem?_eq_some_iff.mp named).1
  have code : natAt ps i = (hallByte h).toNat := by
    unfold nameAt at named
    obtain e | e : natAt ps i = 0 ∨ natAt ps i = 1 := by omega
    · rw [e] at named ⊢; cases named; rfl
    · rw [e] at named ⊢; cases named; rfl
  exact BitVec.toNat_inj.mp code

theorem idleSource_of_code {ps : List Byte} {i : Nat} {v : IdleSource} (h : nameAt idleSourceNames ps i = some v) :
    v = if natAt ps i = 0 then .aux else .silence := by
  unfold nameAt at h
  match e : natAt ps i with
  | 0 => rw [e] at h; exact (Option.some.inj h).symm
  | 1 => rw [e] at h; exact (Option.some.inj h).symm
  | n + 2 => rw [e] at h; cases h

theorem optHall_of_code {ps : List Byte} {i : Nat} {v : Option Hall} (h : optNameAt hallNames ps i = some v) :
    v = match natAt ps i with | 0 => some .a | 1 => some .b | _ => none := by
  unfold optNameAt at h
  split at h
  · next none' =>
    cases h
    rw [byteAt_eq_none_iff.mp none']
    rfl
  · obtain ⟨y, named, rfl⟩ := Option.map_eq_some_iff.mp h
    match e : natAt ps i with
    | 0 => rw [e] at named; exact named.symm
    | 1 => rw [e] at named; exact named.symm
    | n + 2 => rw [e] at named; cases named

theorem zoneRecords_rule : Rules.ZoneRecords := by
  intro ps
  refine ⟨readZoneCommon_fst ps, readZoneCommon_snd ps, readLoopSettings_eq_none_iff, fun v adjusted read => ?_,
    readFoyerSettings_eq_none_iff, fun v adjusted read => ?_, fun r => ?_⟩
  · obtain ⟨hall, named, e⟩ := readLoopSettings_eq_some_iff.mp read
    cases e
    exact ⟨nameAt_hall_iff.mp named, clampNat_zero_fst _ _, clampNat_zero_snd⟩
  · obtain ⟨idle, quiet, idleNamed, quietNamed, e⟩ := readFoyerSettings_eq_some_iff.mp read
    cases e
    refine ⟨idleSource_of_code idleNamed, clampInt_fst (by decide), clampInt_fst (by decide), optHall_of_code quietNamed, ?_⟩
    rw [Bool.or_eq_true, clampInt_snd, clampInt_snd]
    exact Iff.rfl
  · unfold foyerBase idleBase
    rfl

/-! ## LEVEL_SET (R81) -/

/-- R81: a sound channel's record, each number taken to the nearer end of its range; a lower step above the upper one becomes
it. -/
theorem readSoundSettings_eq (ps : List Byte) :
    let upper := clampInt (-120) 0 (stepAt ps 0)
    let lower := clampInt (-120) 0 (stepAt ps 1)
    let sound := clampNat 1 500 (wordAt ps 2)
    let quiet := clampNat 1 500 (wordAt ps 4)
    readSoundSettings ps = (⟨upper.1, min upper.1 lower.1, sound.1, quiet.1⟩,
      upper.2 || lower.2 || decide (upper.1 < lower.1) || sound.2 || quiet.2) := by
  intro upper lower sound quiet
  unfold readSoundSettings
  dsimp only
  split
  · next above => rw [min_eq_left (le_of_lt above), decide_eq_true above, Bool.or_true, Bool.true_or, Bool.true_or]
  · next below => rw [min_eq_right (not_lt.mp below), decide_eq_false below, Bool.or_false]

theorem readSoundSettings_inRange (ps : List Byte) : SoundInRange (readSoundSettings ps).1 := by
  rw [readSoundSettings_eq]
  have step := fun n => clampInt_range (lo := -120) (hi := 0) (by decide) n
  have hold := fun n => clampNat_range (lo := 1) (hi := 500) (by decide) n
  exact ⟨le_min (step _).1 (step _).1, min_le_left _ _, (step _).2, (hold _).1, (hold _).2, (hold _).1, (hold _).2⟩

theorem readSenseSettings_inRange (ps : List Byte) : SenseInRange (readSenseSettings ps).1 := by
  have step := fun n => clampInt_range (lo := -120) (hi := 0) (by decide) n
  have hold := clampNat_range (lo := 1) (hi := 500) (by decide) (wordAt ps 3)
  exact ⟨step _, step _, step _, hold⟩

theorem levelRecords_fields (ps : List Byte) :
    let step := fun i => max (-120) (min 0 (byteAt ps i).toInt)
    let word := fun i => natAt ps i * 256 + natAt ps (i + 1)
    let hold := fun i => max 1 (min 500 (word i))
    let moved := fun i => step i ≠ (byteAt ps i).toInt
    (readSoundSettings ps).1 = { upper := step 0, lower := min (step 0) (step 1), soundHold := hold 2, quietHold := hold 4 } ∧
    ((readSoundSettings ps).2 = true ↔ moved 0 ∨ moved 1 ∨ step 0 < step 1 ∨ hold 2 ≠ word 2 ∨ hold 4 ≠ word 4) ∧
    (readSenseSettings ps).1 = { overCurrent := step 0, openStep := step 1, driveCheck := step 2, openHold := hold 3 } ∧
    ((readSenseSettings ps).2 = true ↔ moved 0 ∨ moved 1 ∨ moved 2 ∨ hold 3 ≠ word 3) := by
  intro step word hold moved
  have stepValue : ∀ i, (clampInt (-120) 0 (stepAt ps i)).1 = step i := fun i => clampInt_fst (by decide)
  have holdValue : ∀ i, (clampNat 1 500 (wordAt ps i)).1 = hold i := fun i => clampNat_fst (by decide)
  have stepMoved : ∀ i, (clampInt (-120) 0 (stepAt ps i)).2 = true ↔ moved i := fun i => clampInt_moved (by decide)
  have holdMoved : ∀ i, (clampNat 1 500 (wordAt ps i)).2 = true ↔ hold i ≠ word i := fun i => clampNat_moved (by decide)
  refine ⟨?_, ?_, ?_, ?_⟩
  · simp only [readSoundSettings_eq, stepValue, holdValue]
  · simp only [readSoundSettings_eq, Bool.or_eq_true, decide_eq_true_eq, stepValue, stepMoved, holdMoved, or_assoc]
  · simp only [readSenseSettings, stepValue, holdValue]
  · simp only [readSenseSettings, Bool.or_eq_true, stepMoved, holdMoved, or_assoc]

/-- A loop's place in the table's list. -/
theorem Table.drop_take_one {α : Type} {n : Nat} (t : Table α n) (i : Fin n) : (t.toList.drop i.val).take 1 = [t.get i] := by
  rw [List.take_one, List.head?_drop, List.getElem?_eq_getElem (by rw [t.len]; exact i.isLt)]
  rfl

theorem Table.mem_toList {α : Type} {n : Nat} {t : Table α n} {x : α} : x ∈ t.toList ↔ ∃ i, t.get i = x := by
  rw [Sys2Proof.Table.toList_eq, List.mem_map]
  simp [Table.mem_finUpTo]

theorem channelHalls_rule (s : State) : channelHalls s 0 = [.a] ∧ channelHalls s 1 = [.b] ∧
    (∀ (d : Fin 4) h, h ∈ channelHalls s (d.val + 2) ↔
      ∃ c, (channelOf s c).settings.input = some d ∧ (channelOf s c).settings.hall = h) ∧
    ∀ l : Fin 8, channelHalls s (l.val + 6) = [(s.zoneUnit.loops.get l).settings.hall] := by
  refine ⟨rfl, rfl, fun d h => ?_, fun l => ?_⟩
  · have sound : channelHalls s (d.val + 2) = (s.description.channels.toList.filter fun c =>
        c.settings.input.any fun x => decide (x.val = d.val + 2 - 2)).map fun c => c.settings.hall := by
      unfold channelHalls
      rw [if_neg (by omega), if_neg (by omega), if_pos (by omega)]
    have named : ∀ c : Channel, (c.settings.input.any fun x => decide (x.val = d.val + 2 - 2)) = true ↔
        c.settings.input = some d := fun c => by
      cases c.settings.input <;> simp [Fin.ext_iff]
    simp only [sound, List.mem_map, List.mem_filter, Table.mem_toList, named]
    constructor
    · rintro ⟨x, ⟨⟨c, rfl⟩, input⟩, hall⟩; exact ⟨c, input, hall⟩
    · rintro ⟨c, input, hall⟩; exact ⟨_, ⟨⟨c, rfl⟩, input⟩, hall⟩
  · unfold channelHalls
    rw [if_neg (by omega), if_neg (by omega), if_neg (by omega), Nat.add_sub_cancel, Table.drop_take_one]
    rfl

theorem levelRecords_rule : Rules.LevelRecords := ⟨levelRecords_fields, channelHalls_rule⟩

/-! ## Records of the other requests (R84, R121, R159) -/

theorem readTimings_inRange (ps : List Byte) : TimingsInRange (readTimings ps).1 := by
  have d := clampNat_range (lo := 5) (hi := 40) (by decide) (natAt ps 0)
  have l := clampNat_range (lo := 5) (hi := 50) (by decide) (natAt ps 1)
  have r := clampNat_range (lo := 100) (hi := 1000) (by decide) (wordAt ps 2)
  have s := clampNat_range (lo := 10) (hi := 120) (by decide) (natAt ps 4)
  exact ⟨d.1, d.2, l.1, l.2, r.1, r.2, s⟩

/-- R159: a channel's record that is taken: the hall its byte names, and its numbers taken into their ranges. -/
theorem readChannelSettings_eq_some {ps : List Byte} {x : ChannelSettings × Bool} (read : readChannelSettings ps = some x) :
    ∃ zone hall input mode, nameAt hallNames ps 1 = some hall ∧
      x = (⟨zone, hall, input, mode, (clampInt (-60) 0 (stepAt ps 4)).1, (clampInt (-24) 12 (stepAt ps 5)).1,
          (clampNat 0 10 (natAt ps 6)).1⟩,
        (clampInt (-60) 0 (stepAt ps 4)).2 || (clampInt (-24) 12 (stepAt ps 5)).2 || (clampNat 0 10 (natAt ps 6)).2) := by
  unfold readChannelSettings at read
  split at read
  · obtain ⟨zone, -, hall, named, input, -, mode, -, e⟩ := by simpa only [bind, Option.bind_eq_some_iff] using read
    exact ⟨zone, hall, input, mode, named, (Option.some.inj e).symm⟩
  · cases read

theorem readChannelSettings_inRange {ps : List Byte} {x : ChannelSettings × Bool} (read : readChannelSettings ps = some x) :
    ChannelInRange x.1 := by
  have depth := clampInt_range (lo := -60) (hi := 0) (by decide) (stepAt ps 4)
  have gain := clampInt_range (lo := -24) (hi := 12) (by decide) (stepAt ps 5)
  have grace := clampNat_range (lo := 0) (hi := 10) (by decide) (natAt ps 6)
  obtain ⟨zone, hall, input, mode, -, e⟩ := readChannelSettings_eq_some read
  cases e
  exact ⟨depth.1, depth.2, gain.1, gain.2, grace.2⟩

theorem readEntranceSettings_inRange {ps : List Byte} {x : EntranceSettings × Bool} (read : readEntranceSettings ps = some x) :
    1 ≤ x.1.quota ∧ x.1.quota ≤ 16 := by
  have quota := clampNat_range (lo := 1) (hi := 16) (by decide) (natAt ps 2)
  unfold readEntranceSettings at read
  obtain ⟨hall, -, rest⟩ := Option.bind_eq_some_iff.mp read
  split at rest
  · obtain ⟨_, _, _, _, _, _, e⟩ := by simpa only [bind, Option.bind_eq_some_iff] using rest
    cases e
    exact quota
  · split at rest
    all_goals
      obtain ⟨_, _, _, _, _, _, e⟩ := by simpa only [bind, Option.bind_eq_some_iff] using rest
      cases e
      exact quota

end Sys2Proof.Machine

/-! PROOFS. The Zone unit: phase events and bases (R33–R35, R42, R44), pushes, removals and stack reports (R38–R41). -/

namespace Sys2Proof.Machine

/-! ## Zones by kind -/

theorem zoneKind_cases (z : ZoneNo) : (∃ l, z = loopZone l) ∨ (∃ d, z = descZone d) ∨ ∃ f, z = foyerZone f := by
  by_cases loop : z.val < 8
  · exact .inl ⟨⟨z.val, loop⟩, rfl⟩
  · by_cases desc : z.val < 12
    · exact .inr (.inl ⟨⟨z.val - 8, by omega⟩, Fin.ext (show z.val = z.val - 8 + 8 by omega)⟩)
    · exact .inr (.inr ⟨⟨z.val - 12, by omega⟩, Fin.ext (show z.val = z.val - 12 + 12 by omega)⟩)

theorem descZone_inj {d e : Fin 4} : descZone d = descZone e ↔ d = e := by
  simp [descZone, Fin.ext_iff]

theorem loopZone_ne_descZone (l : Fin 8) (d : Fin 4) : loopZone l ≠ descZone d := fun e => by
  have := congrArg zoneKind e; simp at this

theorem foyerZone_ne_descZone (f : Fin 6) (d : Fin 4) : foyerZone f ≠ descZone d := fun e => by
  have := congrArg zoneKind e; simp at this

/-- The first number that meets a test. -/
theorem finUpTo_find?_eq_some_iff {n : Nat} {p : Fin n → Bool} {c : Fin n} :
    (finUpTo n).find? p = some c ↔ p c = true ∧ ∀ d, d < c → p d = false := by
  rw [List.find?_eq_some_iff_getElem]
  refine and_congr_right fun _ => ⟨?_, fun first => ?_⟩
  · rintro ⟨i, hi, e, first⟩ d lt
    rw [Table.finUpTo_get] at e
    have below : d.val < i := lt_of_lt_of_eq lt (congrArg Fin.val e).symm
    simpa [Table.finUpTo_get] using first d.val below
  · refine ⟨c.val, by rw [finUpTo_length]; exact c.isLt, Table.finUpTo_get _ _ _, fun j hj => ?_⟩
    rw [Table.finUpTo_get, first _ hj]
    rfl

theorem finUpTo_find?_eq_none_iff {n : Nat} {p : Fin n → Bool} : (finUpTo n).find? p = none ↔ ∀ c, p c = false := by
  simp [List.find?_eq_none, Table.mem_finUpTo]

/-! ## Phase events (R33, R34, R42, R44) -/

section
variable (ev : PhaseEvent) (channels : Table Channel 4) (u : ZoneUnit)

theorem takePhase_view : (u.takePhase ev channels).view = u.view.set ev.hall ev.new := by
  unfold ZoneUnit.takePhase; dsimp only; split <;> rfl

theorem takePhase_answers : (u.takePhase ev channels).pushAnswer = u.pushAnswer ∧
    (u.takePhase ev channels).removalAnswer = u.removalAnswer := by
  unfold ZoneUnit.takePhase; dsimp only; split <;> exact ⟨rfl, rfl⟩

theorem takePhase_loop (l : Fin 8) : (u.takePhase ev channels).loops.get l =
    { u.loops.get l with hushed := loopHush (u.view.set ev.hall ev.new) (u.loops.get l).settings } := by
  unfold ZoneUnit.takePhase; dsimp only; split <;> exact Table.get_map _ _ l

theorem takePhase_foyer (f : Fin 6) : (u.takePhase ev channels).foyers.get f =
    { u.foyers.get f with hushed := foyerHush (u.view.set ev.hall ev.new) (u.foyers.get f).settings } := by
  unfold ZoneUnit.takePhase; dsimp only; split <;> exact Table.get_map _ _ f

/-- R33, R34: where the hall opens or closes, its loop zones and every description zone have their bases chosen again. -/
theorem takePhase_zone (z : ZoneNo) : (u.takePhase ev channels).zones.get z =
    if ev.old = .dark ∨ ev.new = .dark then
      match zoneKind z with
      | .loop l => if (u.loops.get l).settings.hall = ev.hall then
          (u.zones.get z).withBase (loopBase (u.view.set ev.hall ev.new) (u.loops.get l).settings) else u.zones.get z
      | .desc d => (u.zones.get z).withBase (descBase (u.view.set ev.hall ev.new) channels d)
      | .foyer _ => u.zones.get z
    else u.zones.get z := by
  unfold ZoneUnit.takePhase
  dsimp only
  split
  · simp only [ZoneUnit.hush, ZoneUnit.chooseDesc, ZoneUnit.chooseLoops, Table.get_mapIdx, if_true]
    cases zoneKind z <;> rfl
  · rfl

end

theorem handHush_eq (flags : List (ZoneNo × Bool)) (s : State) : handHush flags s =
    { s with mail := { s.mail with zoneToCall := s.mail.zoneToCall ++ if flags = [] then [] else [.hush flags] } } := by
  unfold handHush
  split
  · rw [List.append_nil]
  · rfl

theorem mem_hushChanges {u v : ZoneUnit} {z : ZoneNo} {b : Bool} :
    (z, b) ∈ hushChanges u v ↔ hushedFlag u z ≠ hushedFlag v z ∧ b = hushedFlag v z := by
  simp only [hushChanges, List.mem_map, List.mem_filter, Table.mem_finUpTo, true_and, bne_iff_ne, Prod.mk.injEq]
  constructor
  · rintro ⟨_, differs, rfl, rfl⟩; exact ⟨differs, rfl⟩
  · rintro ⟨differs, rfl⟩; exact ⟨z, differs, rfl, rfl⟩

theorem hushingPhase_eq (p : Phase) : hushingPhase p = decide (p = .playing ∨ p = .gap) := by cases p <;> rfl

theorem hallBase_eq (h : Hall) : hallBase h = (match h with | .a => .hallA | .b => .hallB, 0) := by cases h <;> rfl

theorem zonePhaseEvent_rule : Obligations.ZonePhaseEvent := by
  intro s ev rest waits u view edge
  have answers := takePhase_answers ev s.description.channels u
  refine ⟨u.takePhase ev s.description.channels, hushChanges u (u.takePhase ev s.description.channels), ?_, fun _ _ => mem_hushChanges,
    takePhase_view _ _ _, answers.1, answers.2, fun l => ?_, fun f => ?_, fun l => ?_, fun d => ?_, fun f => ?_⟩
  · show execZonePhaseEvent s = _
    simp only [execZonePhaseEvent, waits, handHush_eq] <;> rfl
  · rw [takePhase_loop, loopHush, hushingPhase_eq]
  · rw [takePhase_foyer, foyerHush]
    cases (u.foyers.get f).settings.quietHall with
    | none => rfl
    | some h => simp only [hushingPhase_eq] <;> rfl
  · rw [takePhase_zone, zoneKind_loopZone]
    by_cases moved : edge
    · by_cases here : (u.loops.get l).settings.hall = ev.hall
      · rw [if_pos moved, if_pos ⟨moved, here⟩]
        simp only [loopBase, here, if_true, PerHall.get_set_self, hallBase_eq] <;> rfl
      · rw [if_pos moved, if_neg (fun k => here k.2)]
        exact if_neg here
    · rw [if_neg moved, if_neg (fun k => moved k.1)]
  · rw [takePhase_zone, zoneKind_descZone]
  · rw [takePhase_zone, zoneKind_foyerZone, ite_self]

/-! ## Bases (R34, R35) -/

theorem serves_iff {view : PerHall Phase} {channels : Table Channel 4} {d c : Fin 4} :
    ((channels.get c).settings.zone = d && view.get (channels.get c).settings.hall != .dark) = true ↔
      (channels.get c).settings.zone = d ∧ view.get (channels.get c).settings.hall ≠ .dark := by
  rw [Bool.and_eq_true, decide_eq_true_eq, bne_iff_ne]

theorem descriptionBase_rule : Rules.DescriptionBase := by
  intro view channels d serves
  refine ⟨fun c here first => ?_, fun silent => ?_⟩
  · have found : servingChannel view channels d = some c := finUpTo_find?_eq_some_iff.mpr
      ⟨serves_iff.mpr here, fun c' lt => Bool.eq_false_iff.mpr fun k => first c' lt (serves_iff.mp k)⟩
    simp only [descBase, found, hallBase_eq] <;> rfl
  · have found : servingChannel view channels d = none := finUpTo_find?_eq_none_iff.mpr fun c =>
      Bool.eq_false_iff.mpr fun k => silent c (serves_iff.mp k)
    simp only [descBase, found] <;> rfl

/-- R34: the bases of the named description zones chosen again, and no other zone changed. -/
theorem chooseDesc_zone (u : ZoneUnit) (channels : Table Channel 4) (old new : Fin 4) (z : ZoneNo) :
    (u.chooseDesc channels fun d => d = old || d = new).zones.get z =
      if z = descZone old ∨ z = descZone new then
        (u.zones.get z).withBase (match zoneKind z with | .desc d => descBase u.view channels d | _ => (.silence, -121))
      else u.zones.get z := by
  simp only [ZoneUnit.chooseDesc, Table.get_mapIdx]
  obtain ⟨l, rfl⟩ | ⟨d, rfl⟩ | ⟨f, rfl⟩ := zoneKind_cases z
  · simp [loopZone_ne_descZone]
  · simp [descZone_inj]
  · simp [foyerZone_ne_descZone]

theorem relayAndChannelChange_rule : Rules.RelayAndChannelChange := by
  intro s
  refine ⟨fun f relay rest waits => ?_, fun c rest waits => ?_⟩
  · show execRelayRequest s = _
    simp only [execRelayRequest, waits, foyerBase, idleBase] <;> rfl
  · refine ⟨_, ?_, chooseDesc_zone s.zoneUnit s.description.channels c.oldZone c.newZone⟩
    show execChannelChangeReport s = _
    simp only [execChannelChangeReport, waits] <;> rfl

/-! ## Pushes and removals (R38, R39) -/

/-- R38: an accepted push leaves each zone as it was, but for its entry on top of every target stack. -/
theorem push_accepted_zone {q : PushRequest} {s : State} (accepted : (push q s).1 = true) (z : ZoneNo) :
    (push q s).2.zoneUnit.zones.get z =
      if zoneIn z q.targets then
        { s.zoneUnit.zones.get z with stack := entryFor q (s.zoneUnit.zones.get z) :: (s.zoneUnit.zones.get z).stack }
      else s.zoneUnit.zones.get z := by
  unfold push at accepted ⊢
  dsimp only at accepted ⊢
  split at accepted
  · next sound =>
    rw [if_pos sound]
    exact Table.get_mapIdx _ _ z
  · cases accepted

theorem push_accepted_answer {q : PushRequest} {s : State} (accepted : (push q s).1 = true) :
    (push q s).2.zoneUnit.pushAnswer = some .accepted := by
  unfold push at accepted ⊢
  dsimp only at accepted ⊢
  split at accepted
  · next sound => rw [if_pos sound]; rfl
  · cases accepted

/-- R41: an accepted push hands one report of its targets. -/
theorem push_accepted_mail {q : PushRequest} {s : State} (accepted : (push q s).1 = true) :
    (push q s).2.mail = { s.mail with
      zoneToCall := s.mail.zoneToCall ++ [.report (stackReport (push q s).2.zoneUnit q.targets)]
      zoneToDescription := s.mail.zoneToDescription ++ [stackReport (push q s).2.zoneUnit q.targets] } := by
  unfold push at accepted ⊢
  dsimp only at accepted ⊢
  split at accepted
  · next sound => rw [if_pos sound]; rfl
  · cases accepted

/-- R38: a refused push names the failing zones and changes nothing else. -/
theorem push_refused {q : PushRequest} {s : State} (refused : (push q s).1 = false) :
    (push q s).2 = { s with zoneUnit := { s.zoneUnit with pushAnswer := some (.refused (pushFailures s.zoneUnit q)) } } := by
  unfold push at refused ⊢
  dsimp only at refused ⊢
  split at refused
  · cases refused
  · next failing => rw [if_neg failing]; rfl

theorem hushedFor_iff {u : ZoneUnit} {z : ZoneNo} {priority : Nat} {exempt : Bool} :
    hushedFor u z priority exempt = true ↔ hushedFlag u z = true ∧ priority < 6 ∧ exempt = false := by
  simp [hushedFor, and_assoc]

section
variable (u : ZoneUnit) (q : PushRequest) (z : ZoneNo)

/-! R38: the four tests of a zone. -/

def StackFull : Prop := 3 ≤ (u.zones.get z).stack.length
def PriorityLow : Prop := ∃ top, (u.zones.get z).stack.head? = some top ∧ q.priority ≤ top.priority
def OwnerHere : Prop := ∃ e ∈ (u.zones.get z).stack, e.owner = q.owner
def HushedHere : Prop := hushedFlag u z = true ∧ q.priority < 6 ∧ q.exempt = false

/-- R38: the first test failed, in the order FULL, PRIORITY, OWNER, HUSHED. -/
theorem pushTest_eq_some_iff {f : PushFailure} : pushTest u q z = some f ↔
    match f with
    | .full => StackFull u z
    | .priority => ¬StackFull u z ∧ PriorityLow u q z
    | .owner => ¬StackFull u z ∧ ¬PriorityLow u q z ∧ OwnerHere u q z
    | .hushed => ¬StackFull u z ∧ ¬PriorityLow u q z ∧ ¬OwnerHere u q z ∧ HushedHere u q z := by
  have low : ((u.zones.get z).stack.head?.any fun t => decide (q.priority ≤ t.priority)) = true ↔ PriorityLow u q z := by
    simp [PriorityLow, Option.any_eq_true]
  have here : ((u.zones.get z).stack.any fun e => decide (e.owner = q.owner)) = true ↔ OwnerHere u q z := by
    simp [OwnerHere]
  have hushed : hushedFor u z q.priority q.exempt = true ↔ HushedHere u q z := hushedFor_iff
  have full : 3 ≤ (u.zones.get z).stack.length ↔ StackFull u z := Iff.rfl
  unfold pushTest
  dsimp only
  by_cases isFull : StackFull u z
  · rw [if_pos (full.mpr isFull)]; cases f <;> simp [isFull]
  rw [if_neg (mt full.mp isFull)]
  by_cases isLow : PriorityLow u q z
  · rw [if_pos (low.mpr isLow)]; cases f <;> simp [isFull, isLow]
  rw [if_neg (mt low.mp isLow)]
  by_cases isHere : OwnerHere u q z
  · rw [if_pos (here.mpr isHere)]; cases f <;> simp [isFull, isLow, isHere]
  rw [if_neg (mt here.mp isHere)]
  by_cases isHushed : HushedHere u q z
  · rw [if_pos (hushed.mpr isHushed)]; cases f <;> simp [isFull, isLow, isHere, isHushed]
  · rw [if_neg (mt hushed.mp isHushed)]; cases f <;> simp [isFull, isLow, isHere, isHushed]

theorem pushTest_eq_none_iff : pushTest u q z = none ↔
    ¬StackFull u z ∧ ¬PriorityLow u q z ∧ ¬OwnerHere u q z ∧ ¬HushedHere u q z := by
  have test := fun f => pushTest_eq_some_iff u q z (f := f)
  rw [Option.eq_none_iff_forall_ne_some]
  constructor
  · intro passes
    have full := mt (test .full).mpr (passes _)
    have low := fun k => passes _ ((test .priority).mpr ⟨full, k⟩)
    have here := fun k => passes _ ((test .owner).mpr ⟨full, low, k⟩)
    exact ⟨full, low, here, fun k => passes _ ((test .hushed).mpr ⟨full, low, here, k⟩)⟩
  · rintro ⟨full, low, here, hushed⟩ f fails
    have fails := (test f).mp fails
    cases f with
    | full => exact full fails
    | priority => exact low fails.2
    | owner => exact here fails.2.2
    | hushed => exact hushed fails.2.2.2

end

theorem mem_pushFailures {u : ZoneUnit} {q : PushRequest} {z : ZoneNo} {f : PushFailure} :
    (z, f) ∈ pushFailures u q ↔ zoneIn z q.targets = true ∧ pushTest u q z = some f := by
  simp only [pushFailures, List.mem_filterMap, mem_zonesOf, Option.map_eq_some_iff, Prod.mk.injEq]
  constructor
  · rintro ⟨_, target, _, fails, rfl, rfl⟩; exact ⟨target, fails⟩
  · rintro ⟨target, fails⟩; exact ⟨z, target, f, fails, rfl, rfl⟩

theorem pushIsAllOrNothing_rule : Rules.PushIsAllOrNothing := by
  intro q s u v passes failed
  refine ⟨?_, fun accepted => ⟨push_accepted_answer accepted, push_accepted_zone accepted⟩, fun refused =>
    ⟨_, push_refused refused, fun z f => ?_⟩⟩
  · rw [push_accepted_iff]
    refine forall_congr' fun z => imp_congr_right fun _ => ?_
    rw [pushTest_eq_none_iff]
    have full : ¬StackFull u z ↔ (u.zones.get z).stack.length < 3 := Nat.not_le
    have low : ¬PriorityLow u q z ↔ ∀ top, (u.zones.get z).stack.head? = some top → top.priority < q.priority := by
      simp [PriorityLow]
    have here : ¬OwnerHere u q z ↔ ∀ e ∈ (u.zones.get z).stack, e.owner ≠ q.owner := by simp [OwnerHere]
    have hushed : ¬HushedHere u q z ↔ hushedFlag u z = false ∨ 6 ≤ q.priority ∨ q.exempt = true := by
      simp only [HushedHere, not_and_or, Bool.not_eq_true, Nat.not_lt, Bool.not_eq_false]
    exact and_congr full (and_congr low (and_congr here hushed))
  · rw [mem_pushFailures, pushTest_eq_some_iff]
    cases f <;> exact Iff.rfl

theorem holdsOn_iff {u : ZoneUnit} {owner : Owner} {z : ZoneNo} :
    holdsOn u owner z = true ↔ ∃ e ∈ (u.zones.get z).stack, e.owner = owner := by
  simp [holdsOn]

/-- R39: the zones where a removal finds an entry of the owner. -/
theorem zoneIn_removedZones {u : ZoneUnit} {owner : Owner} {zones : ZoneSet} {z : ZoneNo} :
    zoneIn z (removedZones u owner zones) = true ↔ zoneIn z zones = true ∧ ∃ e ∈ (u.zones.get z).stack, e.owner = owner := by
  rw [removedZones, zoneIn_zoneSetOf, Bool.and_eq_true, holdsOn_iff]

/-- R39: a removal that finds nothing answers so and changes nothing else. -/
theorem remove_absent {owner : Owner} {zones : ZoneSet} {s : State} (absent : removedZones s.zoneUnit owner zones = 0) :
    remove owner zones s = { s with zoneUnit := { s.zoneUnit with removalAnswer := some .notPresent } } := if_pos absent

/-- R39, R41: a removal that finds an entry takes it out of every named stack and reports the change. -/
theorem remove_present {owner : Owner} {zones : ZoneSet} {s : State} (present : removedZones s.zoneUnit owner zones ≠ 0) :
    remove owner zones s = handReport (removedZones s.zoneUnit owner zones)
      (setZoneUnit { s.zoneUnit.takeOut owner zones with removalAnswer := some .removed } s) := if_neg present

theorem zoneSet_ne_zero {a : ZoneSet} : a ≠ 0 ↔ ∃ z, zoneIn z a = true := by
  rw [ne_eq, zoneSet_eq_zero]
  simp

theorem removalTakesOwnersEntries_rule : Rules.RemovalTakesOwnersEntries := by
  intro owner zones s u t found
  have present : found ↔ removedZones u owner zones ≠ 0 := by
    rw [zoneSet_ne_zero]
    exact exists_congr fun z => zoneIn_removedZones.symm
  refine ⟨fun k => ?_, fun k => remove_absent (not_not.mp (mt present.mpr k))⟩
  have taken : t = _ := remove_present (present.mp k)
  rw [taken]
  refine ⟨rfl, fun z => (Table.get_mapIdx _ _ z).trans ?_⟩
  simp only [bne, beq_eq_decide, ne_eq, decide_not] <;> rfl

/-! ## Stack reports (R41) -/

/-- R41: a report's coverage: of each owner with an entry in a reported zone, the zones where its entry is on top. -/
theorem stackReport_coverage (u : ZoneUnit) (zones : ZoneSet) :
    (∀ o zs, (o, zs) ∈ (stackReport u zones).coverage → ∀ z, zoneIn z zs = true ↔
      ∃ e, (u.zones.get z).stack.head? = some e ∧ e.owner = o) ∧
    ∀ o, (∃ zs, (o, zs) ∈ (stackReport u zones).coverage) ↔
      ∃ z, zoneIn z zones = true ∧ ∃ e ∈ (u.zones.get z).stack, e.owner = o := by
  refine ⟨fun o zs listed z => ?_, fun o => ?_⟩
  · obtain ⟨_, -, e⟩ := List.mem_map.mp listed
    cases e
    rw [coverage, zoneIn_zoneSetOf]
    simp [ZoneRecord.top, Option.any_eq_true]
  · have listed : (∃ zs, (o, zs) ∈ (stackReport u zones).coverage) ↔ o ∈ ownersOn u zones := by
      simp [stackReport]
    rw [listed]
    simp [ownersOn, List.mem_eraseDups, mem_zonesOf]

theorem stackReportGivesCoverage_rule : Obligations.StackReportGivesCoverage := by
  intro s reports
  refine ⟨fun q accepted => ⟨_, push_accepted_mail accepted, stackReport_coverage _ _⟩, fun q refused => ?_,
    fun owner zones changed isChanged => ?_⟩
  · rw [push_refused refused]
  · have same : removedZones s.zoneUnit owner zones = changed := zoneSet_ext fun z =>
      Bool.eq_iff_iff.mpr (zoneIn_removedZones.trans (isChanged z).symm)
    refine ⟨fun some' => ?_, fun none' => ?_⟩
    · show reports _ _
      rw [remove_present (same ▸ some'), same]
      exact ⟨_, rfl, stackReport_coverage _ _⟩
    · rw [remove_absent (same.trans none')]

end Sys2Proof.Machine

namespace Sys2Proof

/-- Settles O12: each field that the event's taking leaves, by the zone's kind. -/
theorem zonePhaseEvent : Obligations.ZonePhaseEvent := Machine.zonePhaseEvent_rule

/-- Settles O13: the serving channel is the first that serves; the commands take the oldest request or report. -/
theorem basesOfZones : Obligations.BasesOfZones := ⟨Machine.descriptionBase_rule, Machine.relayAndChannelChange_rule⟩

/-- Settles O14: the four tests of a zone, and the two outcomes of a push and of a removal. -/
theorem pushesAndRemovals : Obligations.PushesAndRemovals :=
  ⟨Machine.pushIsAllOrNothing_rule, Machine.removalTakesOwnersEntries_rule⟩

/-- Settles O15: the report lists every owner with an entry in a changed zone, with the zones where it is on top. -/
theorem stackReportGivesCoverage : Obligations.StackReportGivesCoverage := Machine.stackReportGivesCoverage_rule

end Sys2Proof

/-! PROOFS. ZONE_SET and LEVEL_SET (R30, R31, R81). -/

namespace Sys2Proof.Machine

@[simp] theorem servedDark_withoutRequest (p : Port) (s : State) (z : ZoneNo) (ps : List Byte) :
    servedDark (withoutRequest p s) z ps = servedDark s z ps := rfl

@[simp] theorem channelHalls_withoutRequest (p : Port) (s : State) (n : Nat) :
    channelHalls (withoutRequest p s) n = channelHalls s n := rfl

@[simp] theorem hallDark_withoutRequest (p : Port) (s : State) (h : Hall) :
    hallDark (withoutRequest p s) h = hallDark s h := rfl

/-! ## ZONE_SET (R31) -/

section
variable {ps : List Byte} {z : ZoneNo} (named : natAt ps 0 = z.val) (s : State)
include named

theorem zoneSet_named : zoneSet ps s =
    if saving s then refuse .busy s
    else if !servedDark s z (ps.drop 1) || (s.zoneUnit.zones.get z).stack != [] then refuse .state s
    else match writeSettings z (ps.drop 1) s.zoneUnit with
      | some w => accept w.2 [] (setZoneUnit w.1 s)
      | none => refuse .range s := by
  unfold zoneSet
  simp only [finUpTo_eq_some_iff.mpr named] <;> rfl

variable {s} (free : saving s = false)
include free

theorem zoneSet_state (k : servedDark s z (ps.drop 1) = false ∨ (s.zoneUnit.zones.get z).stack ≠ []) :
    zoneSet ps s = refuse .state s := by
  have test : (!servedDark s z (ps.drop 1) || (s.zoneUnit.zones.get z).stack != []) = true := by simpa using k
  rw [zoneSet_named named, free, test]
  rfl

variable (dark : servedDark s z (ps.drop 1) = true) (empty : (s.zoneUnit.zones.get z).stack = [])
include dark empty

theorem zoneSet_unwritten (unread : writeSettings z (ps.drop 1) s.zoneUnit = none) : zoneSet ps s = refuse .range s := by
  rw [zoneSet_named named, free, dark, empty, unread]
  rfl

theorem zoneSet_written {u : ZoneUnit} {adjusted : Bool}
    (written : writeSettings z (ps.drop 1) s.zoneUnit = some (u, adjusted)) :
    zoneSet ps s = accept adjusted [] (setZoneUnit u s) := by
  rw [zoneSet_named named, free, dark, empty, written]
  rfl

end

section
variable {z : ZoneNo} (ps : List Byte) (u : ZoneUnit)

theorem writeSettings_loop {l : Fin 8} (kind : zoneKind z = .loop l) : writeSettings z ps u =
    (readLoopSettings ps).map fun x =>
      ({ u with
          zones := u.zones.modify z fun r => { r with settings := (readZoneCommon ps).1 }
          loops := u.loops.modify l fun r => { r with settings := x.1 } }, (readZoneCommon ps).2 || x.2) := by
  unfold writeSettings
  rw [kind]
  rfl

theorem writeSettings_desc {d : Fin 4} (kind : zoneKind z = .desc d) : writeSettings z ps u =
    some ({ u with zones := u.zones.modify z fun r => { r with settings := (readZoneCommon ps).1 } },
      (readZoneCommon ps).2) := by
  unfold writeSettings
  rw [kind]
  rfl

/-- R31, R35: a foyer's settings written give its zone its base. -/
theorem writeSettings_foyer {f : Fin 6} (kind : zoneKind z = .foyer f) : writeSettings z ps u =
    (readFoyerSettings ps).map fun x =>
      ({ u with
          zones := (u.zones.modify z fun r => { r with settings := (readZoneCommon ps).1 }).modify z fun q =>
            q.withBase (foyerBase { u.foyers.get f with settings := x.1 })
          foyers := u.foyers.set f { u.foyers.get f with settings := x.1 } }, (readZoneCommon ps).2 || x.2) := by
  unfold writeSettings
  rw [kind]
  rfl

end

/-- R31: ZONE_SET where its tests pass: the request refused where the settings cannot be read, and otherwise the Zone unit they
give. -/
theorem zoneSetAsked {s : State} {p : Port} {ps : List Byte} {z : ZoneNo} (asks : Asks s p 0x20 ps)
    (named : natAt ps 0 = z.val) (free : saving s = false) (dark : servedDark s z (ps.drop 1) = true)
    (empty : (s.zoneUnit.zones.get z).stack = []) :
    (writeSettings z (ps.drop 1) s.zoneUnit = none → exec (.zoneSet p) s = .next (replied p .range [] s)) ∧
    ∀ u adjusted, writeSettings z (ps.drop 1) s.zoneUnit = some (u, adjusted) →
      exec (.zoneSet p) s = .next { replied p (done adjusted) [] s with zoneUnit := u } :=
  ⟨fun unread => asks.refused (zoneSet_unwritten named free dark empty unread), fun u _ written =>
    asks.accepted (setZoneUnit u) (zoneSet_written (s := withoutRequest p s) named free dark empty written) fun _ => rfl⟩

theorem zoneSetRequest_rule : Rules.ZoneSetRequest := by
  intro s p ps asks u rest
  refine ⟨fun bad => asks.refused ?_, fun z named => ⟨fun busy => asks.refused ?_, fun free unfit =>
    asks.refused (zoneSet_state named free unfit), fun free dark empty => ?_⟩⟩
  · unfold zoneSet
    rw [finUpTo_eq_none_iff.mpr bad]
  · rw [zoneSet_named named, saving_withoutRequest, busy]
    rfl
  · obtain ⟨unread, taken⟩ := zoneSetAsked asks named free dark empty
    refine ⟨fun d kind => ?_, fun l kind => ⟨fun none' => unread ?_, fun set adjusted read => ?_⟩, fun f kind =>
      ⟨fun none' => unread ?_, fun set adjusted read => ?_⟩⟩
    · exact taken _ _ (writeSettings_desc rest u kind)
    · rw [writeSettings_loop rest u kind, none']; rfl
    · exact taken _ _ (by rw [writeSettings_loop rest u kind, read]; rfl)
    · rw [writeSettings_foyer rest u kind, none']; rfl
    · exact taken _ _ (by rw [writeSettings_foyer rest u kind, read]; rfl)

/-! ## The DARK test (R30) -/

/-- R30: the test asks each hall served before and each hall served after. -/
theorem servedDark_iff {s : State} {z : ZoneNo} {ps : List Byte} : servedDark s z ps = true ↔
    (∀ h ∈ servedHalls s z (ownHall s.zoneUnit z), s.zoneUnit.view.get h = .dark) ∧
      ∀ h ∈ servedHalls s z (newHall z ps), s.zoneUnit.view.get h = .dark := by
  simp only [servedDark, List.all_eq_true, List.mem_append, decide_eq_true_eq, or_imp, forall_and]

theorem mem_servedHalls_loop {s : State} {z : ZoneNo} {l : Fin 8} (kind : zoneKind z = .loop l) {own : Option Hall} {h : Hall} :
    h ∈ servedHalls s z own ↔ own = some h := by
  simp only [servedHalls, kind, Option.mem_toList]

theorem mem_servedHalls_desc {s : State} {z : ZoneNo} {d : Fin 4} (kind : zoneKind z = .desc d) {own : Option Hall} {h : Hall} :
    h ∈ servedHalls s z own ↔ ∃ c, (channelOf s c).settings.zone = d ∧ (channelOf s c).settings.hall = h := by
  simp only [servedHalls, kind, List.mem_map, List.mem_filter, Table.mem_toList, decide_eq_true_eq]
  constructor
  · rintro ⟨_, ⟨⟨c, rfl⟩, zone⟩, hall⟩; exact ⟨c, zone, hall⟩
  · rintro ⟨c, zone, hall⟩; exact ⟨_, ⟨⟨c, rfl⟩, zone⟩, hall⟩

theorem mem_servedHalls_foyer {s : State} {z : ZoneNo} {f : Fin 6} (kind : zoneKind z = .foyer f) {own : Option Hall}
    {h : Hall} : h ∈ servedHalls s z own ↔ (∃ e, (s.admission.entrances.get e).settings.zone = some f ∧
      (s.admission.entrances.get e).settings.hall = h) ∨ own = some h := by
  simp only [servedHalls, kind, List.mem_append, List.mem_map, List.mem_filter, Table.mem_toList, decide_eq_true_eq,
    Option.mem_toList]
  refine or_congr ⟨?_, ?_⟩ Iff.rfl
  · rintro ⟨_, ⟨⟨e, rfl⟩, zone⟩, hall⟩; exact ⟨e, zone, hall⟩
  · rintro ⟨e, zone, hall⟩; exact ⟨_, ⟨⟨e, rfl⟩, zone⟩, hall⟩

theorem servedHallsDark_rule : Rules.ServedHallsDark := by
  intro s z ps dark
  dsimp only
  refine ⟨fun l kind => ?_, fun d kind => ?_, fun f kind => ?_⟩
  · have own : ownHall s.zoneUnit z = some (s.zoneUnit.loops.get l).settings.hall := by rw [ownHall, kind]
    have new : newHall z ps = nameAt hallNames ps 0 := by rw [newHall, kind]
    rw [servedDark_iff, own, new]
    simp only [mem_servedHalls_loop kind, nameAt_hall_iff, Option.some.injEq, forall_eq']
    exact Iff.rfl
  · rw [servedDark_iff]
    simp only [mem_servedHalls_desc kind, and_self, forall_exists_index, and_imp]
    exact ⟨fun all c zone => all _ c zone rfl, fun all h c zone hall => hall ▸ all c zone⟩
  · have own : ownHall s.zoneUnit z = (s.zoneUnit.foyers.get f).settings.quietHall := by rw [ownHall, kind]
    have new : newHall z ps = nameAt hallNames ps 8 := by rw [newHall, kind]
    rw [servedDark_iff, own, new]
    simp only [mem_servedHalls_foyer kind, nameAt_hall_iff, or_imp, forall_and, forall_exists_index, and_imp]
    constructor
    · rintro ⟨⟨entrances, quiet⟩, -, given⟩
      exact ⟨fun e zone => entrances _ e zone rfl, quiet, given⟩
    · rintro ⟨entrances, quiet, given⟩
      have all : ∀ h e, (s.admission.entrances.get e).settings.zone = some f →
          (s.admission.entrances.get e).settings.hall = h → s.zoneUnit.view.get h = .dark :=
        fun _ e zone hall => hall ▸ entrances e zone
      exact ⟨⟨all, quiet⟩, all, given⟩

/-! ## LEVEL_SET (R81) -/

section
variable {n : Byte} {ps : List Byte} {s : State}

/-- R81: a channel number out of range, or a record not of its kind's length. -/
theorem levelSet_badForm (bad : 13 < n.toNat ∨ (n.toNat < 6 ∧ ps.length ≠ 6) ∨ (6 ≤ n.toNat ∧ ps.length ≠ 5)) :
    levelSet (n :: ps) s = refuse .range s := by
  have form : 13 < n.toNat ∨ (n :: ps).length ≠ (if n.toNat < 6 then 7 else 6) := by
    rw [List.length_cons]
    split <;> omega
  exact if_pos form

variable (good : n.toNat ≤ 13) (length : ps.length = if n.toNat < 6 then 6 else 5)
include good length

theorem levelSet_wellFormed : levelSet (n :: ps) s =
    if saving s then refuse .busy s
    else if (channelHalls s n.toNat).any fun h => !hallDark s h then refuse .state s
    else match (finUpTo 6)[n.toNat]?, (finUpTo 8)[n.toNat - 6]? with
      | some c, _ =>
        let v := readSoundSettings ps
        accept v.2 [] (setSound c { s.level.sound.get c with settings := v.1, run := 0 } s)
      | none, some l =>
        let v := readSenseSettings ps
        accept v.2 []
          (setLevel { s.level with sense := s.level.sense.set l { s.level.sense.get l with settings := v.1, openRun := 0 } } s)
      | none, none => refuse .range s := by
  have form : ¬(13 < n.toNat ∨ (n :: ps).length ≠ (if n.toNat < 6 then 7 else 6)) := by
    rw [List.length_cons, length]
    split <;> omega
  exact (if_neg form).trans rfl

theorem levelSet_busy (busy : saving s = true) : levelSet (n :: ps) s = refuse .busy s := by
  rw [levelSet_wellFormed good length, busy]
  rfl

variable (free : saving s = false)
include free

theorem levelSet_notDark (k : ∃ h ∈ channelHalls s n.toNat, hallDark s h = false) :
    levelSet (n :: ps) s = refuse .state s := by
  have test : ((channelHalls s n.toNat).any fun h => !hallDark s h) = true := by simpa using k
  rw [levelSet_wellFormed good length, free, test]
  rfl

variable (dark : ∀ h ∈ channelHalls s n.toNat, hallDark s h = true)
include dark

theorem levelSet_sound {c : Fin 6} (number : n.toNat = c.val) : levelSet (n :: ps) s =
    accept (readSoundSettings ps).2 []
      (setSound c { s.level.sound.get c with settings := (readSoundSettings ps).1, run := 0 } s) := by
  have test : ((channelHalls s n.toNat).any fun h => !hallDark s h) = false := by simpa using dark
  rw [levelSet_wellFormed good length, free, test, finUpTo_eq_some_iff.mpr number]
  rfl

theorem levelSet_sense {l : Fin 8} (number : n.toNat = l.val + 6) : levelSet (n :: ps) s =
    accept (readSenseSettings ps).2 [] (setLevel { s.level with
      sense := s.level.sense.set l { s.level.sense.get l with settings := (readSenseSettings ps).1, openRun := 0 } } s) := by
  have test : ((channelHalls s n.toNat).any fun h => !hallDark s h) = false := by simpa using dark
  have notSound : (finUpTo 6)[n.toNat]? = none := finUpTo_eq_none_iff.mpr (by omega)
  have sense : (finUpTo 8)[n.toNat - 6]? = some l := finUpTo_eq_some_iff.mpr (by omega)
  rw [levelSet_wellFormed good length, free, test, notSound, sense]
  rfl

end

theorem levelSetRequest_rule : Rules.LevelSetRequest := by
  intro s p n ps asks
  refine ⟨fun bad => asks.refused (levelSet_badForm bad), fun good length => ⟨fun busy =>
    asks.refused (levelSet_busy good length busy), fun free unfit => asks.refused (levelSet_notDark good length free unfit),
    fun free dark => ⟨fun c number => ?_, fun l number => ?_⟩⟩⟩
  · exact asks.accepted (setSound c _) (levelSet_sound (s := withoutRequest p s) good length free dark number) fun _ => rfl
  · exact asks.accepted (setLevel _) (levelSet_sense (s := withoutRequest p s) good length free dark number) fun _ => rfl

end Sys2Proof.Machine

namespace Sys2Proof

/-- Settles O17: each request's tests in their order, each record through its reader. -/
theorem zoneAndLevelSettings : Obligations.ZoneAndLevelSettings :=
  ⟨Machine.zoneSetRequest_rule, Machine.zoneRecords_rule, Machine.servedHallsDark_rule, Machine.levelSetRequest_rule,
    Machine.levelRecords_rule⟩

end Sys2Proof

/-! PROOFS. What keeps the laws: one relation between two states that says each law of the units passes from one to the other,
closed under composition. -/

namespace Sys2Proof.Machine

/-! ## The laws, unit by unit -/

/-- A channel that is LIVE or GRACE: it holds an overlay (R155). -/
def onAir (t : TalkState) : Bool := t = .live || t = .grace

/-- R155: a channel's part in `ChannelLaw` that its overlay and its record have, whatever the view of its hall. -/
structure OverlayLaw (zones : Table ZoneRecord 18) (channels : Table Channel 4) (c : Fin 4) : Prop where
  overlay : ∀ z, ((zones.get z).stack.any fun e => e.owner = .channel c) =
    (z = descZone (channels.get c).settings.zone && onAir (channels.get c).talk)
  expiry : (channels.get c).expiry.isSome = ((channels.get c).talk = .grace : Bool)

/-- R162: a channel is OFF while its hall is DARK in the unit's view. -/
def DarkLaw (view : PerHall DescView) (channels : Table Channel 4) (c : Fin 4) : Prop :=
  (view.get (channels.get c).settings.hall).phase = .dark → (channels.get c).talk = .off

abbrev OverlaysLaw (s : State) : Prop := ∀ c, OverlayLaw s.zoneUnit.zones s.description.channels c

abbrev DarksLaw (s : State) : Prop := ∀ c, DarkLaw s.description.view s.description.channels c

theorem channelLaws_iff {s : State} : (∀ c, ChannelLaw s c) ↔ OverlaysLaw s ∧ DarksLaw s :=
  ⟨fun law => ⟨fun c => ⟨(law c).overlay, (law c).expiry⟩, fun c => (law c).dark⟩, fun law c =>
    ⟨(law.1 c).overlay, (law.1 c).expiry, law.2 c⟩⟩

abbrev PortsLaw (s : State) : Prop := ∀ p, PortLaw (s.ports.get p)

/-- R83, R84: the settings of all entrances together. -/
structure DoorsInRange (doors : Fin 12 → EntranceSettings) : Prop where
  quotas : ∀ e, 1 ≤ (doors e).quota ∧ (doors e).quota ≤ 16
  lamps : ∀ e f, (doors e).lamp ≠ none → (doors e).lamp = (doors f).lamp → e = f
  foyersOneHall : ∀ e f, (doors e).zone ≠ none → (doors e).zone = (doors f).zone → (doors e).hall = (doors f).hall

/-- R21. -/
abbrev PlanInRange (steps : List PlanStep) : Prop := steps.length ≤ 6 ∧ ∀ st ∈ steps, PlanStepInRange st

abbrev HallsLaw (s : State) : Prop := ∀ h, HallInRange (s.programme.halls.get h).settings
abbrev PlansLaw (s : State) : Prop := ∀ p, PlanInRange (s.programme.plans.get p)
abbrev ZonesLaw (s : State) : Prop := ∀ z, ZoneInRange (s.zoneUnit.zones.get z).settings
abbrev LoopsLaw (s : State) : Prop := ∀ l, (s.zoneUnit.loops.get l).settings.driveLimit ≤ 2047
abbrev FoyersLaw (s : State) : Prop := ∀ f, FoyerInRange (s.zoneUnit.foyers.get f).settings
abbrev DoorsLaw (s : State) : Prop := DoorsInRange fun e => (s.admission.entrances.get e).settings
abbrev SoundLaw (s : State) : Prop := ∀ c, SoundInRange (s.level.sound.get c).settings
abbrev SenseLaw (s : State) : Prop := ∀ l, SenseInRange (s.level.sense.get l).settings
abbrev TimingsLaw (s : State) : Prop := TimingsInRange s.panel.timings
abbrev ChannelSettingsLaw (s : State) : Prop := ∀ c, ChannelInRange (s.description.channels.get c).settings

/-- The settings within their ranges, as the units hold them. -/
structure UnitsInRange (s : State) : Prop where
  halls : HallsLaw s
  plans : PlansLaw s
  zones : ZonesLaw s
  loops : LoopsLaw s
  foyers : FoyersLaw s
  doors : DoorsLaw s
  sound : SoundLaw s
  sense : SenseLaw s
  timings : TimingsLaw s
  channels : ChannelSettingsLaw s

theorem UnitsInRange.settings {s : State} (law : UnitsInRange s) : SettingsLaw s where
  halls h := by cases h; exacts [law.halls .a, law.halls .b]
  quotas e := by simpa [currentSettings] using law.doors.quotas e
  lamps e f := by simpa [currentSettings] using law.doors.lamps e f
  foyersOneHall e f := by simpa [currentSettings] using law.doors.foyersOneHall e f
  zones z := by simpa [currentSettings] using law.zones z
  loops l := by simpa [currentSettings] using law.loops l
  foyers f := by simpa [currentSettings] using law.foyers f
  sound c := by simpa [currentSettings] using law.sound c
  sense l := by simpa [currentSettings] using law.sense l
  timings := law.timings
  channels c := by simpa [currentSettings] using law.channels c
  plans := law.plans

theorem unitsInRange_of_settings {s : State} (law : SettingsLaw s) : UnitsInRange s where
  halls h := by cases h; exacts [law.halls .a, law.halls .b]
  plans := law.plans
  zones z := by simpa [currentSettings] using law.zones z
  loops l := by simpa [currentSettings] using law.loops l
  foyers f := by simpa [currentSettings] using law.foyers f
  doors :=
    { quotas := fun e => by simpa [currentSettings] using law.quotas e
      lamps := fun e f => by simpa [currentSettings] using law.lamps e f
      foyersOneHall := fun e f => by simpa [currentSettings] using law.foyersOneHall e f }
  sound c := by simpa [currentSettings] using law.sound c
  sense l := by simpa [currentSettings] using law.sense l
  timings := law.timings
  channels c := by simpa [currentSettings] using law.channels c

/-! ## What keeps the laws -/

/-- Each law passes from one state to the next, but for those of the channels. A law that speaks of nothing that changes passes
by itself: a proof takes it from `KeepsUnits.refl`. -/
structure KeepsUnits (s t : State) : Prop where
  stack : StacksLaw s → StacksLaw t
  store : StoreLaw s → StoreLaw t
  flash : FlashLaw s → FlashLaw t
  ports : PortsLaw s → PortsLaw t
  halls : HallsLaw s → HallsLaw t
  plans : PlansLaw s → PlansLaw t
  zones : ZonesLaw s → ZonesLaw t
  loops : LoopsLaw s → LoopsLaw t
  foyers : FoyersLaw s → FoyersLaw t
  doors : DoorsLaw s → DoorsLaw t
  sound : SoundLaw s → SoundLaw t
  sense : SenseLaw s → SenseLaw t
  timings : TimingsLaw s → TimingsLaw t
  settings : ChannelSettingsLaw s → ChannelSettingsLaw t

/-- Each law passes from one state to the next. -/
structure Keeps (s t : State) : Prop extends KeepsUnits s t where
  channels : OverlaysLaw s ∧ DarksLaw s → OverlaysLaw t ∧ DarksLaw t

theorem KeepsUnits.refl (s : State) : KeepsUnits s s := ⟨id, id, id, id, id, id, id, id, id, id, id, id, id, id⟩

theorem KeepsUnits.trans {s t u : State} (a : KeepsUnits s t) (b : KeepsUnits t u) : KeepsUnits s u where
  stack := b.stack ∘ a.stack
  store := b.store ∘ a.store
  flash := b.flash ∘ a.flash
  ports := b.ports ∘ a.ports
  halls := b.halls ∘ a.halls
  plans := b.plans ∘ a.plans
  zones := b.zones ∘ a.zones
  loops := b.loops ∘ a.loops
  foyers := b.foyers ∘ a.foyers
  doors := b.doors ∘ a.doors
  sound := b.sound ∘ a.sound
  sense := b.sense ∘ a.sense
  timings := b.timings ∘ a.timings
  settings := b.settings ∘ a.settings

theorem Keeps.refl (s : State) : Keeps s s := ⟨.refl s, id⟩

theorem Keeps.trans {s t u : State} (a : Keeps s t) (b : Keeps t u) : Keeps s u where
  toKeepsUnits := a.toKeepsUnits.trans b.toKeepsUnits
  channels := b.channels ∘ a.channels

theorem foldl_keeps {α : Type} {f : State → α → State} (step : ∀ s a, Keeps s (f s a)) (l : List α) (s : State) :
    Keeps s (l.foldl f s) := foldl_frame Keeps.refl Keeps.trans step l s

theorem KeepsUnits.unitsInRange {s t : State} (k : KeepsUnits s t) (law : UnitsInRange s) : UnitsInRange t where
  halls := k.halls law.halls
  plans := k.plans law.plans
  zones := k.zones law.zones
  loops := k.loops law.loops
  foyers := k.foyers law.foyers
  doors := k.doors law.doors
  sound := k.sound law.sound
  sense := k.sense law.sense
  timings := k.timings law.timings
  channels := k.settings law.channels

theorem KeepsUnits.settingsLaw {s t : State} (k : KeepsUnits s t) (law : SettingsLaw s) : SettingsLaw t :=
  (k.unitsInRange (unitsInRange_of_settings law)).settings

theorem Keeps.channelLaw {s t : State} (k : Keeps s t) (law : ∀ c, ChannelLaw s c) : ∀ c, ChannelLaw t c :=
  channelLaws_iff.mpr (k.channels (channelLaws_iff.mp law))

/-- A command that keeps the laws, wherever it answers a next state. -/
def Preserves (s : State) (o : Step) : Prop := ∀ t, o = .next t → Keeps s t

theorem Preserves.next {s t : State} (k : Keeps s t) : Preserves s (.next t) := fun _ e => Host.Outcome.next.inj e ▸ k

theorem Preserves.idle (s : State) : Preserves s (.next s) := .next (.refl s)

/-! ## Tables -/

/-- A table with one record replaced has a property of all records where the new record has it. -/
theorem Table.forall_get_set {α : Type} {n : Nat} {t : Table α n} {P : α → Prop} {i : Fin n} {x : α} (new : P x)
    (law : ∀ j, P (t.get j)) (j : Fin n) : P ((t.set i x).get j) := by
  by_cases e : i = j
  · subst e; rwa [Table.get_set_self]
  · rw [Table.get_set_ne _ _ e]; exact law j

theorem Table.forall_get_modify {α : Type} {n : Nat} {t : Table α n} {P : α → Prop} {i : Fin n} {f : α → α}
    (new : P (t.get i) → P (f (t.get i))) (law : ∀ j, P (t.get j)) (j : Fin n) : P ((t.modify i f).get j) :=
  Table.forall_get_set (new (law i)) law j

theorem PerHall.forall_get_set {α : Type} {t : PerHall α} {P : α → Prop} {h : Hall} {x : α} (new : P x)
    (law : ∀ k, P (t.get k)) (k : Hall) : P ((t.set h x).get k) := by
  by_cases e : h = k
  · subst e; rwa [PerHall.get_set_self]
  · rw [PerHall.get_set_ne _ _ e]; exact law k

theorem PerPort.forall_get_set {α : Type} {t : PerPort α} {P : α → Prop} {p : Port} {x : α} (new : P x)
    (law : ∀ q, P (t.get q)) (q : Port) : P ((t.set p x).get q) := by
  by_cases e : p = q
  · subst e; rwa [PerPort.get_set_self]
  · rw [PerPort.get_set_ne _ _ e]; exact law q

/-! ## Ports and requests (R187–R193) -/

/-- A port's record replaced by one that keeps the law of the ports. -/
theorem setPort_keeps {p : Port} {r : PortRecord} {s : State} (law : PortLaw (s.ports.get p) → PortLaw r) :
    Keeps s (setPort p r s) where
  __ := Keeps.refl s
  ports all := PerPort.forall_get_set (law (all p)) all

theorem withoutRequest_keeps (p : Port) (s : State) : Keeps s (withoutRequest p s) where
  __ := Keeps.refl s
  ports all := PerPort.forall_get_set
    ⟨(all p).ready, (all p).pending, (all p).buffer, (all p).setAside⟩ all

/-- R191: an answered port is READY with its reply, and awaits nothing. -/
theorem answer_keeps (p : Port) (st : Status) (pl : List Byte) (s : State) : Keeps s (answer p st pl s) where
  __ := Keeps.refl s
  ports all := PerPort.forall_get_set ⟨rfl, rfl, (all p).buffer, nofun⟩ all

theorem respond_keeps (p : Port) (a : Answer) : Keeps a.state (respond p a) := by
  unfold respond
  split
  · exact answer_keeps _ _ _ _
  · exact .refl _

/-- A request keeps the laws where its unit does. -/
theorem request_preserves {code : Byte} {p : Port} {s : State} {unit : List Byte → State → Answer}
    (does : ∀ ps s, Keeps s (unit ps s).state) : Preserves s (takeRequest code p s unit) := by
  intro t taken
  obtain rfl | ⟨ps, rfl⟩ := takeRequest_leaves taken
  · exact .refl t
  · exact (withoutRequest_keeps p s).trans ((does ps _).trans (respond_keeps _ _))

section
variable {r : PortRecord}

theorem PortLaw.withBus (law : PortLaw r) (b : Bus) : PortLaw { r with bus := b } :=
  ⟨law.ready, law.pending, law.buffer, law.setAside⟩

/-- R189, R190: a write given up: the return state has the set-aside reply. -/
theorem PortLaw.abandonWrite (law : PortLaw r) (receiving : r.state = .receiving) : PortLaw (abandonWrite r) := by
  have back := law.setAside receiving
  have tag := law.pending
  rw [receiving] at tag
  unfold Machine.abandonWrite
  cases ret : r.ret with
  | idle => exact ⟨by rw [back, ret]; rfl, tag, Nat.zero_le _, nofun⟩
  | ready => exact ⟨by rw [back, ret]; rfl, tag, Nat.zero_le _, nofun⟩

theorem PortLaw.readyWith (r : PortRecord) (reply : Reply) : PortLaw (readyWith r reply) := ⟨rfl, rfl, Nat.zero_le _, nofun⟩

theorem PortLaw.pendingWith (r : PortRecord) (tag : Byte) (request : Request) : PortLaw (pendingWith r tag request) :=
  ⟨rfl, rfl, Nat.zero_le _, nofun⟩

/-- R189: the end of a write. -/
theorem PortLaw.endWrite (law : PortLaw r) (p : Port) : PortLaw (endWrite p r) := by
  unfold Machine.endWrite
  split
  · exact law
  · next receiving =>
    split
    · exact law.abandonWrite (Decidable.not_not.mp receiving)
    · dsimp only
      split
      · split
        · exact .pendingWith _ _ _
        · exact .readyWith _ _
      · exact .readyWith _ _

/-- R188: the start of a write. -/
theorem PortLaw.beginWrite (law : PortLaw r) (data : List Byte) : PortLaw (beginWrite data r) := by
  have few : (data.take bufferLimit).length ≤ 63 := List.length_take_le _ _
  have ready := law.ready
  have pending := law.pending
  unfold Machine.beginWrite
  split
  · exact ⟨ready, pending, law.buffer, law.setAside⟩
  · next state =>
    rw [state] at ready pending
    exact ⟨rfl, pending, few, fun _ => ready⟩
  · next notPending notReady =>
    have none' : r.reply.isSome = false := ready.trans (decide_eq_false notReady)
    exact ⟨none', pending.trans (decide_eq_false notPending), few, fun _ => rfl⟩

end

section
variable (p : Port) (s : State)

theorem i2cWriteStart_preserves (addr : BitVec 7) (data : List Byte) : Preserves s (execI2cWriteStart p addr data s) := by
  unfold execI2cWriteStart
  dsimp only
  split
  · exact .next (setPort_keeps fun law => (law.endWrite p).beginWrite data)
  · exact .next (setPort_keeps fun law => (law.endWrite p).withBus _)

theorem i2cWriteEnd_preserves : Preserves s (execI2cWriteEnd p s) := .next (setPort_keeps fun law => law.endWrite p)

theorem writeTimeout_preserves : Preserves s (execWriteTimeout p s) := by
  unfold execWriteTimeout
  dsimp only
  split
  · next receiving => exact .next (setPort_keeps fun law => law.abandonWrite receiving)
  · exact .idle s

theorem i2cRead_preserves (addr : BitVec 7) (count : Nat) : Preserves s (execI2cRead p addr count s) := by
  unfold execI2cRead
  dsimp only
  split
  all_goals exact .next (setPort_keeps fun law => (law.endWrite p).withBus _)

theorem stretchLimit_preserves : Preserves s (execStretchLimit p s) := by
  unfold execStretchLimit
  dsimp only
  split
  · exact .next (setPort_keeps fun law => law.withBus _)
  · exact .idle s

end

/-! ## The store (R173–R184) -/

theorem storeOpen_iff {s : State} : storeOpen s = true ↔
    s.store.state = .opened ∨ (∃ page, s.store.state = .programming page) ∨ ∃ sector, s.store.state = .erasing sector := by
  unfold storeOpen
  cases s.store.state <;> simp

/-- R174: the store's record replaced: the flash keeps its form, and the store is open only if it was, or where nothing stands
in its way. -/
theorem setStore_keeps {u : Store} {s : State} (flash : s.store.flash.wf = true → u.flash.wf = true)
    (opens : storeOpen (setStore u s) = true → storeOpen s = true ∨ bothHallsDark s = true ∧ phrasesQueued s = false) :
    Keeps s (setStore u s) where
  __ := Keeps.refl s
  flash := flash
  store law isOpen := (opens isOpen).elim law id

/-- A change of the store that leaves its state. -/
theorem setStore_keeps_of_state {u : Store} {s : State} (flash : s.store.flash.wf = true → u.flash.wf = true)
    (state : u.state = s.store.state) : Keeps s (setStore u s) :=
  setStore_keeps flash fun isOpen => .inl (by rw [storeOpen_iff] at isOpen ⊢; exact state ▸ isOpen)

/-- A change that leaves the store locked, or saving: not open. -/
theorem setStore_keeps_of_shut {u : Store} {s : State} (flash : s.store.flash.wf = true → u.flash.wf = true)
    (shut : storeOpen (setStore u s) = false) : Keeps s (setStore u s) :=
  setStore_keeps flash fun isOpen => absurd (shut.symm.trans isOpen) Bool.false_ne_true

/-- R173: what an open store does with a request of its owner. -/
theorem ownerRequest_keeps (p : Port) (bad : Bool) (s : State) {act : State → State}
    (does : storeOpen s = true → Keeps s (act s)) : Keeps s (ownerRequest p bad s act).state := by
  unfold ownerRequest
  split
  · exact .refl s
  · split
    · exact .refl s
    · split
      · exact .refl s
      · next idle =>
        split
        · exact .refl s
        · next unlocked =>
          refine does ?_
          cases state : s.store.state with
          | opened => exact storeOpen_iff.mpr (.inl state)
          | locked => exact absurd state unlocked
          | programming page => exact storeOpen_iff.mpr (.inr (.inl ⟨page, state⟩))
          | erasing sector => exact storeOpen_iff.mpr (.inr (.inr ⟨sector, state⟩))
          | saving image => exact absurd (by rw [storeBusy, state]) idle

section
variable (p : Port) (ps : List Byte) (s : State)

theorem storeOpenRequest_keeps : Keeps s (storeOpenRequest p ps s).state := by
  unfold storeOpenRequest
  dsimp only
  split
  · exact .refl s
  · split
    · next may =>
      simp only [Bool.and_eq_true, Bool.not_eq_true'] at may
      exact setStore_keeps id fun _ => .inr ⟨may.1.2, may.2⟩
    · exact .refl s

theorem storeFill_keeps : Keeps s (storeFill p ps s).state :=
  ownerRequest_keeps p _ s fun _ => setStore_keeps_of_state id rfl

theorem storeProgram_keeps : Keeps s (storeProgram p ps s).state :=
  ownerRequest_keeps p _ s fun isOpen => setStore_keeps id fun _ => .inl isOpen

theorem storeErase_keeps : Keeps s (storeErase p ps s).state :=
  ownerRequest_keeps p _ s fun isOpen => setStore_keeps id fun _ => .inl isOpen

theorem storeClose_keeps : Keeps s (storeClose p ps s).state :=
  ownerRequest_keeps p _ s fun _ => setStore_keeps_of_shut id rfl

theorem storeRead_keeps : Keeps s (storeRead p ps s).state := by
  unfold storeRead
  dsimp only
  split
  · exact .refl s
  · exact .refl s
  · split
    · exact .refl s
    · exact setStore_keeps_of_state id rfl

theorem settingsSave_keeps : Keeps s (settingsSave ps s).state := by
  unfold settingsSave
  split
  · exact .refl s
  · exact setStore_keeps_of_shut id rfl

theorem restart_keeps : Keeps s (restart ps s).state := by
  unfold restart
  split
  · exact .refl s
  · exact setStore_keeps_of_state id rfl

theorem storeNotice_keeps (k : Nat) (ok : Bool) (sector : Nat) : Keeps s (storeNotice k ok sector s) := { Keeps.refl s with }

/-- R176: the flash takes the page, and the store is OPEN as before. -/
theorem programComplete_preserves : Preserves s (execProgramComplete s) := by
  unfold execProgramComplete
  dsimp only
  split
  · next page state =>
    have isOpen := storeOpen_iff.mpr (.inr (.inl ⟨page, state⟩))
    exact .next ((setStore_keeps (Flash.wf_program _ _) fun _ => .inl isOpen).trans (storeNotice_keeps _ _ _ _))
  · exact .idle s

theorem eraseComplete_preserves (left : List Host.Cell) : Preserves s (execEraseComplete left s) := by
  unfold execEraseComplete
  dsimp only
  split
  · next sector state =>
    have isOpen := storeOpen_iff.mpr (.inr (.inr ⟨sector, state⟩))
    exact .next ((setStore_keeps (fun wf => Flash.wf_putCells _ (Flash.wf_erase _ wf)) fun _ => .inl isOpen).trans
      (storeNotice_keeps _ _ _ _))
  · exact .idle s

theorem saveComplete_preserves (left : List Host.Cell) : Preserves s (execSaveComplete left s) := by
  unfold execSaveComplete
  dsimp only
  split
  · exact .next ((setStore_keeps_of_shut (fun wf => Flash.wf_putCells _ (wf_savedPages _ _ wf)) rfl).trans
      (storeNotice_keeps _ _ _ _))
  · exact .idle s

theorem finishRead_keeps (j : ReadJob) (m : Flash) : Keeps s (finishRead p j m s) :=
  (setStore_keeps_of_state (u := { s.store with reads := s.store.reads.set p none }) id rfl).trans (answer_keeps p .ok _ _)

theorem storeReadDone_preserves : Preserves s (execStoreReadDone p s) := by
  unfold execStoreReadDone
  dsimp only
  split
  · exact .idle s
  · split
    · exact .idle s
    · exact .idle s
    · next image state =>
      have seen : Keeps s { s with draws := s.draws + 1, store := { s.store with saveReach := reachNow image s } } :=
        { Keeps.refl s with }
      exact .next (seen.trans (finishRead_keeps _ _ _ _))
    · exact .next (finishRead_keeps _ _ _ _)

end

/-! ## Notices and the clock -/

theorem noticeOffer_preserves (n : Nat) (s : State) : Preserves s (execNoticeOffer n s) := by
  unfold execNoticeOffer
  dsimp only
  split
  · exact .idle s
  · exact .next { Keeps.refl s with }

theorem noticeRead_keeps (p : Port) (ps : List Byte) (s : State) : Keeps s (noticeRead p ps s).state := { Keeps.refl s with }

theorem noticeAck_keeps (p : Port) (ps : List Byte) (s : State) : Keeps s (noticeAck p ps s).state := { Keeps.refl s with }

theorem noticeSet_keeps (p : Port) (ps : List Byte) (s : State) : Keeps s (noticeSet p ps s).state := by
  unfold noticeSet
  dsimp only
  split
  · exact
      { Keeps.refl s with
        ports := fun all => PerPort.forall_get_set ⟨(all p).ready, (all p).pending, (all p).buffer, (all p).setAside⟩ all }
  · exact .refl s

theorem houseClockTick_preserves (s : State) : Preserves s (execHouseClockTick s) := .next { Keeps.refl s with }

end Sys2Proof.Machine

/-! PROOFS. The Zone unit, the Call unit, the mix and the level monitor keep the laws. -/

namespace Sys2Proof.Machine

/-! ## Zones -/

/-- Zone records of the same stacks and settings: bases, ramps and clips may differ. -/
def SameZones (t u : Table ZoneRecord 18) : Prop := ∀ z, (u.get z).stack = (t.get z).stack ∧ (u.get z).settings = (t.get z).settings

theorem SameZones.map {f : ZoneRecord → ZoneRecord} (same : ∀ r, (f r).stack = r.stack ∧ (f r).settings = r.settings)
    (t : Table ZoneRecord 18) : SameZones t (t.map f) := fun z => by
  rw [Table.get_map]
  exact same _

theorem SameZones.modify {f : ZoneRecord → ZoneRecord} (same : ∀ r, (f r).stack = r.stack ∧ (f r).settings = r.settings)
    (t : Table ZoneRecord 18) (z : ZoneNo) : SameZones t (t.modify z f) := fun x => by
  by_cases e : z = x
  · subst e; rw [Table.get_modify_self]; exact same _
  · rw [Table.get_modify_ne _ _ e]; exact ⟨rfl, rfl⟩

theorem OverlayLaw.of_stacks {t u : Table ZoneRecord 18} (same : ∀ z, (u.get z).stack = (t.get z).stack)
    {channels : Table Channel 4} {c : Fin 4} (law : OverlayLaw t channels c) : OverlayLaw u channels c where
  overlay z := by rw [same z]; exact law.overlay z
  expiry := law.expiry

/-- The Zone unit replaced by one of the same stacks, with settings in their ranges. -/
theorem setZoneUnit_keeps_of_stacks {u : ZoneUnit} {s : State}
    (same : ∀ z, (u.zones.get z).stack = (s.zoneUnit.zones.get z).stack)
    (zones : ZonesLaw s → ∀ z, ZoneInRange (u.zones.get z).settings)
    (loops : LoopsLaw s → ∀ l, (u.loops.get l).settings.driveLimit ≤ 2047)
    (foyers : FoyersLaw s → ∀ f, FoyerInRange (u.foyers.get f).settings) : Keeps s (setZoneUnit u s) where
  __ := Keeps.refl s
  stack law z := (same z).symm ▸ law z
  zones := zones
  loops := loops
  foyers := foyers
  channels law := ⟨fun c => (law.1 c).of_stacks same, law.2⟩

/-- The Zone unit replaced by one of the same stacks and zone settings. -/
theorem setZoneUnit_keeps {u : ZoneUnit} {s : State} (same : SameZones s.zoneUnit.zones u.zones)
    (loops : LoopsLaw s → ∀ l, (u.loops.get l).settings.driveLimit ≤ 2047)
    (foyers : FoyersLaw s → ∀ f, FoyerInRange (u.foyers.get f).settings) : Keeps s (setZoneUnit u s) :=
  setZoneUnit_keeps_of_stacks (fun z => (same z).1) (fun law z => (same z).2.symm ▸ law z) loops foyers

/-- What a unit hands on, or takes from what was handed, touches no law. -/
theorem setMail_keeps (m : Mail) (s : State) : Keeps s { s with mail := m } := { Keeps.refl s with }

theorem setLoop_keeps {l : Fin 8} {r : LoopRecord} {s : State} (same : r.settings = (s.zoneUnit.loops.get l).settings) :
    Keeps s (setLoop l r s) :=
  setZoneUnit_keeps (fun _ => ⟨rfl, rfl⟩)
    (fun law => Table.forall_get_set (P := fun r : LoopRecord => r.settings.driveLimit ≤ 2047) (same ▸ law l) law) id

theorem loopFault_keeps (l : Fin 8) (code : Byte) (s : State) : Keeps s (loopFault l code s) := { Keeps.refl s with }

theorem overCurrent_keeps (l : Fin 8) (s : State) : Keeps s (overCurrent l s) := by
  unfold overCurrent
  dsimp only
  split
  · exact .refl s
  · split
    · refine .trans ?_ (loopFault_keeps _ _ _)
      exact setLoop_keeps rfl
    · refine .trans ?_ (loopFault_keeps _ _ _)
      exact setLoop_keeps rfl

theorem setOpen_keeps (l : Fin 8) (flag : Bool) (code : Byte) (s : State) : Keeps s (setOpen l flag code s) := by
  unfold setOpen
  dsimp only
  split
  · exact .refl s
  · refine .trans ?_ (loopFault_keeps _ _ _)
    exact setLoop_keeps rfl

theorem loopReset_keeps (ps : List Byte) (s : State) : Keeps s (loopReset ps s).state := by
  unfold loopReset
  split
  · exact .refl s
  · exact setLoop_keeps rfl

theorem takeLoopEvent_keeps (l : Fin 8) (rest : List LoopEvent) (s : State) : Keeps s (takeLoopEvent l rest s) :=
  { Keeps.refl s with }

section
variable (l : Fin 8) (s : State)

theorem overCurrentEvent_preserves : Preserves s (execOverCurrentEvent l s) := by
  unfold execOverCurrentEvent
  split
  · exact .next ((takeLoopEvent_keeps l _ s).trans (overCurrent_keeps _ _))
  · exact .idle s

theorem foldBackRecovery_preserves : Preserves s (execFoldBackRecovery l s) :=
  .next (setLoop_keeps (by unfold LoopRecord.recover; split <;> rfl))

theorem openLoopBegin_preserves : Preserves s (execOpenLoopBegin l s) := by
  unfold execOpenLoopBegin
  split
  · exact .next ((takeLoopEvent_keeps l _ s).trans (setOpen_keeps _ _ _ _))
  · exact .idle s

theorem openLoopEnd_preserves : Preserves s (execOpenLoopEnd l s) := by
  unfold execOpenLoopEnd
  split
  · exact .next ((takeLoopEvent_keeps l _ s).trans (setOpen_keeps _ _ _ _))
  · exact .idle s

end

/-! ### Bases and phase events (R33–R36, R42, R44) -/

theorem takePhase_sameZones (ev : PhaseEvent) (channels : Table Channel 4) (u : ZoneUnit) :
    SameZones u.zones (u.takePhase ev channels).zones := fun z => by
  rw [takePhase_zone]
  split
  · split
    · split <;> exact ⟨rfl, rfl⟩
    · exact ⟨rfl, rfl⟩
    · exact ⟨rfl, rfl⟩
  · exact ⟨rfl, rfl⟩

theorem takePhase_keeps (ev : PhaseEvent) (channels : Table Channel 4) (s : State) :
    Keeps s (setZoneUnit (s.zoneUnit.takePhase ev channels) s) :=
  setZoneUnit_keeps (takePhase_sameZones ev channels s.zoneUnit) (fun law l => by rw [takePhase_loop]; exact law l)
    fun law f => by rw [takePhase_foyer]; exact law f

theorem handHush_keeps (flags : List (ZoneNo × Bool)) (s : State) : Keeps s (handHush flags s) := by
  rw [handHush_eq]
  exact setMail_keeps _ s

theorem zonePhaseEvent_preserves (s : State) : Preserves s (execZonePhaseEvent s) := by
  unfold execZonePhaseEvent
  split
  · exact .idle s
  · exact .next ((takePhase_keeps _ _ s).trans ((setMail_keeps _ _).trans (handHush_keeps _ _)))

/-- R35: a foyer's relay request replaced, and its base chosen again. -/
theorem relayTaken_keeps (f : Fin 6) (r : FoyerRecord) {s : State} (same : r.settings = (s.zoneUnit.foyers.get f).settings) :
    Keeps s (setZoneUnit (({ s.zoneUnit with foyers := s.zoneUnit.foyers.set f r } : ZoneUnit).modifyZone (foyerZone f)
      (·.withBase (foyerBase r))) s) :=
  setZoneUnit_keeps (SameZones.modify (f := (·.withBase (foyerBase r))) (fun _ => ⟨rfl, rfl⟩) _ _) id
    fun law => Table.forall_get_set (P := fun r : FoyerRecord => FoyerInRange r.settings) (same ▸ law f) law

theorem relayRequest_preserves (s : State) : Preserves s (execRelayRequest s) := by
  unfold execRelayRequest
  split
  · exact .idle s
  · next r rest _ =>
    refine .next ((relayTaken_keeps r.zone { s.zoneUnit.foyers.get r.zone with relay := r.hall } rfl).trans ?_)
    exact setMail_keeps _ _

theorem chooseDesc_sameZones (u : ZoneUnit) (channels : Table Channel 4) (which : Fin 4 → Bool) :
    SameZones u.zones (u.chooseDesc channels which).zones := fun z => by
  unfold ZoneUnit.chooseDesc
  rw [Table.get_mapIdx]
  split
  · split <;> exact ⟨rfl, rfl⟩
  · exact ⟨rfl, rfl⟩

theorem channelChangeReport_preserves (s : State) : Preserves s (execChannelChangeReport s) := by
  unfold execChannelChangeReport
  split
  · exact .idle s
  · exact .next (Keeps.trans (setZoneUnit_keeps (chooseDesc_sameZones s.zoneUnit _ _) id id) (setMail_keeps _ _))

/-! ### Settings (R31) -/

/-- R31: a zone's settings replaced by what its record gives. -/
def zonesWith (z : ZoneNo) (v : ZoneSettings) (zones : Table ZoneRecord 18) : Table ZoneRecord 18 :=
  zones.modify z fun r => { r with settings := v }

theorem zonesWith_stack (z : ZoneNo) (v : ZoneSettings) (zones : Table ZoneRecord 18) (x : ZoneNo) :
    ((zonesWith z v zones).get x).stack = (zones.get x).stack := by
  by_cases e : z = x
  · subst e; rw [zonesWith, Table.get_modify_self]
  · rw [zonesWith, Table.get_modify_ne _ _ e]

theorem zonesWith_inRange {z : ZoneNo} {v : ZoneSettings} {zones : Table ZoneRecord 18} (new : ZoneInRange v)
    (law : ∀ x, ZoneInRange (zones.get x).settings) (x : ZoneNo) : ZoneInRange ((zonesWith z v zones).get x).settings :=
  Table.forall_get_modify (P := fun r : ZoneRecord => ZoneInRange r.settings) (fun _ => new) law x

/-- R31: the settings written lie in their ranges. -/
theorem writeSettings_keeps {z : ZoneNo} {ps : List Byte} {s : State} {w : ZoneUnit × Bool}
    (written : writeSettings z ps s.zoneUnit = some w) : Keeps s (setZoneUnit w.1 s) := by
  have stack := zonesWith_stack z (readZoneCommon ps).1 s.zoneUnit.zones
  have zones : ZonesLaw s → _ := zonesWith_inRange (z := z) (readZoneCommon_inRange ps)
  cases kind : zoneKind z with
  | loop l =>
    rw [writeSettings_loop ps _ kind] at written
    obtain ⟨x, read, rfl⟩ := Option.map_eq_some_iff.mp written
    exact setZoneUnit_keeps_of_stacks stack zones
      (Table.forall_get_modify (P := fun r : LoopRecord => r.settings.driveLimit ≤ 2047) fun _ => readLoopSettings_inRange read) id
  | desc d =>
    rw [writeSettings_desc ps _ kind] at written
    cases written
    exact setZoneUnit_keeps_of_stacks stack zones id id
  | foyer f =>
    rw [writeSettings_foyer ps _ kind] at written
    obtain ⟨x, read, rfl⟩ := Option.map_eq_some_iff.mp written
    have based := SameZones.modify (f := fun q => q.withBase (foyerBase { s.zoneUnit.foyers.get f with settings := x.1 }))
      (fun _ => ⟨rfl, rfl⟩) (zonesWith z (readZoneCommon ps).1 s.zoneUnit.zones) z
    exact setZoneUnit_keeps_of_stacks (fun y => (based y).1.trans (stack y)) (fun law y => (based y).2.symm ▸ zones law y) id
      (Table.forall_get_set (P := fun r : FoyerRecord => FoyerInRange r.settings) (readFoyerSettings_inRange read))

theorem zoneSet_keeps (ps : List Byte) (s : State) : Keeps s (zoneSet ps s).state := by
  unfold zoneSet
  split
  · exact .refl s
  · split
    · exact .refl s
    · split
      · exact .refl s
      · split
        · next written => exact writeSettings_keeps written
        · exact .refl s

theorem zoneStatus_keeps (ps : List Byte) (s : State) : Keeps s (zoneStatus ps s).state := by
  unfold zoneStatus
  split <;> exact .refl s

/-! ## Pushes and removals (R38, R39) -/

theorem push_accepted {q : PushRequest} {s : State} (accepted : (push q s).1 = true) : (push q s).2 =
    handReport q.targets (setZoneUnit { s.zoneUnit.place q with pushAnswer := some .accepted } s) := by
  unfold push at accepted ⊢
  dsimp only at accepted ⊢
  split at accepted
  · next sound => rw [if_pos sound]
  · cases accepted

/-- R38: a push keeps the law of the stacks. -/
theorem push_keepsUnits (q : PushRequest) (s : State) : KeepsUnits s (push q s).2 := by
  cases accepted : (push q s).1 with
  | true =>
    have zones (law : ZonesLaw s) : ZonesLaw (push q s).2 := fun z => by
      rw [push_accepted_zone accepted]
      split <;> exact law z
    have stack (law : StacksLaw s) : StacksLaw (push q s).2 := fun z => by
      rw [push_accepted_stack accepted]
      split
      · next target => exact push_keeps_law ((push_accepted_iff q s).mp accepted z target) (law z)
      · exact law z
    rw [push_accepted accepted] at zones stack ⊢
    exact { KeepsUnits.refl s with stack := stack, zones := zones }
  | false =>
    rw [push_refused accepted]
    exact { Keeps.refl s with }

theorem holdsOn_push_accepted {q : PushRequest} {s : State} (accepted : (push q s).1 = true) (o : Owner) (z : ZoneNo) :
    holdsOn (push q s).2.zoneUnit o z = ((zoneIn z q.targets && q.owner = o) || holdsOn s.zoneUnit o z) := by
  unfold holdsOn
  rw [push_accepted_stack accepted]
  split
  · next target => rw [target, Bool.true_and]; rfl
  · next other => rw [Bool.eq_false_iff.mpr other]; rfl

theorem holdsOn_push_refused {q : PushRequest} {s : State} (refused : (push q s).1 = false) (o : Owner) (z : ZoneNo) :
    holdsOn (push q s).2.zoneUnit o z = holdsOn s.zoneUnit o z := by
  rw [push_refused refused]
  rfl

/-- R39: a removal keeps the law of the stacks. -/
theorem remove_keepsUnits (o : Owner) (zones : ZoneSet) (s : State) : KeepsUnits s (remove o zones s) := by
  have stack (law : StacksLaw s) : StacksLaw (remove o zones s) := fun z => by
    rw [remove_stack]
    split
    · exact filter_keeps_law _ (law z)
    · exact law z
  by_cases absent : removedZones s.zoneUnit o zones = 0
  · rw [remove_absent absent]
    exact { Keeps.refl s with }
  · have settings (law : ZonesLaw s) : ZonesLaw (remove o zones s) := fun z => by
      rw [remove_present absent, handReport_zoneUnit, setZoneUnit_zoneUnit, ZoneUnit.takeOut, Table.get_mapIdx]
      split <;> exact law z
    rw [remove_present absent] at stack settings ⊢
    exact { KeepsUnits.refl s with stack := stack, zones := settings }

theorem holdsOn_remove (o : Owner) (zones : ZoneSet) (s : State) (p : Owner) (z : ZoneNo) :
    holdsOn (remove o zones s).zoneUnit p z = (holdsOn s.zoneUnit p z && !(zoneIn z zones && o = p)) := by
  unfold holdsOn
  rw [remove_stack]
  split
  · next target =>
    rw [target, Bool.true_and, Bool.eq_iff_iff]
    simp only [List.any_eq_true, List.mem_filter, bne_iff_ne, decide_eq_true_eq, Bool.and_eq_true, Bool.not_eq_true',
      decide_eq_false_iff_not]
    constructor
    · rintro ⟨e, ⟨member, other⟩, owner⟩
      exact ⟨⟨e, member, owner⟩, fun same => other (owner.trans same.symm)⟩
    · rintro ⟨⟨e, member, owner⟩, other⟩
      exact ⟨e, ⟨member, fun same => other (same.symm.trans owner)⟩, owner⟩
  · next other => rw [Bool.eq_false_iff.mpr other, Bool.false_and, Bool.not_false, Bool.and_true]

theorem push_description (q : PushRequest) (s : State) : (push q s).2.description = s.description := by
  unfold push; dsimp only; split <;> rfl

theorem remove_description (o : Owner) (zones : ZoneSet) (s : State) : (remove o zones s).description = s.description := by
  unfold remove; dsimp only; split <;> rfl

/-- A change that leaves the channels and what they hold. -/
theorem KeepsUnits.keeps {s t : State} (k : KeepsUnits s t) (same : t.description = s.description)
    (holds : ∀ c z, holdsOn t.zoneUnit (.channel c) z = holdsOn s.zoneUnit (.channel c) z) : Keeps s t where
  toKeepsUnits := k
  channels law := by
    obtain ⟨overlays, darks⟩ := law
    rw [OverlaysLaw, DarksLaw, same]
    exact ⟨fun c => ⟨fun z => (holds c z).trans ((overlays c).overlay z), (overlays c).expiry⟩, darks⟩

/-- R140: a push for a call. -/
theorem push_call_keeps {q : PushRequest} {id : Nat} (owner : q.owner = .call id) (s : State) : Keeps s (push q s).2 := by
  refine (push_keepsUnits q s).keeps (push_description q s) fun c z => ?_
  cases accepted : (push q s).1 with
  | true => rw [holdsOn_push_accepted accepted, owner, decide_eq_false nofun, Bool.and_false, Bool.false_or]
  | false => exact holdsOn_push_refused accepted _ _

/-- R147: the removal of a call's entries. -/
theorem remove_call_keeps (id : Nat) (zones : ZoneSet) (s : State) : Keeps s (remove (.call id) zones s) :=
  (remove_keepsUnits _ zones s).keeps (remove_description _ zones s) fun c z => by
    rw [holdsOn_remove, decide_eq_false nofun, Bool.and_false, Bool.not_false, Bool.and_true]

/-- R39: a removal that finds no entry. -/
theorem remove_absent_keeps {o : Owner} {zones : ZoneSet} {s : State} (absent : absentFrom s.zoneUnit o zones = true) :
    Keeps s (remove o zones s) := by
  have none : removedZones s.zoneUnit o zones = 0 := zoneSet_eq_zero.mpr fun z => by
    rw [removedZones, zoneIn_zoneSetOf, Bool.and_eq_false_iff]
    by_cases named : zoneIn z zones = true
    · exact .inr (by simpa using List.all_eq_true.mp absent z (mem_zonesOf.mpr named))
    · exact .inl (Bool.eq_false_iff.mpr named)
  rw [remove_absent none]
  exact { Keeps.refl s with }

/-! ## Calls (R129–R154) -/

/-- R174: no call of a queue plays phrases. -/
def NoPhrases (u : CallUnit) : Prop := ∀ c ∈ u.queue, isPhrases c.content = false

theorem phrasesQueued_eq_false_iff {s : State} : phrasesQueued s = false ↔ NoPhrases s.call := by
  unfold phrasesQueued
  rw [List.any_eq_false]
  refine forall₂_congr fun c _ => ?_
  cases c.content <;> simp [isPhrases]

/-- The Call unit replaced by one whose queue takes no PHRASES call while the store is open. -/
theorem setCalls_keeps {u : CallUnit} {s : State} (none : storeOpen s = true → NoPhrases s.call → NoPhrases u) :
    Keeps s (setCalls u s) where
  __ := Keeps.refl s
  store law isOpen := by
    obtain ⟨dark, phrases⟩ := law isOpen
    exact ⟨dark, phrasesQueued_eq_false_iff.mpr (none isOpen (phrasesQueued_eq_false_iff.mp phrases))⟩

theorem NoPhrases.filter {u : CallUnit} (none : NoPhrases u) (p : Call → Bool) : NoPhrases { u with queue := u.queue.filter p } :=
  fun c member => none c (List.mem_filter.mp member).1

theorem NoPhrases.update {u : CallUnit} (none : NoPhrases u) (id : Nat) {f : Call → Call} (same : ∀ c, (f c).content = c.content) :
    NoPhrases (u.update id f) := by
  intro c member
  obtain ⟨d, old, rfl⟩ := List.mem_map.mp member
  split
  · rw [same]; exact none d old
  · exact none d old

theorem NoPhrases.of_queue {u v : CallUnit} (same : v.queue = u.queue) (none : NoPhrases u) : NoPhrases v := fun c member =>
  none c (same ▸ member)

theorem takeResource_queue (dir : Table (Option Clip) 128) (c : Call) (r : Source) (u : CallUnit) :
    (takeResource dir c r u).queue = u.queue := by
  unfold takeResource
  split <;> rfl

theorem freeUp_queue (r : Source) (u : CallUnit) : (freeUp r u).queue = u.queue := by
  unfold freeUp
  split <;> rfl

theorem holdResource_queue (r : Source) (u : CallUnit) : (holdResource r u).queue = u.queue := by
  unfold holdResource
  split <;> rfl

theorem resumeResource_queue (r : Source) (u : CallUnit) : (resumeResource r u).queue = u.queue := by
  unfold resumeResource
  split <;> rfl

theorem startCall_keeps (c : Call) (r : Source) (s : State) : Keeps s (startCall c r s).2 := by
  have pushed := push_call_keeps (q := callPush c r) rfl s
  unfold startCall
  dsimp only
  split
  · refine pushed.trans (setCalls_keeps fun _ none => ?_)
    exact .of_queue (takeResource_queue _ _ _ _) (none.update c.id (f := startedCall s.clock r) fun _ => rfl)
  · exact pushed

theorem tryCall_keeps (blocked : ZoneSet) (c : Call) (s : State) : Keeps s (tryCall blocked c s).2 := by
  unfold tryCall
  split
  · split
    · exact startCall_keeps _ _ _
    · exact .refl s
  · exact .refl s

theorem passOver_keeps (l : List Call) (blocked : ZoneSet) (s : State) : Keeps s (passOver l blocked s) := by
  induction l generalizing blocked s with
  | nil => exact .refl s
  | cons c l ih => exact (tryCall_keeps blocked c s).trans (ih _ _)

theorem pass_keeps (s : State) : Keeps s (pass s) := passOver_keeps _ _ _

theorem offerTo_keeps (ports : PerPort Bool) (k : Fin 16) (a b : Byte) (e : Option Edge) (s : State) :
    Keeps s (offerTo ports k a b e s) := { Keeps.refl s with }

theorem offer_keeps (k : Fin 16) (a b : Byte) (s : State) : Keeps s (offer k a b s) := { Keeps.refl s with }

theorem leaveQueue_keeps (c : Call) (o : CallOutcome) (s : State) : Keeps s (leaveQueue c o s) := by
  refine .trans ?_ (offerTo_keeps _ _ _ _ _ _)
  exact setCalls_keeps fun _ none => none.filter _

theorem endCall_keeps (o : CallOutcome) (s : State) (c : Call) : Keeps s (endCall o s c) := by
  unfold endCall
  split
  · exact leaveQueue_keeps _ _ _
  · refine .trans ?_ (leaveQueue_keeps _ _ _)
    exact (remove_call_keeps c.id c.targets s).trans (setCalls_keeps fun _ none => none.of_queue (freeUp_queue _ _))

theorem endWithPass_keeps (o : CallOutcome) (c : Call) (s : State) : Keeps s (endWithPass o c s) :=
  (endCall_keeps o s c).trans (pass_keeps _)

theorem endAll_keeps (which : Call → Bool) (s : State) : Keeps s (endAll which s) := by
  unfold endAll
  dsimp only
  split
  · exact .refl s
  · exact (foldl_keeps (endCall_keeps _) _ _).trans (pass_keeps _)

theorem mem_insertCall {c d : Call} {l : List Call} (member : d ∈ insertCall c l) : d = c ∨ d ∈ l := by
  induction l with
  | nil => exact .inl (List.mem_singleton.mp member)
  | cons x l ih =>
    unfold insertCall at member
    split at member
    · obtain e | rest := List.mem_cons.mp member
      · exact .inr (e ▸ List.mem_cons_self)
      · exact (ih rest).imp_right (List.mem_cons_of_mem _)
    · exact List.mem_cons.mp member

/-- R133, R134: no PHRASES call is taken while the store is open. -/
theorem enqueue_keeps {c : Call} {s : State} (out : storeOpen s = true → isPhrases c.content = false) :
    Keeps s (enqueue c s).2 :=
  setCalls_keeps fun isOpen none d member => (mem_insertCall member).elim (fun e => e ▸ out isOpen) (none d)

theorem answerSubmission_keeps (a : SubmissionAnswer) (s : State) : Keeps s (answerSubmission a s) :=
  setCalls_keeps fun _ => id

theorem takeSubmission_keeps {c : Call} {s : State} (out : storeOpen s = true → isPhrases c.content = false) :
    Keeps s (takeSubmission c s) :=
  (enqueue_keeps out).trans ((answerSubmission_keeps _ _).trans (pass_keeps _))

theorem stepLost_keeps (c : Submission) (s : State) : Keeps s (stepLost c s) := by
  unfold stepLost
  split
  · exact offerTo_keeps _ _ _ _ _ _
  · exact .refl s

theorem dropNotice_keeps (id : Nat) (o : Origin) (s : State) : Keeps s (dropNotice id o s) := { Keeps.refl s with }

/-- R134: a submission that no test refuses plays no phrases while the store is open. -/
theorem submission_sound {c : Submission} {s : State} (sound : submissionRefusal c s = none) (isOpen : storeOpen s = true) :
    isPhrases c.content = false := by
  unfold submissionRefusal at sound
  split at sound
  · cases sound
  · split at sound
    · cases sound
    · next out => simpa [isOpen] using out

theorem submit_keeps (c : Submission) (s : State) : Keeps s (submit c s) := by
  unfold submit
  split
  · exact (answerSubmission_keeps _ s).trans (stepLost_keeps _ _)
  · next sound =>
    have out : storeOpen s = true → isPhrases (submittedCall c s.clock).content = false := submission_sound sound
    dsimp only
    split
    · exact takeSubmission_keeps out
    · split
      · refine .trans ?_ (takeSubmission_keeps out)
        refine .trans ?_ (dropNotice_keeps _ _ _)
        exact setCalls_keeps fun _ none => none.filter _
      · exact (answerSubmission_keeps _ s).trans (offerTo_keeps _ _ _ _ _ _)

/-- R133: a console's call that no test refuses plays no phrases while the store is open. -/
theorem consoleCall_sound {p : Port} {f : CallForm} {s : State} (sound : submitRefusal p f s = none)
    (isOpen : storeOpen s = true) : isPhrases (consoleCall p f s.clock).1.content = false := by
  have content : isPhrases (clampContent f.content).1 = isPhrases f.content := by
    unfold clampContent
    split
    · next k => rw [k]; rfl
    · rfl
  refine content.trans ?_
  unfold submitRefusal at sound
  split at sound
  · cases sound
  · split at sound
    · cases sound
    · split at sound
      · cases sound
      · split at sound
        · cases sound
        · split at sound
          · cases sound
          · next out => simpa [isOpen] using out

section
variable (p : Port) (ps : List Byte) (s : State)

theorem callSubmit_keeps : Keeps s (callSubmit p ps s).state := by
  unfold callSubmit
  split
  · exact .refl s
  · split
    · exact .refl s
    · next sound => exact (enqueue_keeps (consoleCall_sound sound)).trans (pass_keeps _)

theorem callCancel_keeps : Keeps s (callCancel p ps s).state := by
  unfold callCancel
  split
  · exact .refl s
  · split
    · exact .refl s
    · exact endWithPass_keeps _ _ _

theorem liveEnd_keeps : Keeps s (liveEnd p ps s).state := by
  unfold liveEnd
  split
  · exact .refl s
  · split
    · exact .refl s
    · split
      · exact .refl s
      · exact endWithPass_keeps _ _ _

theorem callList_keeps : Keeps s (callList ps s).state := by
  unfold callList
  dsimp only
  split <;> exact .refl s

end

theorem takeCoverage_noPhrases {u : CallUnit} (none : NoPhrases u) (entry : Owner × ZoneSet) :
    NoPhrases (takeCoverage u entry) := by
  unfold takeCoverage
  split
  · exact none
  · split
    · exact none
    · split
      · exact none
      · dsimp only
        split
        · refine .of_queue (holdResource_queue _ _) ?_
          exact none.update _ fun _ => rfl
        · split
          · refine .of_queue (resumeResource_queue _ _) ?_
            exact none.update _ fun _ => rfl
          · exact none.update _ fun _ => rfl

theorem foldl_takeCoverage_noPhrases (l : List (Owner × ZoneSet)) {u : CallUnit} (none : NoPhrases u) :
    NoPhrases (l.foldl takeCoverage u) := by
  induction l generalizing u with
  | nil => exact none
  | cons e l ih => exact ih (takeCoverage_noPhrases none e)

theorem setCallView_keeps (h : Hall) (v : Phase) (s : State) : Keeps s (setCallView h v s) := setCalls_keeps fun _ => id

theorem takeProgrammeOrder_keeps (rest : List ProgrammeOrder) (s : State) : Keeps s (takeProgrammeOrder rest s) :=
  { Keeps.refl s with }

theorem takeAdmissionOrder_keeps (rest : List AdmissionOrder) (s : State) : Keeps s (takeAdmissionOrder rest s) :=
  { Keeps.refl s with }

theorem takeZoneNews_keeps (rest : List ZoneNews) (s : State) : Keeps s (takeZoneNews rest s) := { Keeps.refl s with }

section
variable (s : State)

theorem unitCallSubmission_preserves (u : Submitter) : Preserves s (execUnitCallSubmission u s) := by
  unfold execUnitCallSubmission
  split
  · split
    · exact .next ((takeProgrammeOrder_keeps _ s).trans (submit_keeps _ _))
    · exact .idle s
  · split
    · exact .next ((takeAdmissionOrder_keeps _ s).trans (submit_keeps _ _))
    · exact .idle s

theorem callStackReport_preserves : Preserves s (execCallStackReport s) := by
  unfold execCallStackReport
  split
  · next report rest _ =>
    have covered : Keeps (takeZoneNews rest s) (setCalls (report.coverage.foldl takeCoverage s.call) (takeZoneNews rest s)) :=
      setCalls_keeps fun _ none => foldl_takeCoverage_noPhrases _ none
    exact .next ((takeZoneNews_keeps rest s).trans (covered.trans (pass_keeps _)))
  · exact .idle s

theorem callHushChange_preserves : Preserves s (execCallHushChange s) := by
  unfold execCallHushChange
  split
  · exact .next ((takeZoneNews_keeps _ s).trans (pass_keeps _))
  · exact .idle s

theorem callPhaseEvent_preserves : Preserves s (execCallPhaseEvent s) := by
  unfold execCallPhaseEvent
  split
  · exact .next ((takeProgrammeOrder_keeps _ s).trans ((setCallView_keeps _ _ _).trans (pass_keeps _)))
  · exact .idle s

theorem hallCallCancel_preserves : Preserves s (execHallCallCancel s) := by
  unfold execHallCallCancel
  split
  · exact .next ((takeProgrammeOrder_keeps _ s).trans ((setCallView_keeps _ _ _).trans (endAll_keeps _ _)))
  · exact .idle s

theorem planCallCancel_preserves : Preserves s (execPlanCallCancel s) := by
  unfold execPlanCallCancel
  split
  · exact .next ((takeProgrammeOrder_keeps _ s).trans (endAll_keeps _ _))
  · exact .idle s

theorem admissionCallCancel_preserves : Preserves s (execAdmissionCallCancel s) := by
  unfold execAdmissionCallCancel
  split
  · exact .next ((takeAdmissionOrder_keeps _ s).trans (endAll_keeps _ _))
  · exact .idle s

theorem callDeadlineExpiry_preserves (id : Nat) : Preserves s (execCallDeadlineExpiry id s) := by
  unfold execCallDeadlineExpiry
  split
  · split
    · exact .next (endWithPass_keeps _ _ s)
    · exact .idle s
  · exact .idle s

theorem liveTimeout_preserves (id : Nat) : Preserves s (execLiveTimeout id s) := by
  unfold execLiveTimeout
  split
  · split
    · exact .next (endWithPass_keeps _ _ s)
    · exact .idle s
  · exact .idle s

/-! ### Playback (R144, R145, R147) -/

theorem contentEnd_keeps (id : Nat) : Keeps s (contentEnd id s) := by
  unfold contentEnd
  split
  · exact endWithPass_keeps _ _ _
  · exact .refl s

theorem setPlayer_keeps (n : Fin 3) (p : Option Player) : Keeps s (setPlayer n p s) := setCalls_keeps fun _ => id

theorem setChime_keeps (c : Option ChimeGenerator) : Keeps s (setChime c s) := setCalls_keeps fun _ => id

theorem phraseEnd_keeps (n : Fin 3) : Keeps s (phraseEnd s n) := by
  unfold phraseEnd
  split
  · split
    · split
      · exact setPlayer_keeps _ _ _
      · exact contentEnd_keeps _ _
    · exact .refl s
  · exact .refl s

theorem repeatSilenceEnd_keeps (n : Fin 3) : Keeps s (repeatSilenceEnd s n) := by
  unfold repeatSilenceEnd
  split
  · split
    · exact setPlayer_keeps _ _ _
    · exact .refl s
  · exact .refl s

theorem chimeNoteEnd_keeps : Keeps s (chimeNoteEnd s) := by
  unfold chimeNoteEnd
  split
  · split
    · exact setChime_keeps _ _
    · exact .refl s
  · exact .refl s

theorem chimeStrikeEnd_keeps : Keeps s (chimeStrikeEnd s) := by
  unfold chimeStrikeEnd
  split
  · split
    · split
      · exact setChime_keeps _ _
      · exact contentEnd_keeps _ _
    · exact .refl s
  · exact .refl s

end

/-! ## The level monitor (R67–R82) -/

/-- The level monitor replaced by one of the same settings. -/
theorem setLevel_keeps {u : LevelMonitor} {s : State}
    (sound : ∀ c, (u.sound.get c).settings = (s.level.sound.get c).settings)
    (sense : ∀ l, (u.sense.get l).settings = (s.level.sense.get l).settings) : Keeps s (setLevel u s) where
  __ := Keeps.refl s
  sound law c := (sound c).symm ▸ law c
  sense law l := (sense l).symm ▸ law l

theorem frameLevel_settings (lane : Lane) (started before after : Bool) (frame : List Int) (u : LevelMonitor) (c : Fin 6) :
    ((frameLevel lane started before after frame u).sound.get c).settings = (u.sound.get c).settings := by
  unfold frameLevel
  rw [Table.get_mapIdx]
  split <;> rfl

theorem blockLevel_settings (sense drive : Fin 8 → List Int) (u : LevelMonitor) (l : Fin 8) :
    ((blockLevel sense drive u).sense.get l).settings = (u.sense.get l).settings := by
  unfold blockLevel
  rw [Table.get_mapIdx]

theorem soundEval_settings (r : SoundChannel) : (soundEval r).1.settings = r.settings := by
  unfold soundEval
  split
  · split
    · split <;> rfl
    · rfl
  · split
    · split <;> rfl
    · rfl

theorem setSound_keeps {c : Fin 6} {r : SoundChannel} {s : State} (range : SoundLaw s → SoundInRange r.settings) :
    Keeps s (setSound c r s) where
  __ := Keeps.refl s
  sound law := Table.forall_get_set (P := fun r : SoundChannel => SoundInRange r.settings) (range law) law

theorem handTurn_keeps (c : Fin 6) (turn : LevelState) (s : State) : Keeps s (handTurn c turn s) :=
  (setMail_keeps _ s).trans (offerTo_keeps _ _ _ _ _ _)

section
variable (s : State)

theorem soundPeriod_keeps (c : Fin 6) : Keeps s (soundPeriod s c) := by
  have same : (if evaluated s c then soundEval (s.level.sound.get c) else (s.level.sound.get c, none)).1.settings =
      (s.level.sound.get c).settings := by
    split
    · exact soundEval_settings _
    · rfl
  have set : Keeps s (setSound c { (if evaluated s c then soundEval (s.level.sound.get c) else (s.level.sound.get c, none)).1 with
      lastPeak := (s.level.sound.get c).peak, peak := 0 } s) := setSound_keeps fun law => same.symm ▸ law c
  unfold soundPeriod
  dsimp only
  split
  · exact set.trans (handTurn_keeps _ _ _)
  · exact set

theorem sensePeriod_keeps (l : Fin 8) : Keeps s (sensePeriod s l) where
  __ := Keeps.refl s
  sense law := Table.forall_get_set (P := fun r : SenseChannel => SenseInRange r.settings) (law l) law

theorem loopsPeriod_keeps : Keeps s (loopsPeriod s) := by
  refine setZoneUnit_keeps (fun _ => ⟨rfl, rfl⟩) (fun law l => ?_) id
  have same : ∀ r : LoopRecord, r.recover.countRecovery.settings = r.settings := fun r => by
    unfold LoopRecord.countRecovery LoopRecord.recover
    split <;> split <;> rfl
  rw [Table.get_map, same]
  exact law l

theorem nextPeriod_keeps : Keeps s (nextPeriod s) := { Keeps.refl s with }

theorem levelPeriodEnd_preserves : Preserves s (execLevelPeriodEnd s) := by
  unfold execLevelPeriodEnd
  split
  · exact .next (((loopsPeriod_keeps s).trans (foldl_keeps soundPeriod_keeps _ _)).trans
      ((foldl_keeps sensePeriod_keeps _ _).trans (nextPeriod_keeps _)))
  · exact .idle s

/-- R81: the settings set lie in their ranges. -/
theorem levelSet_keeps (ps : List Byte) : Keeps s (levelSet ps s).state := by
  unfold levelSet
  dsimp only
  generalize (if natAt ps 0 < 6 then 7 else 6) = length
  split
  · exact .refl s
  · split
    · exact .refl s
    · split
      · exact .refl s
      · split
        · exact setSound_keeps fun _ => readSoundSettings_inRange _
        · exact { Keeps.refl s with
            sense := Table.forall_get_set (P := fun r : SenseChannel => SenseInRange r.settings) (readSenseSettings_inRange _) }
        · exact .refl s

/-! ## The mix (R45–R66) -/

theorem inputFrame_preserves (lane : Lane) (good : Bool) (slots : List Sample) :
    Preserves s (execInputFrame lane good slots s) := by
  unfold execInputFrame lockNotice
  dsimp only
  have engine (e : Engine) : Keeps s (setEngine e s) := { Keeps.refl s with }
  have level (e : Engine) (started before after : Bool) (frame : List Int) :
      Keeps s (setLevel (frameLevel lane started before after frame s.level) (setEngine e s)) :=
    (engine e).trans (setLevel_keeps (frameLevel_settings _ _ _ _ _ _) fun _ => rfl)
  split
  · exact .next (level _ _ _ _ _)
  · exact .next ((level _ _ _ _ _).trans (offerTo_keeps _ _ _ _ _ _))

theorem ZoneRecord.rampStep_same (r : ZoneRecord) : r.rampStep.stack = r.stack ∧ r.rampStep.settings = r.settings := by
  unfold ZoneRecord.rampStep
  split <;> exact ⟨rfl, rfl⟩

theorem ZoneRecord.aim_same (r : ZoneRecord) : r.aim.stack = r.stack ∧ r.aim.settings = r.settings := by
  unfold ZoneRecord.aim
  split <;> exact ⟨rfl, rfl⟩

theorem ZoneRecord.countRamp_same (r : ZoneRecord) : r.countRamp.stack = r.stack ∧ r.countRamp.settings = r.settings := by
  unfold ZoneRecord.countRamp
  split <;> exact ⟨rfl, rfl⟩

theorem rampStep_preserves (z : ZoneNo) : Preserves s (execRampStep z s) :=
  .next (setZoneUnit_keeps (.modify ZoneRecord.rampStep_same _ z) id id)

theorem settleBlock_keeps : Keeps s (settleBlock s) :=
  (setZoneUnit_keeps (.map ZoneRecord.rampStep_same _) id id : Keeps s (settleRamps s)).trans
    ((foldl_keeps phraseEnd_keeps _ _).trans
      ((foldl_keeps repeatSilenceEnd_keeps _ _).trans ((chimeNoteEnd_keeps _).trans (chimeStrikeEnd_keeps _))))

theorem aimZones_keeps : Keeps s (aimZones s) := setZoneUnit_keeps (.map ZoneRecord.aim_same _) id id

theorem countRamps_keeps : Keeps s (countRamps s) := setZoneUnit_keeps (.map ZoneRecord.countRamp_same _) id id

theorem setEngine_keeps (e : Engine) : Keeps s (setEngine e s) := { Keeps.refl s with }

theorem firstPeriod_keeps (started : Bool) : Keeps s (firstPeriod started s) := by
  unfold firstPeriod
  split
  · exact .refl s
  · exact nextPeriod_keeps s

theorem clipCheck_keeps (sums : Fin 18 → List Int) (z : ZoneNo) : Keeps s (clipCheck sums s z) := by
  have marked : Keeps s (setZoneUnit (s.zoneUnit.modifyZone z fun r => { r with lastClip := some s.clock }) s) :=
    setZoneUnit_keeps (.modify (f := fun r => { r with lastClip := some s.clock }) (fun _ => ⟨rfl, rfl⟩) _ z) id id
  unfold clipCheck
  dsimp only
  split
  · exact .refl s
  · split
    · exact marked.trans (offer_keeps _ _ _ _)
    · exact marked

/-- R45, R49, R50, R57: what a block makes of the engine, the resources and the ramps. -/
theorem blockMade_keeps (e : Engine) : Keeps s (countRamps (setCalls (advanceResources s.call) (setEngine e s))) := by
  refine .trans ?_ (countRamps_keeps _)
  refine (setEngine_keeps s e).trans ?_
  exact setCalls_keeps fun _ => NoPhrases.of_queue rfl

theorem mixBlock_keeps (sense : List (List Sample)) : Keeps s (mixBlock sense s) := by
  unfold mixBlock
  dsimp only
  refine .trans ?_ (foldl_keeps (fun s z => clipCheck_keeps s _ z) _ _)
  refine .trans ?_ (setLevel_keeps (fun _ => rfl) (blockLevel_settings _ _ _))
  refine .trans ?_ (firstPeriod_keeps _ _)
  exact ((settleBlock_keeps s).trans (aimZones_keeps _)).trans (blockMade_keeps _ _)

end

end Sys2Proof.Machine

/-! PROOFS. The Description unit keeps the laws: what an evaluation makes of a channel and its overlay (R155–R167). -/

namespace Sys2Proof.Machine

/-! ## Entering a state (R167, R169) -/

/-- A step that leaves the zones, the channels and the views of the halls. -/
structure SameChannels (s t : State) : Prop where
  zoneUnit : t.zoneUnit = s.zoneUnit
  channels : t.description.channels = s.description.channels
  view : t.description.view = s.description.view

theorem SameChannels.refl (s : State) : SameChannels s s := ⟨rfl, rfl, rfl⟩

theorem SameChannels.trans {s t u : State} (a : SameChannels s t) (b : SameChannels t u) : SameChannels s u :=
  ⟨b.zoneUnit.trans a.zoneUnit, b.channels.trans a.channels, b.view.trans a.view⟩

theorem handTally_same (s : State) (d : Fin 4) : SameChannels s (handTally s d) := by
  unfold handTally
  dsimp only
  split <;> exact ⟨rfl, rfl, rfl⟩

theorem handTallies_same (s : State) : SameChannels s (handTallies s) :=
  foldl_frame SameChannels.refl SameChannels.trans handTally_same _ _

theorem handTally_keeps (s : State) (d : Fin 4) : Keeps s (handTally s d) := by
  unfold handTally
  dsimp only
  split
  · exact .refl s
  · exact { Keeps.refl s with }

theorem handTallies_keeps (s : State) : Keeps s (handTallies s) := foldl_keeps handTally_keeps _ _

/-- A channel's record in a new state. -/
def Channel.into (ch : Channel) (t : TalkState) (expiry : Option Clock) : Channel := { ch with talk := t, expiry := expiry }

theorem enter_same (c : Fin 4) (t : TalkState) (expiry : Option Clock) (s : State) :
    SameChannels (setChannel c ((channelOf s c).into t expiry) s) (enter c t expiry s) := by
  unfold enter
  dsimp only
  split
  · exact .refl _
  · refine .trans ?_ (handTallies_same _)
    split <;> exact ⟨rfl, rfl, rfl⟩

theorem setChannel_keepsUnits {c : Fin 4} {ch : Channel} {s : State}
    (range : ChannelSettingsLaw s → ChannelInRange ch.settings) : KeepsUnits s (setChannel c ch s) where
  __ := KeepsUnits.refl s
  settings law := Table.forall_get_set (P := fun ch : Channel => ChannelInRange ch.settings) (range law) law

theorem enter_keepsUnits (c : Fin 4) (t : TalkState) (expiry : Option Clock) (s : State) : KeepsUnits s (enter c t expiry s) := by
  have set : KeepsUnits s (setChannel c ((channelOf s c).into t expiry) s) := setChannel_keepsUnits fun law => law c
  unfold enter
  dsimp only
  split
  · exact set
  · refine set.trans (.trans ?_ (handTallies_keeps _).toKeepsUnits)
    split
    · exact (offer_keeps _ _ _ _).toKeepsUnits
    · exact .refl _

section
variable {c : Fin 4} {t : TalkState} {expiry : Option Clock} {s : State}

theorem enter_channel_self : (enter c t expiry s).description.channels.get c = (channelOf s c).into t expiry := by
  rw [(enter_same c t expiry s).channels]
  exact Table.get_set_self _ _ _

theorem enter_channel_other {d : Fin 4} (other : d ≠ c) :
    (enter c t expiry s).description.channels.get d = s.description.channels.get d := by
  rw [(enter_same c t expiry s).channels]
  exact Table.get_set_ne _ _ other.symm

/-- R155: a channel that enters a state has the overlay and the expiry that go with it. -/
theorem enter_overlays (others : ∀ d, d ≠ c → OverlayLaw s.zoneUnit.zones s.description.channels d)
    (own : ∀ z, holdsOn s.zoneUnit (.channel c) z = (z = descZone (channelOf s c).settings.zone && onAir t))
    (ends : expiry.isSome = (t = .grace : Bool)) : OverlaysLaw (enter c t expiry s) := by
  intro d
  have zones : (enter c t expiry s).zoneUnit.zones = s.zoneUnit.zones := congrArg ZoneUnit.zones (enter_same c t expiry s).zoneUnit
  by_cases self : d = c
  · subst self
    constructor
    · rw [zones, enter_channel_self]; exact own
    · rw [enter_channel_self]; exact ends
  · constructor
    · rw [zones, enter_channel_other self]; exact (others d self).overlay
    · rw [enter_channel_other self]; exact (others d self).expiry

theorem enter_dark (off : (s.description.view.get (channelOf s c).settings.hall).phase = .dark → t = .off) :
    DarkLaw (enter c t expiry s).description.view (enter c t expiry s).description.channels c := by
  rw [DarkLaw, (enter_same c t expiry s).view, enter_channel_self]
  exact off

end

/-! ## Verdicts (R162–R166) -/

/-- What each verdict asked of the channel and of the phase of its hall. -/
def VerdictSound (view : DescView) (ch : Channel) : Verdict → Prop
  | .stay => view.phase ≠ .dark
  | .become t => onAir t = onAir ch.talk ∧ t ≠ .grace ∧ (view.phase = .dark → t = .off)
  | .leave t => onAir t = false ∧ (view.phase = .dark → t = .off)
  | .tryPush => onAir ch.talk = false ∧ view.phase ≠ .dark
  | .grace => onAir ch.talk = true ∧ view.phase ≠ .dark

theorem idleVerdict_sound {view : DescView} {ch : Channel} (lit : view.phase ≠ .dark) (idle : onAir ch.talk = false)
    (request allowed : Bool) (mode : Option DescMode) : VerdictSound view ch (idleVerdict request allowed mode) := by
  have become (t : TalkState) (quiet : onAir t = false) (other : t ≠ .grace) : VerdictSound view ch (.become t) :=
    ⟨quiet.trans idle.symm, other, fun dark => absurd dark lit⟩
  unfold idleVerdict
  split
  · exact become _ rfl nofun
  · split
    · exact ⟨idle, lit⟩
    · split
      · exact become _ rfl nofun
      · exact become _ rfl nofun

theorem verdict_dark_sound {view : DescView} (dark : view.phase = .dark) (request : Bool) (ch : Channel) :
    VerdictSound view ch (verdict view request ch) := by
  unfold verdict
  rw [if_pos dark]
  cases talk : ch.talk with
  | live | grace => exact ⟨rfl, fun _ => rfl⟩
  | off | idle | wait | cut | muted => exact ⟨(show onAir ch.talk = false by rw [talk]; rfl).symm, nofun, fun _ => rfl⟩

theorem verdict_sound (view : DescView) (request : Bool) (ch : Channel) : VerdictSound view ch (verdict view request ch) := by
  by_cases dark : view.phase = .dark
  · exact verdict_dark_sound dark request ch
  have leave (t : TalkState) (quiet : onAir t = false) : VerdictSound view ch (.leave t) := ⟨quiet, fun k => absurd k dark⟩
  unfold verdict
  rw [if_neg dark]
  cases talk : ch.talk with
  | live =>
    dsimp only
    split
    · exact leave _ rfl
    · split
      · exact leave _ rfl
      · split
        · exact dark
        · split
          · exact ⟨by rw [talk]; rfl, dark⟩
          · exact leave _ rfl
  | grace =>
    dsimp only
    split
    · exact leave _ rfl
    · split
      · exact leave _ rfl
      · split
        · exact ⟨by rw [talk]; rfl, nofun, fun k => absurd k dark⟩
        · exact dark
  | cut =>
    dsimp only
    split
    · exact dark
    · exact ⟨by rw [talk]; rfl, nofun, fun k => absurd k dark⟩
  | off | idle | wait | muted => exact idleVerdict_sound dark (by rw [talk]; rfl) _ _ _

/-! ## Evaluations (R161) -/

theorem evaluate_keepsUnits (s : State) (c : Fin 4) : KeepsUnits s (evaluate s c) := by
  unfold evaluate
  dsimp only
  split
  · exact .refl s
  · exact enter_keepsUnits _ _ _ _
  · exact (remove_keepsUnits _ _ _).trans (enter_keepsUnits _ _ _ _)
  · exact enter_keepsUnits _ _ _ _
  · split
    · exact (push_keepsUnits _ _).trans (enter_keepsUnits _ _ _ _)
    · exact .refl s

theorem withdraw_description (c : Fin 4) (s : State) : (withdraw c s).description = s.description := remove_description _ _ _

section
variable {c : Fin 4} {s : State}

/-- R162: a withdrawal takes the channel's overlay out and leaves those of the others. -/
theorem withdraw_others (law : OverlaysLaw s) {d : Fin 4} (other : d ≠ c) :
    OverlayLaw (withdraw c s).zoneUnit.zones (withdraw c s).description.channels d := by
  rw [withdraw_description]
  refine ⟨fun z => .trans ?_ ((law d).overlay z), (law d).expiry⟩
  have different : decide (Owner.channel c = Owner.channel d) = false :=
        decide_eq_false fun e => other (Owner.channel.inj e).symm
  exact (holdsOn_remove _ _ _ _ z).trans (by rw [different, Bool.and_false, Bool.not_false, Bool.and_true]; rfl)

theorem withdraw_own (law : OverlaysLaw s) (z : ZoneNo) : holdsOn (withdraw c s).zoneUnit (.channel c) z = false := by
  unfold withdraw
  rw [holdsOn_remove, zoneIn_oneZone, decide_eq_true rfl, Bool.and_true]
  have held : holdsOn s.zoneUnit (.channel c) z = (z = descZone (channelOf s c).settings.zone && onAir (channelOf s c).talk) :=
    (law c).overlay z
  by_cases here : z = descZone (channelOf s c).settings.zone
  · rw [decide_eq_true here.symm, Bool.not_true, Bool.and_false]
  · rw [held, decide_eq_false here, Bool.false_and, Bool.false_and]

/-- R162–R165: a channel withdrawn enters a state that holds no overlay. -/
theorem leave_overlays (law : OverlaysLaw s) {t : TalkState} (quiet : onAir t = false) :
    OverlaysLaw (enter c t none (withdraw c s)) := by
  have other : t ≠ .grace := fun e => by rw [e] at quiet; cases quiet
  refine enter_overlays (fun d k => withdraw_others law k) (fun z => ?_) (decide_eq_false other).symm
  rw [withdraw_own law, quiet, Bool.and_false]

/-- R163: a channel that holds no overlay goes LIVE where its push is accepted, and WAIT where it is not. -/
theorem tryPush_overlays (law : OverlaysLaw s) (idle : onAir (channelOf s c).talk = false) (d : Fin 4) :
    let a := push (channelPush c (channelOf s c).settings d) s
    OverlaysLaw (enter c (if a.1 then .live else .wait) none a.2) := by
  intro a
  have same : a.2.description = s.description := push_description _ _
  have record : channelOf a.2 c = channelOf s c := congrArg (fun u : Description => u.channels.get c) same
  have held (z : ZoneNo) : holdsOn s.zoneUnit (.channel c) z = false := .trans ((law c).overlay z) (by
    rw [show onAir (s.description.channels.get c).talk = false from idle, Bool.and_false])
  cases accepted : a.1 with
  | true =>
    refine enter_overlays (fun x other => ?_) (fun z => ?_) rfl
    · rw [same]
      refine ⟨fun z => .trans ?_ ((law x).overlay z), (law x).expiry⟩
      have different : decide (Owner.channel c = Owner.channel x) = false :=
        decide_eq_false fun e => other (Owner.channel.inj e).symm
      exact (holdsOn_push_accepted accepted _ z).trans (by
        rw [show (channelPush c (channelOf s c).settings d).owner = Owner.channel c from rfl, different, Bool.and_false,
          Bool.false_or]
        rfl)
    · rw [record, holdsOn_push_accepted accepted, held, Bool.or_false]
      show (zoneIn z (oneZone _) && decide (Owner.channel c = Owner.channel c)) = _
      rw [zoneIn_oneZone, decide_eq_true rfl]
      exact congrArg (· && true) (decide_eq_decide.mpr eq_comm)
  | false =>
    have holds (o : Owner) (z : ZoneNo) : holdsOn a.2.zoneUnit o z = holdsOn s.zoneUnit o z := holdsOn_push_refused accepted o z
    refine enter_overlays (fun x other => ?_) (fun z => ?_) rfl
    · rw [same]
      exact ⟨fun z => (holds _ z).trans ((law x).overlay z), (law x).expiry⟩
    · rw [holds, held]
      exact (Bool.and_false _).symm

/-- What an evaluation leaves of the laws: the overlays go with the channels' states, and the channel evaluated is OFF where
its hall is DARK. -/
structure Evaluated (c : Fin 4) (s t : State) : Prop where
  overlays : OverlaysLaw s → OverlaysLaw t
  dark : DarkLaw t.description.view t.description.channels c
  view : t.description.view = s.description.view
  others : ∀ d, d ≠ c → t.description.channels.get d = s.description.channels.get d

theorem Evaluated.refl (lit : (s.description.view.get (channelOf s c).settings.hall).phase ≠ .dark) : Evaluated c s s :=
  ⟨id, fun dark => absurd dark lit, rfl, fun _ _ => rfl⟩

/-- A channel that enters a state, perhaps after a push or a removal. -/
theorem Evaluated.enter {t : TalkState} {expiry : Option Clock} {u : State} (same : u.description = s.description)
    (overlays : OverlaysLaw s → OverlaysLaw (enter c t expiry u))
    (off : (s.description.view.get (channelOf s c).settings.hall).phase = .dark → t = .off) :
    Evaluated c s (enter c t expiry u) where
  overlays := overlays
  dark := enter_dark (by rw [channelOf, same]; exact off)
  view := by rw [(enter_same c t expiry u).view, ← same]; rfl
  others d other := by rw [enter_channel_other other, same]

theorem evaluate_evaluated (s : State) (c : Fin 4) : Evaluated c s (evaluate s c) := by
  have sound : VerdictSound _ _ (verdictOf s c) := verdict_sound _ _ _
  have other (law : OverlaysLaw s) (d : Fin 4) (_ : d ≠ c) := law d
  unfold evaluate
  dsimp only
  cases asked : verdictOf s c with
  | stay =>
    rw [asked] at sound
    exact .refl sound
  | become t =>
    rw [asked] at sound
    obtain ⟨air, notGrace, off⟩ := sound
    refine .enter rfl (fun law => enter_overlays (other law) (fun z => ?_) (decide_eq_false notGrace).symm) off
    rw [air]
    exact (law c).overlay z
  | leave t =>
    rw [asked] at sound
    exact .enter (withdraw_description c s) (fun law => leave_overlays law sound.1) sound.2
  | grace =>
    rw [asked] at sound
    obtain ⟨air, lit⟩ := sound
    refine .enter rfl (fun law => enter_overlays (other law) (fun z => ?_) rfl) fun dark => absurd dark lit
    exact ((law c).overlay z).trans (congrArg _ air)
  | tryPush =>
    rw [asked] at sound
    obtain ⟨idle, lit⟩ := sound
    cases input : (channelOf s c).settings.input with
    | none => exact .refl lit
    | some d => exact .enter (push_description _ _) (fun law => tryPush_overlays law idle d) fun dark => absurd dark lit

end

/-- Evaluations of some channels, where the others already are OFF if their hall is DARK. -/
theorem foldl_evaluate (l : List (Fin 4)) {s : State} (law : OverlaysLaw s)
    (dark : ∀ c, c ∉ l → DarkLaw s.description.view s.description.channels c) :
    OverlaysLaw (l.foldl evaluate s) ∧ DarksLaw (l.foldl evaluate s) := by
  induction l generalizing s with
  | nil => exact ⟨law, fun c => dark c List.not_mem_nil⟩
  | cons a l ih =>
    have e := evaluate_evaluated s a
    refine ih (e.overlays law) fun c absent => ?_
    by_cases self : c = a
    · subst self; exact e.dark
    · rw [DarkLaw, e.view, e.others c self]
      exact dark c (by simp [self, absent])

theorem evaluateAll_keepsUnits (which : ChannelSettings → Bool) (s : State) : KeepsUnits s (evaluateAll which s) :=
  foldl_frame KeepsUnits.refl KeepsUnits.trans evaluate_keepsUnits _ _

theorem evaluateAll_keeps (which : ChannelSettings → Bool) (s : State) : Keeps s (evaluateAll which s) where
  toKeepsUnits := evaluateAll_keepsUnits which s
  channels law := foldl_evaluate _ law.1 fun c _ => law.2 c

theorem evaluate_keeps (s : State) (c : Fin 4) : Keeps s (evaluate s c) where
  toKeepsUnits := evaluate_keepsUnits s c
  channels law := foldl_evaluate [c] law.1 fun d _ => law.2 d

/-! ## Requests and events (R156–R170) -/

theorem changeDescriber_keeps (d : Fin 4) (r : Describer) (s : State) : Keeps s (changeDescriber d r s) := by
  have changed : Keeps s (setDescription { s.description with describers := s.description.describers.set d r } s) :=
    { Keeps.refl s with }
  unfold changeDescriber
  split
  · exact .refl s
  · exact changed.trans (evaluateAll_keeps _ _)

theorem talkLatch_keeps (flag : Bool) (ps : List Byte) (s : State) : Keeps s (talkLatch flag ps s).state := by
  unfold talkLatch
  split
  · exact .refl s
  · split
    · exact changeDescriber_keeps _ _ _
    · exact .refl s

/-- R159: the settings of a channel whose old and new halls are DARK, so that it is OFF. -/
theorem setChannel_keeps {c : Fin 4} {v : ChannelSettings} {s : State} (range : ChannelInRange v)
    (old : (s.description.view.get (channelOf s c).settings.hall).phase = .dark) :
    Keeps s (setChannel c { channelOf s c with settings := v } s) where
  toKeepsUnits := setChannel_keepsUnits fun _ => range
  channels law := by
    obtain ⟨overlays, darks⟩ := law
    have off : (channelOf s c).talk = .off := darks c old
    have quiet : onAir (channelOf s c).talk = false := by rw [off]; rfl
    have self : (setChannel c { channelOf s c with settings := v } s).description.channels.get c =
        { channelOf s c with settings := v } := Table.get_set_self _ _ _
    have other {d : Fin 4} (k : d ≠ c) : (setChannel c { channelOf s c with settings := v } s).description.channels.get d =
        s.description.channels.get d := Table.get_set_ne _ _ k.symm
    refine ⟨fun d => ?_, fun d => ?_⟩
    · by_cases k : d = c
      · subst k
        refine ⟨fun z => ((overlays d).overlay z).trans ?_, by rw [self]; exact (overlays d).expiry⟩
        have quiet' : onAir (s.description.channels.get d).talk = false := quiet
        rw [self, quiet', Bool.and_false, quiet, Bool.and_false]
      · refine ⟨fun z => ((overlays d).overlay z).trans ?_, by rw [other k]; exact (overlays d).expiry⟩
        rw [other k]
    · by_cases k : d = c
      · subst k
        rw [DarkLaw, self]
        exact fun _ => off
      · rw [DarkLaw, other k]
        exact darks d

theorem clearLatches_keeps (s : State) : Keeps s (setDescription (clearLatches s.description) s) := { Keeps.refl s with }

theorem reportChannel_keeps (old new : ChannelSettings) (s : State) : Keeps s (reportChannel old new s) := by
  unfold reportChannel
  split
  · exact .refl s
  · exact setMail_keeps _ s

theorem setChannelSettings_keeps {c : Fin 4} {v : ChannelSettings} {s : State} (range : ChannelInRange v)
    (old : (s.description.view.get (channelOf s c).settings.hall).phase = .dark) : Keeps s (setChannelSettings c v s) := by
  unfold setChannelSettings
  dsimp only
  refine .trans ?_ (handTallies_keeps _)
  refine .trans ?_ (reportChannel_keeps _ _ _)
  exact (setChannel_keeps range old).trans (clearLatches_keeps _)

theorem descSet_keeps (ps : List Byte) (s : State) : Keeps s (descSet ps s).state := by
  unfold descSet
  split
  · exact .refl s
  · split
    · exact .refl s
    · split
      · exact .refl s
      · next dark =>
        split
        · next read =>
          rw [accept_state]
          refine setChannelSettings_keeps (readChannelSettings_inRange read) ?_
          simp only [Bool.not_eq_true', Bool.not_eq_false, channelDark, List.all_cons, Bool.and_eq_true, decide_eq_true_eq] at dark
          exact dark.1
        · exact .refl s

theorem takeTalkKey_keeps (rest : List TalkKey) (s : State) : Keeps s (takeTalkKey rest s) := { Keeps.refl s with }

section
variable (s : State)

theorem talkKeyPress_preserves : Preserves s (execTalkKeyPress s) := by
  unfold execTalkKeyPress
  split
  · split
    · exact .next ((takeTalkKey_keeps _ s).trans (changeDescriber_keeps _ _ _))
    · exact .idle s
  · exact .idle s

theorem talkKeyRelease_preserves : Preserves s (execTalkKeyRelease s) := by
  unfold execTalkKeyRelease
  split
  · split
    · exact .next ((takeTalkKey_keeps _ s).trans (changeDescriber_keeps _ _ _))
    · exact .idle s
  · exact .idle s

theorem describerLevelEvent_preserves (d : Fin 4) : Preserves s (execDescriberLevelEvent d s) := by
  unfold execDescriberLevelEvent
  split
  · exact .next ((setMail_keeps _ s).trans (changeDescriber_keeps _ _ _))
  · exact .idle s

/-- R157: a new view of a hall, and every channel of the hall evaluated. -/
theorem descPhaseEvent_preserves : Preserves s (execDescPhaseEvent s) := by
  unfold execDescPhaseEvent
  split
  · next ev rest _ =>
    let view := s.description.view.set ev.hall ⟨ev.new, ev.segment.map fun g => g.2.2⟩
    let t : State := { s with mail := { s.mail with toDescription := rest }, description := { s.description with view := view } }
    have seen : KeepsUnits s t := { KeepsUnits.refl s with }
    refine .next ⟨seen.trans (evaluateAll_keepsUnits _ t), fun law => foldl_evaluate (s := t) _ law.1 fun c absent => ?_⟩
    have other : ev.hall ≠ (channelOf s c).settings.hall := fun e =>
      absent (List.mem_filter.mpr ⟨Table.mem_finUpTo c, decide_eq_true e.symm⟩)
    have same : view.get (channelOf s c).settings.hall = s.description.view.get (channelOf s c).settings.hall :=
      PerHall.get_set_ne _ _ other
    show (view.get (channelOf s c).settings.hall).phase = .dark → _
    rw [same]
    exact law.2 c
  · exact .idle s

theorem descStackReport_preserves : Preserves s (execDescStackReport s) := by
  unfold execDescStackReport
  split
  · exact .next ((setMail_keeps _ s).trans (evaluateAll_keeps _ _))
  · exact .idle s

/-- R165: a grace that runs out: the overlay goes, and the channel is CUT. Its hall is not DARK. -/
theorem graceExpired_keeps {c : Fin 4} (grace : (channelOf s c).talk = .grace) : Keeps s (enter c .cut none (withdraw c s)) where
  toKeepsUnits := (remove_keepsUnits _ _ s).trans (enter_keepsUnits _ _ _ _)
  channels law := by
    obtain ⟨overlays, darks⟩ := law
    have lit : (s.description.view.get (channelOf s c).settings.hall).phase ≠ .dark := fun dark => by
      have off : (channelOf s c).talk = .off := darks c dark
      rw [off] at grace
      cases grace
    have e : Evaluated c s (enter c .cut none (withdraw c s)) :=
      .enter (withdraw_description c s) (fun law => leave_overlays law rfl) fun dark => absurd dark lit
    refine ⟨e.overlays overlays, fun d => ?_⟩
    by_cases self : d = c
    · subst self; exact e.dark
    · rw [DarkLaw, e.view, e.others d self]
      exact darks d

theorem graceExpiry_preserves (c : Fin 4) : Preserves s (execGraceExpiry c s) := by
  unfold execGraceExpiry
  dsimp only
  split
  · next grace _ =>
    split
    · exact .next (graceExpired_keeps s grace)
    · exact .idle s
  · exact .idle s

/-! ## OVERLAY_PUSH and OVERLAY_REMOVAL -/

theorem overlayPush_preserves (q : PushRequest) : Preserves s (execOverlayPush q s) := by
  unfold execOverlayPush
  split
  · split
    · split
      · exact .next (startCall_keeps _ _ s)
      · exact .idle s
    · exact .idle s
  · split
    · exact .next (evaluate_keeps s _)
    · exact .idle s

theorem overlayRemoval_preserves (o : Owner) (zones : ZoneSet) : Preserves s (execOverlayRemoval o zones s) := by
  unfold execOverlayRemoval
  split
  · next absent => exact .next (remove_absent_keeps absent)
  · split
    · split
      · split
        · exact .next (endWithPass_keeps _ _ s)
        · exact .idle s
      · exact .idle s
    · split
      · exact .next (evaluate_keeps s _)
      · exact .idle s

end

end Sys2Proof.Machine

/-! PROOFS. The Programme unit, the Admission unit and the Panel unit keep the laws. -/

namespace Sys2Proof.Machine

/-! ## Halls (R1–R20) -/

theorem bothHallsDark_iff {s : State} : bothHallsDark s = true ↔ ∀ h, (hallOf s h).phase = .dark := by
  unfold bothHallsDark hallDark
  rw [Bool.and_eq_true, decide_eq_true_eq, decide_eq_true_eq]
  exact ⟨fun dark h => by cases h; exacts [dark.1, dark.2], fun dark => ⟨dark .a, dark .b⟩⟩

/-- A hall's record replaced: while the store is open a DARK hall stays DARK. -/
theorem setHall_keeps {h : Hall} {r : HallRecord} {s : State} (range : HallsLaw s → HallInRange r.settings)
    (dark : storeOpen s = true → (hallOf s h).phase = .dark → r.phase = .dark) : Keeps s (setHall h r s) where
  __ := Keeps.refl s
  halls law := PerHall.forall_get_set (P := fun r : HallRecord => HallInRange r.settings) (range law) law
  store law isOpen := by
    obtain ⟨halls, phrases⟩ := law isOpen
    have each := bothHallsDark_iff.mp halls
    exact ⟨bothHallsDark_iff.mpr
      (PerHall.forall_get_set (P := fun r : HallRecord => r.phase = .dark) (dark isOpen (each h)) each), phrases⟩

/-- A hall's record replaced by one of the same settings and phase. -/
theorem setHall_keeps_of_phase {h : Hall} {r : HallRecord} {s : State} (settings : r.settings = (hallOf s h).settings)
    (phase : r.phase = (hallOf s h).phase) : Keeps s (setHall h r s) :=
  setHall_keeps (fun law => settings ▸ law h) fun _ dark => phase.trans dark

theorem handPhase_keeps (ev : PhaseEvent) (s : State) : Keeps s (handPhase ev s) := { Keeps.refl s with }

theorem orderCall_keeps (o : ProgrammeOrder) (s : State) : Keeps s (orderCall o s) := { Keeps.refl s with }

theorem changePhase_keeps {h : Hall} {r : HallRecord} {s : State} (settings : r.settings = (hallOf s h).settings)
    (dark : storeOpen s = true → (hallOf s h).phase = .dark → r.phase = .dark) (a : Option Admission) (c : Cause) :
    Keeps s (changePhase h r a c s) :=
  (setHall_keeps (fun law => settings ▸ law h) dark).trans (handPhase_keeps _ _)

/-- The phase of a hall that is not DARK changes. -/
theorem changePhase_keeps_of_lit {h : Hall} {r : HallRecord} {s : State} (settings : r.settings = (hallOf s h).settings)
    {p : Phase} (phase : (hallOf s h).phase = p) (lit : p ≠ .dark) (a : Option Admission) (c : Cause) :
    Keeps s (changePhase h r a c s) :=
  changePhase_keeps settings (fun _ dark => absurd (phase.symm.trans dark) lit) a c

/-- The phase of a hall that is not DARK changes, after a change that leaves the hall. -/
theorem changePhase_keeps_after {h : Hall} {r : HallRecord} {s t : State} (first : Keeps s t) (same : hallOf t h = hallOf s h)
    (settings : r.settings = (hallOf s h).settings) {p : Phase} (phase : (hallOf s h).phase = p) (lit : p ≠ .dark)
    (a : Option Admission) (c : Cause) : Keeps s (changePhase h r a c t) :=
  first.trans (changePhase_keeps_of_lit (same ▸ settings) (same ▸ phase) lit a c)

theorem fireStep_keeps (h : Hall) (s : State) : Keeps s (fireStep h s) := by
  unfold fireStep
  dsimp only
  split
  · next e rest _ _ _ =>
    have left : Keeps s (setHall h { hallOf s h with steps := rest } s) := setHall_keeps_of_phase rfl rfl
    split
    · exact left.trans (orderCall_keeps _ _)
    · exact left
  · exact .refl s

theorem fireAtOnce_keeps (h : Hall) (n : Nat) (s : State) : Keeps s (fireAtOnce h n s) := by
  induction n generalizing s with
  | zero => exact .refl s
  | succ n ih =>
    unfold fireAtOnce
    split
    · exact (fireStep_keeps h s).trans (ih _)
    · exact .refl s

theorem schedule_settings (r : HallRecord) (plans : Table (List PlanStep) 8) (now due : Clock) (plan : Option (Fin 8)) :
    (r.schedule plans now due plan).settings = r.settings := by cases plan <;> rfl

theorem openedHall_settings (r : HallRecord) (plans : Table (List PlanStep) 8) (now : Clock) (seconds : Option Nat) :
    (openedHall r plans now seconds).settings = r.settings := by
  cases seconds with
  | none => rfl
  | some d => exact schedule_settings _ _ _ _ _

/-- R8: no hall opens while the store is open. -/
theorem shut_of_openFault {h : Hall} {s : State} (sound : openFault h s = none) : storeOpen s = false := by
  unfold openFault at sound
  dsimp only at sound
  split at sound
  · cases sound
  · split at sound
    · cases sound
    · next shut => exact Bool.eq_false_iff.mpr shut

section
variable (ps : List Byte) (s : State)

theorem orderClear_keeps : Keeps s (orderClear ps s).state := by
  unfold orderClear
  split
  · exact .refl s
  · dsimp only
    split
    · exact .refl s
    · exact setHall_keeps_of_phase rfl rfl

theorem orderPut_keeps : Keeps s (orderPut ps s).state := by
  unfold orderPut
  dsimp only
  split
  · exact .refl s
  · split
    · exact .refl s
    · split
      · exact .refl s
      · split
        · exact .refl s
        · split
          · exact .refl s
          · exact setHall_keeps_of_phase rfl rfl

theorem orderAppend_keeps : Keeps s (orderAppend ps s).state := by
  unfold orderAppend
  split
  · dsimp only
    split
    · exact .refl s
    · split
      · exact .refl s
      · split
        · exact .refl s
        · split
          · next ended =>
            rw [accept_state]
            refine changePhase_keeps_of_lit ?_ ended (by decide) _ _
            rfl
          · exact setHall_keeps_of_phase rfl rfl
  · exact .refl s

theorem hallOpen_keeps : Keeps s (hallOpen ps s).state := by
  unfold hallOpen
  split
  · exact .refl s
  · split
    · exact .refl s
    · next sound =>
      dsimp only
      rw [accept_state]
      refine .trans ?_ (fireAtOnce_keeps _ _ _)
      exact changePhase_keeps (openedHall_settings _ _ _ _)
        (fun isOpen => absurd ((shut_of_openFault sound).symm.trans isOpen) Bool.false_ne_true) _ _

theorem cancelPlanCalls_keeps (h : Hall) : Keeps s (cancelPlanCalls h s) := orderCall_keeps _ s

variable {s}

theorem startSegment_keeps {h : Hall} {p : Phase} (phase : (hallOf s h).phase = p) (lit : p ≠ .dark) (g : Segment) :
    Keeps s (startSegment h (hallOf s h) g s) := by
  have cancel : Keeps s (if (hallOf s h).phase = .opened then cancelPlanCalls h s else s) := by
    split
    · exact cancelPlanCalls_keeps s h
    · exact .refl s
  have same : hallOf (if (hallOf s h).phase = .opened then cancelPlanCalls h s else s) h = hallOf s h := by
    split <;> rfl
  have settings : (if (hallOf s h).phase = .opened then (hallOf s h).endSpan else hallOf s h).settings =
      (hallOf s h).settings := by
    split <;> rfl
  unfold startSegment
  simp only
  split
  · refine .trans ?_ (fireAtOnce_keeps _ _ _)
    refine changePhase_keeps_after cancel same ?_ phase lit _ _
    exact (schedule_settings _ _ _ _ _).trans settings
  · refine changePhase_keeps_after cancel same ?_ phase lit _ _
    exact settings

variable (s)

theorem segStart_keeps : Keeps s (segStart ps s).state := by
  unfold segStart
  split
  · exact .refl s
  · dsimp only
    split
    · exact .refl s
    · split
      · next phase =>
        split
        · exact startSegment_keeps phase (by decide) _
        · exact .refl s
      · next phase =>
        split
        · exact startSegment_keeps phase (by decide) _
        · exact .refl s
      · next phase =>
        rw [accept_state]
        refine changePhase_keeps_after (cancelPlanCalls_keeps s _) ?_ ?_ phase (by decide) _ _ <;> rfl
      · exact .refl s

theorem segEnd_keeps : Keeps s (segEnd ps s).state := by
  unfold segEnd
  split
  · exact .refl s
  · dsimp only
    split
    · exact .refl s
    · split
      · next phase =>
        rw [accept_state]
        refine changePhase_keeps_of_lit ?_ phase (by decide) _ _
        rfl
      · next phase =>
        rw [accept_state]
        refine changePhase_keeps_of_lit ?_ phase (by decide) _ _
        rfl
      · next phase =>
        rw [accept_state]
        refine changePhase_keeps_after (cancelPlanCalls_keeps s _) ?_ ?_ phase (by decide) _ _ <;> rfl
      · exact .refl s

theorem gapMark_keeps : Keeps s (gapMark ps s).state := by
  unfold gapMark
  split
  · exact .refl s
  · dsimp only
    split
    · next may =>
      simp only [Bool.and_eq_true, decide_eq_true_eq] at may
      rw [accept_state]
      refine changePhase_keeps_of_lit ?_ may.1 (by decide) _ _
      rfl
    · exact .refl s

theorem gapEnd_keeps : Keeps s (gapEnd ps s).state := by
  unfold gapEnd
  split
  · exact .refl s
  · dsimp only
    split
    · next phase =>
      rw [accept_state]
      refine changePhase_keeps_of_lit ?_ phase (by decide) _ _
      rfl
    · exact .refl s

theorem teardown_keeps (h : Hall) : Keeps s (teardown h s) := by
  refine (orderCall_keeps (.cancelHall h) s).trans ?_
  refine changePhase_keeps ?_ (fun _ _ => ?_) _ _ <;> rfl

theorem hallDarkRequest_keeps : Keeps s (hallDarkRequest ps s).state := by
  unfold hallDarkRequest
  split
  · split
    · exact .refl s
    · exact teardown_keeps s _
    · exact teardown_keeps s _
    · split
      · exact teardown_keeps s _
      · exact .refl s
  · exact .refl s

/-! ### Settings and plans (R21, R27) -/

theorem readHallSettings_inRange {ps : List Byte} {x : HallSettings × Bool} (read : readHallSettings ps = some x) :
    HallInRange x.1 := by
  obtain ⟨preshow, -, rfl⟩ := readHallSettings_eq_some_iff.mp read
  have brk := clampNat_range (lo := 10) (hi := 300) (by decide) (wordAt ps 0)
  have gap := clampNat_range (lo := 5) (hi := 120) (by decide) (natAt ps 2)
  have warn := clampNat_range (lo := 0) (hi := 30) (by decide) (natAt ps 3)
  refine ⟨brk.1, brk.2, gap.1, gap.2, warn.2, fun n phrase => ?_⟩
  dsimp only at phrase
  split at phrase
  · cases phrase
  · next present =>
    cases phrase
    have byte := natAt_lt ps 4
    have other : natAt ps 4 ≠ 255 := mt byteAt_eq_none_iff.mpr present
    omega

theorem hallSet_keeps : Keeps s (hallSet ps s).state := by
  unfold hallSet
  split
  · exact .refl s
  · split
    · exact .refl s
    · split
      · next read => exact setHall_keeps (fun _ => readHallSettings_inRange read) fun _ => id
      · exact .refl s

theorem hallStatus_keeps : Keeps s (hallStatus ps s).state := by
  unfold hallStatus
  split <;> exact .refl s

/-- R21: a plan step's record that is long enough for its content. -/
theorem readPlanStep_inRange {ps : List Byte} {x : PlanStep × Bool} (read : readPlanStep ps = some x) (long : 10 ≤ ps.length) :
    PlanStepInRange x.1 := by
  obtain ⟨mode, targets, -, -, allowed, content⟩ := readPlanStep_eq_some_iff.mp read
  obtain ⟨some', none'⟩ := not_or.mp allowed
  have offset := (clampNat_range (Nat.zero_le 3600) (wordAt ps 0)).2
  have priority := (clampNat_range (Nat.zero_le 6) (natAt ps 13)).2
  rcases content with ⟨-, list, phrases, rfl⟩ | ⟨-, pattern, -, rfl⟩
  · obtain ⟨low, high, e⟩ := readPhrases_eq_some_iff.mp phrases
    have length : list.length = natAt (ps.drop 3) 0 := by
      rw [e, List.length_map, List.length_take, List.length_drop, List.length_drop]
      omega
    have bytes : ∀ n ∈ list, n ≤ 255 := fun n member => by
      rw [e] at member
      obtain ⟨b, -, rfl⟩ := List.mem_map.mp member
      exact Nat.le_of_lt_succ b.isLt
    refine ⟨offset, priority, some', Decidable.not_not.mp none', ?_⟩
    simp only [plannable, length, Bool.and_eq_true, decide_eq_true_eq, List.all_eq_true]
    exact ⟨⟨low, high⟩, bytes⟩
  · have strikes := clampNat_range (lo := 1) (hi := 4) (by decide) (natAt ps 4)
    exact ⟨offset, priority, some', Decidable.not_not.mp none', decide_eq_true strikes⟩

theorem setPlan_keeps {plan : Fin 8} {steps : List PlanStep} (range : PlansLaw s → PlanInRange steps) :
    Keeps s (setPlan plan steps s) where
  __ := Keeps.refl s
  plans law := Table.forall_get_set (range law) law

theorem PlanInRange.writeStep {steps : List PlanStep} (law : PlanInRange steps) {i : Nat} (place : i ≤ 5 ∧ i ≤ steps.length)
    {st : PlanStep} (range : PlanStepInRange st) : PlanInRange (writeStep steps i st) := by
  obtain ⟨few, each⟩ := law
  refine ⟨by rw [writeStep_length st place.2]; omega, fun x member => ?_⟩
  obtain before | after := List.mem_append.mp member
  · exact each x (List.mem_of_mem_take before)
  · obtain rfl | rest := List.mem_cons.mp after
    · exact range
    · exact each x (List.mem_of_mem_drop rest)

theorem PlanInRange.take {steps : List PlanStep} (law : PlanInRange steps) (i : Nat) : PlanInRange (steps.take i) :=
  ⟨(List.length_take_le' _ _).trans law.1, fun x member => law.2 x (List.mem_of_mem_take member)⟩

theorem planPut_keeps : Keeps s (planPut ps s).state := by
  unfold planPut
  dsimp only
  split
  · next plan present _ _ =>
    generalize wanted : (if present then 18 else 3) = length
    split
    · exact .refl s
    · next form =>
      split
      · exact .refl s
      · split
        · exact .refl s
        · split
          · exact .refl s
          · next place =>
            split
            · next given =>
              split
              · next st read =>
                have long : 10 ≤ (ps.drop 3).length := by
                  rw [given, if_pos rfl] at wanted
                  rw [List.length_drop, Decidable.not_not.mp form, ← wanted]
                  decide
                refine setPlan_keeps s fun law => (law plan).writeStep ?_ (readPlanStep_inRange read long)
                omega
              · exact .refl s
            · exact setPlan_keeps s fun law => (law plan).take _
  · exact .refl s

/-! ### Events and times -/

theorem takeHallLevel_keeps (h : Hall) (rest : List LevelState) : Keeps s (takeHallLevel h rest s) := { Keeps.refl s with }

theorem hallQuietEvent_preserves (h : Hall) : Preserves s (execHallQuietEvent h s) := by
  unfold execHallQuietEvent
  split
  · dsimp only
    split
    · next may =>
      simp only [Bool.and_eq_true, decide_eq_true_eq] at may
      refine .next (changePhase_keeps_after (takeHallLevel_keeps s h _) ?_ ?_ may.1.1 (by decide) _ _) <;> rfl
    · exact .next (takeHallLevel_keeps s h _)
  · exact .idle s

theorem hallSoundEvent_preserves (h : Hall) : Preserves s (execHallSoundEvent h s) := by
  unfold execHallSoundEvent
  split
  · dsimp only
    split
    · next may =>
      simp only [Bool.and_eq_true, decide_eq_true_eq] at may
      refine .next (changePhase_keeps_after (takeHallLevel_keeps s h _) ?_ ?_ may.1 (by decide) _ _) <;> rfl
    · exact .next (takeHallLevel_keeps s h _)
  · exact .idle s

theorem planStepFire_preserves (h : Hall) : Preserves s (execPlanStepFire h s) := by
  unfold execPlanStepFire
  split
  · exact .next (fireStep_keeps h s)
  · exact .idle s

theorem intervalDue_preserves (h : Hall) : Preserves s (execIntervalDue h s) := by
  unfold execIntervalDue
  dsimp only
  split
  · split
    · refine .next (.trans ?_ (offer_keeps _ _ _ _))
      exact setHall_keeps_of_phase rfl rfl
    · exact .idle s
  · exact .idle s

end

/-! ## Admission (R83–R110) -/

/-- The Admission unit replaced by one of the same settings. -/
theorem setAdmission_keeps {u : AdmissionUnit} {s : State}
    (same : ∀ e, (u.entrances.get e).settings = (s.admission.entrances.get e).settings) : Keeps s (setAdmission u s) where
  __ := Keeps.refl s
  doors law := by
    have settings : (fun e => (u.entrances.get e).settings) = fun e => (s.admission.entrances.get e).settings := funext same
    have doors : DoorsInRange fun e => (s.admission.entrances.get e).settings := law
    exact (settings.symm ▸ doors : DoorsInRange fun e => (u.entrances.get e).settings)

/-- A change of the Admission unit and of what is handed that the laws of its list do not see. -/
theorem Unseen.keeps {s t : State} (unseen : Unseen s t) (only : OnlyAdmission s t) : Keeps s t := by
  have moved : Keeps s { setAdmission t.admission s with mail := t.mail } :=
    (setAdmission_keeps unseen.alike.settings).trans (setMail_keeps _ _)
  exact (only : t = _) ▸ moved

section
variable (s : State)

theorem workLamps_keeps : Keeps s (workLamps s) := (workLamps_unseen s).keeps (workLamps_frame s)

theorem listChanged_keeps : Keeps s (listChanged s) := (listChanged_unseen s).keeps (listChanged_frame s)

theorem partyNotice_keeps (n : Nat) (c : PartyChange) : Keeps s (partyNotice n c s) := offer_keeps _ _ _ _

theorem windowNotice_keeps (h : Hall) (c : WindowCause) (d : WindowChange) : Keeps s (windowNotice h c d s) := offer_keeps _ _ _ _

theorem closingNotice_keeps (h : Hall) (b : Bool) (w : Window) : Keeps s (closingNotice h b w s) :=
  (closingNotice_unseen h b w s).keeps (closingNotice_frame h b w s)

theorem refuseLamp_keeps (e : Fin 12) : Keeps s (refuseLamp e s) := by
  unfold refuseLamp
  split
  · exact setMail_keeps _ s
  · exact .refl s

theorem moveLamp_keeps (old new : Option (Fin 12)) (o : EntranceLamp) : Keeps s (moveLamp old new o s) := by
  have hand (m : LampMessage) (s : State) : Keeps s (handLamp m s) := setMail_keeps _ s
  unfold moveLamp
  dsimp only
  split
  · exact .refl s
  · cases old <;> cases new
    · exact .refl s
    · exact hand _ _
    · exact hand _ _
    · exact (hand _ _).trans (hand _ _)

theorem setParties_keeps (l : List Party) : Keeps s (setParties l s) := { Keeps.refl s with }

theorem setWindow_keeps (h : Hall) (w : Option Window) : Keeps s (setWindow h w s) := { Keeps.refl s with }

theorem setLink_keeps (k : Fin 64) (n : Option Nat) : Keeps s (setLink k n s) := { Keeps.refl s with }

theorem dropParty_keeps (n : Nat) : Keeps s (dropParty n s) := { Keeps.refl s with }

theorem modifyEntrance_keeps (e : Fin 12) {f : Entrance → Entrance} (same : ∀ x, (f x).settings = x.settings) :
    Keeps s (modifyEntrance e f s) :=
  setAdmission_keeps fun x => by
    by_cases k : e = x
    · subst k; exact (congrArg Entrance.settings (Table.get_modify_self _ _ _)).trans (same _)
    · exact congrArg Entrance.settings (Table.get_modify_ne _ _ k)

theorem selectAt_keeps (w : Window) (e : Fin 12) : Keeps s (selectAt w e s) := setParties_keeps _ _

theorem selectionPass_keeps (e : Fin 12) : Keeps s (selectionPass e s) := by
  unfold selectionPass
  split
  · exact (selectAt_keeps s _ _).trans (workLamps_keeps _)
  · exact .refl s

theorem addParty_keeps (e : Fin 12) (size : Nat) (o : PartyOrigin) (a : Bool) : Keeps s (addParty e size o a s).2 := by
  unfold addParty
  dsimp only
  refine .trans ?_ (selectionPass_keeps _ _)
  refine .trans ?_ (listChanged_keeps _)
  refine .trans ?_ (partyNotice_keeps _ _ _)
  exact setAdmission_keeps fun _ => rfl

theorem discard_keeps (q : Party) : Keeps s (discard s q) :=
  (dropParty_keeps s _).trans ((partyNotice_keeps _ _ _).trans (listChanged_keeps _))

theorem seat_keeps (q : Party) : Keeps s (seat s q) := by
  unfold seat
  dsimp only
  refine .trans ?_ (listChanged_keeps _)
  refine .trans ?_ (partyNotice_keeps _ _ _)
  refine .trans ?_ (setAdmission_keeps fun _ => rfl)
  exact (dropParty_keeps s _).trans (modifyEntrance_keeps _ _ fun _ => rfl)

theorem zeroCounts_keeps (h : Hall) : Keeps s (zeroCounts h s) :=
  setAdmission_keeps fun e => by
    dsimp only
    rw [Table.get_map]
    split <;> rfl

theorem submitAdmissionCall_keeps (h : Hall) (w : Window) (z : ZoneSet) : Keeps s (submitAdmissionCall h w z s) :=
  (submitAdmissionCall_unseen h w z s).keeps (submitAdmissionCall_frame h w z s)

theorem openWindow_keeps (h : Hall) (c : WindowCause) (n : Option Nat) : Keeps s (openWindow h c n s) := by
  unfold openWindow
  dsimp only
  refine .trans ?_ (listChanged_keeps _)
  refine .trans ?_ (closingNotice_keeps _ _ _ _)
  refine .trans ?_ (windowNotice_keeps _ _ _ _)
  refine .trans ?_ (submitAdmissionCall_keeps _ _ _ _)
  refine .trans ?_ (foldl_keeps (fun s e => selectAt_keeps s _ e) _ _)
  exact (setWindow_keeps s _ _).trans (zeroCounts_keeps _ _)

theorem closeWindow_keeps (h : Hall) : Keeps s (closeWindow h s) := by
  unfold closeWindow
  split
  · exact .refl s
  · dsimp only
    refine .trans ?_ (workLamps_keeps _)
    refine .trans ?_ (windowNotice_keeps _ _ _ _)
    refine .trans ?_ (setMail_keeps _ _)
    exact (setParties_keeps s _).trans (setWindow_keeps _ _ _)

theorem retimeWindow_keeps (h : Hall) (w : Window) : Keeps s (retimeWindow h w s) := by
  unfold retimeWindow
  dsimp only
  refine .trans ?_ (workLamps_keeps _)
  refine .trans ?_ (closingNotice_keeps _ _ _ _)
  exact (setWindow_keeps s _ _).trans (windowNotice_keeps _ _ _ _)

theorem discardHall_keeps (h : Hall) : Keeps s (discardHall h s) := foldl_keeps discard_keeps _ _

theorem openBreak_keeps (h : Hall) : Keeps s (openBreak h s) := openWindow_keeps s _ _ _

theorem admissionAction_keeps (ev : PhaseEvent) : Keeps s (admissionAction ev s) := by
  unfold admissionAction
  dsimp only
  split
  · exact (closeWindow_keeps s _).trans (discardHall_keeps _ _)
  · exact (closeWindow_keeps s _).trans (discardHall_keeps _ _)
  · exact setAdmission_keeps fun _ => rfl
  · exact closeWindow_keeps s _
  · exact closeWindow_keeps s _
  · exact closeWindow_keeps s _
  · exact closeWindow_keeps s _
  · exact (closeWindow_keeps s _).trans (openWindow_keeps _ _ _ _)
  · exact (closeWindow_keeps s _).trans (openWindow_keeps _ _ _ _)
  · split
    · exact (closeWindow_keeps s _).trans (openBreak_keeps _ _)
    · exact closeWindow_keeps s _
  · split
    · exact .refl s
    · exact openWindow_keeps s _ _ _
  · split
    · split
      · exact retimeWindow_keeps s _ _
      · exact openBreak_keeps s _
    · exact .refl s
  · split
    · split
      · exact retimeWindow_keeps s _ _
      · exact openBreak_keeps s _
    · exact .refl s
  · exact .refl s

theorem admissionPhaseEvent_preserves : Preserves s (execAdmissionPhaseEvent s) := by
  intro t does
  obtain rfl | ⟨ev, rest, -, rfl⟩ := execAdmissionPhaseEvent_cases does
  · exact .refl t
  · refine .trans ?_ (admissionAction_keeps _ _)
    exact (setMail_keeps _ s).trans (setAdmission_keeps fun _ => rfl)

theorem windowWarn_preserves (h : Hall) : Preserves s (execWindowWarn h s) := by
  unfold execWindowWarn
  split
  · split
    · exact .next (((setWindow_keeps s _ _).trans (windowNotice_keeps _ _ _ _)).trans (workLamps_keeps _))
    · exact .idle s
  · exact .idle s

theorem windowDeadline_preserves (h : Hall) : Preserves s (execWindowDeadline h s) := by
  unfold execWindowDeadline
  split
  · split
    · exact .next (closeWindow_keeps s h)
    · exact .idle s
  · exact .idle s

/-! ### Requests -/

theorem lampsDistinct_iff {t : Table EntranceSettings 12} : lampsDistinct t = true ↔
    ∀ e f, (t.get e).lamp ≠ none → (t.get e).lamp = (t.get f).lamp → e = f := by
  simp only [lampsDistinct, List.all_eq_true, Table.mem_finUpTo, forall_const, Bool.or_eq_true, decide_eq_true_eq,
    Option.isNone_iff_eq_none, bne_iff_ne]
  refine forall₂_congr fun e f => ?_
  tauto

theorem foyersOneHall_iff {t : Table EntranceSettings 12} : foyersOneHall t = true ↔
    ∀ e f, (t.get e).zone ≠ none → (t.get e).zone = (t.get f).zone → (t.get e).hall = (t.get f).hall := by
  simp only [foyersOneHall, List.all_eq_true, Table.mem_finUpTo, forall_const, Bool.or_eq_true, decide_eq_true_eq,
    Option.isNone_iff_eq_none, bne_iff_ne]
  refine forall₂_congr fun e f => ?_
  tauto

theorem doorTable_get (e : Fin 12) (v : EntranceSettings) (x : Fin 12) : (doorTable s e v).get x =
    ((modifyEntrance e (fun x => { x with settings := v }) s).admission.entrances.get x).settings := by
  unfold doorTable modifyEntrance
  by_cases k : e = x
  · subst k
    rw [Table.get_set_self]
    simp only [setAdmission, Table.get_modify_self]
  · rw [Table.get_set_ne _ _ k, Table.get_map]
    exact (congrArg Entrance.settings (Table.get_modify_ne _ _ k)).symm

/-- R84: an entrance's settings replaced, where the tests of all entrances together pass. -/
theorem setDoor_keeps {e : Fin 12} {v : EntranceSettings} (quota : 1 ≤ v.quota ∧ v.quota ≤ 16)
    (lamps : lampsDistinct (doorTable s e v) = true) (foyers : foyersOneHall (doorTable s e v) = true) :
    Keeps s (modifyEntrance e (fun x => { x with settings := v }) s) where
  __ := Keeps.refl s
  doors law :=
    { quotas := Table.forall_get_modify (P := fun x : Entrance => 1 ≤ x.settings.quota ∧ x.settings.quota ≤ 16)
        (fun _ => quota) law.quotas
      lamps := by simpa only [doorTable_get] using lampsDistinct_iff.mp lamps
      foyersOneHall := by simpa only [doorTable_get] using foyersOneHall_iff.mp foyers }

variable (ps : List Byte)

theorem doorSet_keeps : Keeps s (doorSet ps s).state := by
  unfold doorSet
  split
  · exact .refl s
  · split
    · exact .refl s
    · split
      · exact .refl s
      · split
        · exact .refl s
        · next v read =>
          dsimp only
          split
          · next fits =>
            obtain ⟨lamps, foyers⟩ := (Bool.and_eq_true _ _).mp fits
            rw [accept_state]
            exact (setDoor_keeps s (readEntranceSettings_inRange read) lamps foyers).trans (moveLamp_keeps _ _ _ _)
          · exact .refl s

theorem partyAdd_keeps : Keeps s (partyAdd ps s).state := by
  unfold partyAdd
  split
  · split
    · exact .refl s
    · split
      · exact .refl s
      · split
        · exact .refl s
        · split
          · exact .refl s
          · rw [accept_state]
            exact addParty_keeps s _ _ _ _
  · exact .refl s

theorem partyRemove_keeps : Keeps s (partyRemove ps s).state := by
  unfold partyRemove
  split
  · exact .refl s
  · dsimp only
    rw [accept_state]
    split
    · exact (discard_keeps s _).trans (selectionPass_keeps _ _)
    · exact discard_keeps s _

theorem partyMove_keeps : Keeps s (partyMove ps s).state := by
  unfold partyMove
  split
  · exact .refl s
  · split
    · exact .refl s
    · dsimp only
      split
      · exact .refl s
      · split
        · exact .refl s
        · split
          · exact .refl s
          · split
            · exact .refl s
            · split
              · exact .refl s
              · rw [accept_state]
                exact (setParties_keeps s _).trans ((partyNotice_keeps _ _ _).trans (listChanged_keeps _))

theorem partyList_keeps : Keeps s (partyList ps s).state := by
  unfold partyList
  dsimp only
  split <;> exact .refl s

theorem admitNow_keeps : Keeps s (admitNow ps s).state := by
  unfold admitNow
  split
  · exact .refl s
  · dsimp only
    split
    · exact .refl s
    · rw [accept_state]
      exact openWindow_keeps s _ _ _

theorem admitExtend_keeps : Keeps s (admitExtend ps s).state := by
  unfold admitExtend
  split
  · exact .refl s
  · split
    · exact .refl s
    · split
      · exact .refl s
      · split
        · exact .refl s
        · dsimp only
          rw [accept_state]
          refine .trans ?_ (workLamps_keeps _)
          refine .trans ?_ (closingNotice_keeps _ _ _ _)
          exact (setWindow_keeps s _ _).trans (windowNotice_keeps _ _ _ _)

theorem admitClose_keeps : Keeps s (admitClose ps s).state := by
  unfold admitClose
  split
  · exact .refl s
  · split
    · exact closeWindow_keeps s _
    · exact .refl s

theorem usherClear_keeps : Keeps s (usherClear ps s).state := by
  unfold usherClear
  split
  · exact .refl s
  · rw [accept_state]
    refine .trans ?_ (workLamps_keeps _)
    exact modifyEntrance_keeps s _ fun _ => rfl

/-! ### Keys -/

theorem takeEntranceKey_keeps {event : KeyEvent} {role : Fin 12 → Role} {k : Fin 64 × Fin 12 × State}
    (taken : takeEntranceKey event role s = some k) : Keeps s k.2.2 := by
  unfold takeEntranceKey at taken
  split at taken
  · split at taken
    · split at taken
      · cases taken; exact setMail_keeps _ s
      · cases taken
    · cases taken
  · cases taken

/-- A command of the entrance keys: what it does with the event it names, or nothing. -/
theorem keyCommand_preserves {event : KeyEvent} {role : Fin 12 → Role} {act : Fin 64 × Fin 12 × State → State}
    (does : ∀ k, Keeps k.2.2 (act k)) {o : Step}
    (command : o = match takeEntranceKey event role s with | some k => .next (act k) | none => .next s) : Preserves s o := by
  rw [command]
  split
  · next taken => exact .next ((takeEntranceKey_keeps s taken).trans (does _))
  · exact .idle s

variable (k : Fin 64) (e : Fin 12)

theorem addKeyPress_keeps : Keeps s (addKeyPress k e s) := by
  unfold addKeyPress
  dsimp only
  refine (setLink_keeps s k none).trans ?_
  split
  · exact refuseLamp_keeps _ _
  · split
    · exact (refuseLamp_keeps _ _).trans (partyNotice_keeps _ _ _)
    · exact (addParty_keeps _ _ _ _ _).trans (setLink_keeps _ _ _)

theorem addKeyRepeat_keeps : Keeps s (addKeyRepeat k e s) := by
  unfold addKeyRepeat
  split
  · exact refuseLamp_keeps s _
  · split
    · exact refuseLamp_keeps s _
    · split
      · exact refuseLamp_keeps s _
      · exact setParties_keeps s _

theorem removeKeyPress_keeps : Keeps s (removeKeyPress e s) := by
  unfold removeKeyPress
  split
  · exact discard_keeps s _
  · exact refuseLamp_keeps s _

theorem doneKeyPress_keeps : Keeps s (doneKeyPress e s) := by
  unfold doneKeyPress
  split
  · exact (refuseLamp_keeps s _).trans (selectionPass_keeps _ _)
  · exact (foldl_keeps seat_keeps _ _).trans (selectionPass_keeps _ _)

theorem usherCall_keeps (long : Bool) : Keeps s (usherCall e long s) := by
  unfold usherCall
  dsimp only
  refine .trans ?_ (workLamps_keeps _)
  refine .trans ?_ (offer_keeps _ _ _ _)
  exact modifyEntrance_keeps s _ fun _ => rfl

/-! ## Panel (R111–R128) -/

/-- The Panel unit replaced by one of the same timings. -/
theorem setPanel_keeps {u : Panel} (same : u.timings = s.panel.timings) : Keeps s (setPanel u s) where
  __ := Keeps.refl s
  timings law := by
    have timings : TimingsInRange s.panel.timings := law
    exact (same.symm ▸ timings : TimingsInRange u.timings)

theorem setKey_keeps (r : KeyRecord) : Keeps s (setKey k r s) := setPanel_keeps s rfl

theorem deliver_keeps (role : Role) (event : KeyEvent) : Keeps s (deliver k role event s) := by
  unfold deliver
  split
  · exact .refl s
  · split
    · exact setMail_keeps _ s
    · exact setMail_keeps _ s
    · exact setMail_keeps _ s
    · exact .refl s
  · split
    · exact offerTo_keeps _ _ _ _ _ s
    · exact offerTo_keeps _ _ _ _ _ s
    · exact offerTo_keeps _ _ _ _ _ s
    · exact .refl s
  · split
    · exact setMail_keeps _ s
    · exact .refl s

theorem performDue_keeps : Keeps s (performDue s k) := by
  unfold performDue
  dsimp only
  split
  · exact .refl s
  · split
    · exact setKey_keeps s k _
    · exact (setKey_keeps s k _).trans (deliver_keeps _ _ _ _)
  · exact (setKey_keeps s k _).trans (deliver_keeps _ _ _ _)
  · exact (setKey_keeps s k _).trans (deliver_keeps _ _ _ _)
  · exact ((setKey_keeps s k _).trans (deliver_keeps _ _ _ _)).trans (offer_keeps _ _ _ _)
  · split
    · exact setKey_keeps s k _
    · exact (setKey_keeps s k _).trans (deliver_keeps _ _ _ _)

theorem closeSweep_keeps : Keeps s (closeSweep s) := by
  unfold closeSweep
  split
  · exact setPanel_keeps s rfl
  · exact .refl s

theorem finishSweep_keeps : Keeps s (finishSweep s) := (foldl_keeps performDue_keeps _ _).trans (closeSweep_keeps _)

theorem keyStep_preserves (due : KeyDue) : Preserves s (keyStep due k s) := by
  unfold keyStep
  split
  · exact .next ((foldl_keeps performDue_keeps _ _).trans (closeSweep_keeps _))
  · exact .idle s

theorem keyScanSweep_preserves (down : BitVec 64) : Preserves s (execKeyScanSweep down s) := by
  unfold execKeyScanSweep
  split
  · dsimp only
    refine .next (.trans ?_ (closeSweep_keeps _))
    refine (finishSweep_keeps s).trans ?_
    generalize finishSweep s = t
    exact setPanel_keeps t rfl
  · exact .idle s

theorem changeRole_keeps (role : Role) : Keeps s (changeRole k role s) := by
  unfold changeRole
  dsimp only
  split
  · exact .refl s
  · split
    · refine .trans ?_ (deliver_keeps _ _ _ _)
      refine .trans ?_ (setKey_keeps _ _ _)
      exact setPanel_keeps s rfl
    · exact setPanel_keeps s rfl

theorem writeRoles_keeps (first : Nat) (roles : List Role) : Keeps s (writeRoles first roles s) := by
  refine foldl_keeps (fun t k => ?_) _ _
  split
  · split
    · exact changeRole_keeps _ _ _
    · exact .refl t
  · exact .refl t

theorem keymapSet_keeps : Keeps s (keymapSet ps s).state := by
  unfold keymapSet
  dsimp only
  split
  · exact .refl s
  · split
    · exact .refl s
    · split
      · exact .refl s
      · split
        · exact writeRoles_keeps s _ _
        · exact .refl s

/-- R121: the timings set lie in their ranges. -/
theorem scanSet_keeps : Keeps s (scanSet ps s).state := by
  unfold scanSet
  split
  · exact .refl s
  · split
    · exact .refl s
    · exact { Keeps.refl s with timings := fun _ => readTimings_inRange ps }

theorem keyStatus_keeps : Keeps s (keyStatus ps s).state := by
  unfold keyStatus
  dsimp only
  split <;> exact .refl s

theorem setLamp_keeps (l : Fin 16) (r : Lamp) : Keeps s (setLamp l r s) := setPanel_keeps s rfl

theorem lampTest_keeps (p : Port) : Keeps s (lampTest p ps s).state := by
  unfold lampTest
  split
  · exact .refl s
  · dsimp only
    split
    · exact .refl s
    · split
      · exact .refl s
      · split
        · exact setLamp_keeps s _ _
        · exact setLamp_keeps s _ _

theorem lampFrame_preserves : Preserves s (execLampFrame s) := by
  unfold execLampFrame
  split
  · exact .next (setPanel_keeps s rfl)
  · exact .idle s

theorem lampStateOffer_preserves : Preserves s (execLampStateOffer s) := by
  unfold execLampStateOffer
  split
  · exact .next { Keeps.refl s with }
  · exact .idle s

theorem tallyStateOffer_preserves : Preserves s (execTallyStateOffer s) := by
  unfold execTallyStateOffer
  split
  · exact .next { Keeps.refl s with }
  · exact .idle s

theorem refuseIndication_preserves : Preserves s (execRefuseIndication s) := by
  unfold execRefuseIndication
  split
  · exact .next ((setMail_keeps _ s).trans (setLamp_keeps _ _ _))
  · exact .idle s

theorem cutFlashEnd_preserves (d : Fin 4) : Preserves s (execCutFlashEnd d s) := by
  unfold execCutFlashEnd
  dsimp only
  split
  · exact .next (setLamp_keeps s _ _)
  · exact .idle s

end

end Sys2Proof.Machine

/-! PROOFS. Start-up keeps the laws: the settings that an image gives, read field by field, lie in their ranges (R183). -/

namespace Sys2Proof.Machine

/-! ## Reading the image -/

/-- Every entry of a list read entry by entry is one that its place reads. -/
theorem forall_mem_of_foldr_read {ι α : Type} {f : ι → Option α} {P : α → Prop} (each : ∀ i x, f i = some x → P x) {l : List ι}
    {xs : List α} (read : l.foldr (fun i rest => do let x ← f i; let xs ← rest; some (x :: xs)) (some []) = some xs) :
    ∀ x ∈ xs, P x := by
  induction l generalizing xs with
  | nil => cases read; exact fun x member => absurd member List.not_mem_nil
  | cons i l ih =>
    obtain ⟨x, here, later⟩ := Option.bind_eq_some_iff.mp read
    obtain ⟨rest, tail, whole⟩ := Option.bind_eq_some_iff.mp later
    cases whole
    exact List.forall_mem_cons.mpr ⟨each i x here, ih tail⟩

theorem forall_get_of_readTable {n : Nat} {α : Type} {f : Fin n → Option α} {t : Table α n} {P : α → Prop}
    (read : readTable n f = some t) (each : ∀ i x, f i = some x → P x) (i : Fin n) : P (t.get i) := by
  obtain ⟨l, rows, whole⟩ := Option.bind_eq_some_iff.mp read
  split at whole
  · cases whole
    exact forall_mem_of_foldr_read each rows _ (Table.mem_toList.mpr ⟨i, rfl⟩)
  · cases whole

/-- The same, where each place's record reads with a notice of its clamps, which is dropped. -/
theorem forall_get_of_readTable_fst {n : Nat} {α : Type} {f : Fin n → Option (α × Bool)} {t : Table α n} {P : α → Prop}
    (read : readTable n (fun i => (f i).map Prod.fst) = some t) (each : ∀ i x, f i = some x → P x.1) (i : Fin n) : P (t.get i) :=
  forall_get_of_readTable read
    (fun j _ here => by
      obtain ⟨x, entry, rfl⟩ := Option.map_eq_some_iff.mp here
      exact each j x entry) i

/-- R21: the steps of a plan's record that holds fifteen bytes for each. -/
theorem readSteps_inRange {ps : List Byte} {n : Nat} {steps : List PlanStep} (read : readSteps ps n = some steps)
    (long : 15 * n ≤ ps.length) : steps.length = n ∧ ∀ st ∈ steps, PlanStepInRange st := by
  induction n generalizing ps steps with
  | zero => cases read; exact ⟨rfl, fun x member => absurd member List.not_mem_nil⟩
  | succ n ih =>
    obtain ⟨x, here, later⟩ := Option.bind_eq_some_iff.mp read
    obtain ⟨rest, tail, whole⟩ := Option.bind_eq_some_iff.mp later
    cases whole
    obtain ⟨length, each⟩ := ih tail (by rw [List.length_drop]; omega)
    exact ⟨congrArg Nat.succ length, List.forall_mem_cons.mpr ⟨readPlanStep_inRange here (by omega), each⟩⟩

theorem readPlan_inRange {ps : List Byte} {steps : List PlanStep} (read : readPlan ps = some steps) (long : 91 ≤ ps.length) :
    PlanInRange steps := by
  unfold readPlan at read
  split at read
  · next few =>
    obtain ⟨length, each⟩ := readSteps_inRange read (by rw [List.length_drop]; omega)
    exact ⟨length ▸ few, each⟩
  · cases read

/-- R183, step 3: the settings that the bytes of an image give. -/
theorem readSettings_inRange {bs : List Byte} {v : Settings} (read : readSettings bs = some v) (length : bs.length = 1179) :
    SettingsInRange v := by
  unfold readSettings at read
  obtain ⟨hallA, readA, read⟩ := Option.bind_eq_some_iff.mp read
  obtain ⟨hallB, readB, read⟩ := Option.bind_eq_some_iff.mp read
  obtain ⟨entrances, readEntrances, read⟩ := Option.bind_eq_some_iff.mp read
  obtain ⟨loops, readLoops, read⟩ := Option.bind_eq_some_iff.mp read
  obtain ⟨foyers, readFoyers, read⟩ := Option.bind_eq_some_iff.mp read
  obtain ⟨rolesList, -, read⟩ := Option.bind_eq_some_iff.mp read
  dsimp only at read
  split at read
  case isFalse => cases read
  case isTrue =>
    obtain ⟨roles, -, read⟩ := Option.bind_eq_some_iff.mp read
    obtain ⟨channels, readChannels, read⟩ := Option.bind_eq_some_iff.mp read
    obtain ⟨plans, readPlans, read⟩ := Option.bind_eq_some_iff.mp read
    split at read
    · next fits =>
      obtain ⟨lamps, foyersOne⟩ := (Bool.and_eq_true _ _).mp fits
      cases read
      exact
        { halls := fun h => by
            cases h
            · exact readHallSettings_inRange readA
            · exact readHallSettings_inRange readB
          quotas := forall_get_of_readTable_fst (P := fun x : EntranceSettings => 1 ≤ x.quota ∧ x.quota ≤ 16) readEntrances
            fun _ _ => readEntranceSettings_inRange
          lamps := lampsDistinct_iff.mp lamps
          foyersOneHall := foyersOneHall_iff.mp foyersOne
          zones := fun z => by simpa only [Table.get_ofFn] using readZoneCommon_inRange _
          loops := forall_get_of_readTable_fst (P := fun x : LoopSettings => x.driveLimit ≤ 2047) readLoops
            fun _ _ => readLoopSettings_inRange
          foyers := forall_get_of_readTable_fst (P := FoyerInRange) readFoyers fun _ _ => readFoyerSettings_inRange
          sound := fun c => by simpa only [Table.get_ofFn] using readSoundSettings_inRange _
          sense := fun c => by simpa only [Table.get_ofFn] using readSenseSettings_inRange _
          timings := readTimings_inRange _
          channels := forall_get_of_readTable_fst (P := ChannelInRange) readChannels fun _ _ => readChannelSettings_inRange
          plans := forall_get_of_readTable (P := PlanInRange) readPlans fun p steps here =>
            readPlan_inRange here (by rw [List.length_drop]; omega) }
    · cases read

theorem Flash.length_readAll (m : Flash) (a n : Nat) : (m.readAll a n).length = n := by
  induction n generalizing a with
  | zero => rfl
  | succ n ih => exact congrArg Nat.succ (ih (a + 1))

/-- R183: the settings in force after start-up, whatever the flash holds. -/
theorem loadImage_inRange (m : Flash) : SettingsInRange (settingsInForce (loadImage m)) := by
  unfold loadImage
  dsimp only
  split
  · exact factorySettings_inRange
  · split
    · exact factorySettings_inRange
    · split
      · exact factorySettings_inRange
      · split
        · next read =>
          refine readSettings_inRange read ?_
          rw [List.length_drop, Flash.length_readAll]
          rfl
        · exact factorySettings_inRange

/-! ## Start-up -/

/-- R183: the state after start-up has every law, the flash's form as the flash has it. -/
theorem boot_keeps {straps : BitVec 2} {m : Flash} {draws : Nat} {queue : List Instr} {s : State}
    (flash : FlashLaw s → m.wf = true) : Keeps s (State.boot straps m draws queue) := by
  have settings : UnitsInRange (State.boot straps m draws queue) :=
    unitsInRange_of_settings (by rw [SettingsLaw, currentSettings_boot]; exact loadImage_inRange m)
  have channels : ∀ c, ChannelLaw (State.boot straps m draws queue) c := fun c =>
    { overlay := fun z => by rw [holdsOn, boot_stack, boot_channel]; simp
      expiry := by rw [boot_channel]; rfl
      dark := fun _ => by rw [boot_channel] }
  exact
    { stack := fun _ z => by
        rw [boot_stack]
        exact ⟨Nat.zero_le _, .nil, .nil⟩
      store := fun _ opened => nomatch opened
      flash := flash
      ports := fun _ p => by cases p <;> exact ⟨rfl, rfl, Nat.zero_le _, nofun⟩
      halls := fun _ => settings.halls
      plans := fun _ => settings.plans
      zones := fun _ => settings.zones
      loops := fun _ => settings.loops
      foyers := fun _ => settings.foyers
      doors := fun _ => settings.doors
      sound := fun _ => settings.sound
      sense := fun _ => settings.sense
      timings := fun _ => settings.timings
      settings := fun _ => settings.channels
      channels := fun _ => channelLaws_iff.mp channels }

theorem startUp_keeps (straps : BitVec 2) (s : State) : Keeps s (startUp straps s) := boot_keeps wf_cutFlash

theorem restartTakesEffect_preserves (straps : BitVec 2) (s : State) : Preserves s (execRestartTakesEffect straps s) := by
  unfold execRestartTakesEffect
  split
  · exact .next (startUp_keeps straps s)
  · exact .idle s

end Sys2Proof.Machine

/-! PROOFS. Every command, and with it every step, keeps the laws of the stacks, the channels, the store, the flash, the ports
and the settings. -/

namespace Sys2Proof.Machine

theorem exec_preserves (c : Instr) (s : State) : Preserves s (exec c s) := by
  cases c with
  | powerOn straps => exact .next (startUp_keeps straps s)
  | resetLine straps => exact .next (startUp_keeps straps s)
  | restartTakesEffect straps => exact restartTakesEffect_preserves straps s
  | i2cWriteStart p addr data => exact i2cWriteStart_preserves p s addr data
  | i2cWriteEnd p => exact i2cWriteEnd_preserves p s
  | writeTimeout p => exact writeTimeout_preserves p s
  | i2cRead p addr count => exact i2cRead_preserves p s addr count
  | stretchLimit p => exact stretchLimit_preserves p s
  | orderClear p => exact request_preserves orderClear_keeps
  | orderPut p => exact request_preserves orderPut_keeps
  | orderAppend p => exact request_preserves orderAppend_keeps
  | hallOpen p => exact request_preserves hallOpen_keeps
  | segStart p => exact request_preserves segStart_keeps
  | segEnd p => exact request_preserves segEnd_keeps
  | gapMark p => exact request_preserves gapMark_keeps
  | gapEnd p => exact request_preserves gapEnd_keeps
  | hallDark p => exact request_preserves hallDarkRequest_keeps
  | planPut p => exact request_preserves planPut_keeps
  | hallSet p => exact request_preserves hallSet_keeps
  | hallStatus p => exact request_preserves hallStatus_keeps
  | hallQuietEvent h => exact hallQuietEvent_preserves s h
  | hallSoundEvent h => exact hallSoundEvent_preserves s h
  | planStepFire h => exact planStepFire_preserves s h
  | intervalDue h => exact intervalDue_preserves s h
  | zoneSet p => exact request_preserves zoneSet_keeps
  | zoneStatus p => exact request_preserves zoneStatus_keeps
  | zonePhaseEvent => exact zonePhaseEvent_preserves s
  | relayRequest => exact relayRequest_preserves s
  | channelChangeReport => exact channelChangeReport_preserves s
  | overlayPush q => exact overlayPush_preserves s q
  | overlayRemoval o z => exact overlayRemoval_preserves s o z
  | overCurrentEvent l => exact overCurrentEvent_preserves l s
  | foldBackRecovery l => exact foldBackRecovery_preserves l s
  | openLoopBegin l => exact openLoopBegin_preserves l s
  | openLoopEnd l => exact openLoopEnd_preserves l s
  | loopReset p => exact request_preserves loopReset_keeps
  | inputFrame lane good slots => exact inputFrame_preserves s lane good slots
  | mixBlock sense => exact .next (mixBlock_keeps s sense)
  | rampStep z => exact rampStep_preserves s z
  | playerPhraseEnd n => exact .next (phraseEnd_keeps s n)
  | repeatSilenceEnd n => exact .next (repeatSilenceEnd_keeps s n)
  | chimeNoteEnd => exact .next (chimeNoteEnd_keeps s)
  | chimeStrikeEnd => exact .next (chimeStrikeEnd_keeps s)
  | levelPeriodEnd => exact levelPeriodEnd_preserves s
  | levelSet p => exact request_preserves fun ps s => levelSet_keeps s ps
  | levelRead p => exact request_preserves fun _ s => .refl s
  | doorSet p => exact request_preserves fun ps s => doorSet_keeps s ps
  | partyAdd p => exact request_preserves fun ps s => partyAdd_keeps s ps
  | partyRemove p => exact request_preserves fun ps s => partyRemove_keeps s ps
  | partyMove p => exact request_preserves fun ps s => partyMove_keeps s ps
  | partyList p => exact request_preserves fun ps s => partyList_keeps s ps
  | admitNow p => exact request_preserves fun ps s => admitNow_keeps s ps
  | admitExtend p => exact request_preserves fun ps s => admitExtend_keeps s ps
  | admitClose p => exact request_preserves fun ps s => admitClose_keeps s ps
  | usherClear p => exact request_preserves fun ps s => usherClear_keeps s ps
  | admissionPhaseEvent => exact admissionPhaseEvent_preserves s
  | windowWarn h => exact windowWarn_preserves s h
  | windowDeadline h => exact windowDeadline_preserves s h
  | addKeyPress => exact keyCommand_preserves s (fun _ => addKeyPress_keeps _ _ _) rfl
  | addKeyRepeat => exact keyCommand_preserves s (fun _ => addKeyRepeat_keeps _ _ _) rfl
  | removeKeyPress => exact keyCommand_preserves s (fun _ => removeKeyPress_keeps _ _) rfl
  | removeKeyLong => exact keyCommand_preserves s (fun _ => foldl_keeps discard_keeps _ _) rfl
  | doneKeyPress => exact keyCommand_preserves s (fun _ => doneKeyPress_keeps _ _) rfl
  | usherKeyPress => exact keyCommand_preserves s (fun _ => usherCall_keeps _ _ _) rfl
  | usherKeyLong => exact keyCommand_preserves s (fun _ => usherCall_keeps _ _ _) rfl
  | keyScanSweep down => exact keyScanSweep_preserves s down
  | keyDebounceDone k => exact keyStep_preserves s k _
  | keyLong k => exact keyStep_preserves s k _
  | keyRepeat k => exact keyStep_preserves s k _
  | keyStuck k => exact keyStep_preserves s k _
  | keyRelease k => exact keyStep_preserves s k _
  | keymapSet p => exact request_preserves fun ps s => keymapSet_keeps s ps
  | scanSet p => exact request_preserves fun ps s => scanSet_keeps s ps
  | keyStatus p => exact request_preserves fun ps s => keyStatus_keeps s ps
  | lampTest p => exact request_preserves fun ps s => lampTest_keeps s ps p
  | lampStateOffer => exact lampStateOffer_preserves s
  | tallyStateOffer => exact tallyStateOffer_preserves s
  | refuseIndication => exact refuseIndication_preserves s
  | lampFrame => exact lampFrame_preserves s
  | refuseOverlayEnd l => exact .next (setLamp_keeps s l _)
  | lampTestEnd l => exact .next (setLamp_keeps s l _)
  | cutFlashEnd d => exact cutFlashEnd_preserves s d
  | callSubmit p => exact request_preserves (callSubmit_keeps p)
  | unitCallSubmission u => exact unitCallSubmission_preserves s u
  | callCancel p => exact request_preserves (callCancel_keeps p)
  | liveEnd p => exact request_preserves (liveEnd_keeps p)
  | callList p => exact request_preserves callList_keeps
  | callStackReport => exact callStackReport_preserves s
  | callHushChange => exact callHushChange_preserves s
  | callPhaseEvent => exact callPhaseEvent_preserves s
  | hallCallCancel => exact hallCallCancel_preserves s
  | planCallCancel => exact planCallCancel_preserves s
  | admissionCallCancel => exact admissionCallCancel_preserves s
  | callDeadlineExpiry id => exact callDeadlineExpiry_preserves s id
  | liveTimeout id => exact liveTimeout_preserves s id
  | descSet p => exact request_preserves descSet_keeps
  | descStatus p => exact request_preserves fun _ s => .refl s
  | talkOpen p => exact request_preserves (talkLatch_keeps _)
  | talkClose p => exact request_preserves (talkLatch_keeps _)
  | talkKeyPress => exact talkKeyPress_preserves s
  | talkKeyRelease => exact talkKeyRelease_preserves s
  | describerLevelEvent d => exact describerLevelEvent_preserves s d
  | descPhaseEvent => exact descPhaseEvent_preserves s
  | descStackReport => exact descStackReport_preserves s
  | graceExpiry c => exact graceExpiry_preserves s c
  | storeOpen p => exact request_preserves (storeOpenRequest_keeps p)
  | storeFill p => exact request_preserves (storeFill_keeps p)
  | storeProgram p => exact request_preserves (storeProgram_keeps p)
  | programComplete => exact programComplete_preserves s
  | storeErase p => exact request_preserves (storeErase_keeps p)
  | eraseComplete left => exact eraseComplete_preserves s left
  | storeRead p => exact request_preserves (storeRead_keeps p)
  | storeReadDone p => exact storeReadDone_preserves p s
  | storeClose p => exact request_preserves (storeClose_keeps p)
  | settingsSave p => exact request_preserves settingsSave_keeps
  | saveComplete left => exact saveComplete_preserves s left
  | restart p => exact request_preserves restart_keeps
  | partInfo p => exact request_preserves fun _ s => .refl s
  | noticeOffer n => exact noticeOffer_preserves n s
  | noticeRead p => exact request_preserves (noticeRead_keeps p)
  | noticeAck p => exact request_preserves (noticeAck_keeps p)
  | noticeSet p => exact request_preserves (noticeSet_keeps p)
  | houseClockTick => exact houseClockTick_preserves s

/-- The command at the front runs in a state that differs from the step's in its queue alone. -/
theorem step_keeps {s t : State} (does : step s = .next t) : Keeps s t := by
  unfold step at does
  split at does
  · cases does; exact .refl s
  · next c rest _ =>
    have dequeued : Keeps s { s with pending := rest } := { Keeps.refl s with }
    exact dequeued.trans (exec_preserves c _ t does)

theorem stacksKept_rule : Rules.StacksKept := fun _ _ law does => (step_keeps does).stack law

theorem channelsKept_rule : Rules.ChannelsKept := fun _ _ _ law does => (step_keeps does).channelLaw law

theorem storeLawKept_rule : Rules.StoreLawKept := fun _ _ law does => (step_keeps does).store law

theorem flashAndPortsKept_rule : Rules.FlashAndPortsKept :=
  ⟨fun _ _ law does => (step_keeps does).flash law, fun _ _ law does => (step_keeps does).ports law⟩

theorem settingsKept_rule : Rules.SettingsKept := fun _ _ law does => (step_keeps does).settingsLaw law

end Sys2Proof.Machine

namespace Sys2Proof

/-- Settles O56: each command keeps the laws of the stacks and of the channels, so a step does. -/
theorem stacksAndChannelsKept : Obligations.StacksAndChannelsKept := ⟨Machine.stacksKept_rule, Machine.channelsKept_rule⟩

/-- Settles O59: each command keeps the laws of the store, of the flash, of the ports and of the settings, so a step does. -/
theorem storeFlashAndPortsKept : Obligations.StoreFlashAndPortsKept :=
  ⟨Machine.storeLawKept_rule, Machine.flashAndPortsKept_rule, Machine.settingsKept_rule⟩

end Sys2Proof

/-! PROOFS. Scheduling passes and the start of calls (R135–R147), and the pushes and removals that a unit sends (R38, R39, R161). -/

namespace Sys2Proof.Machine

/-! ## The zones a call needs (R137) -/

theorem available_iff {u : ZoneUnit} {c : Call} {z : ZoneNo} : available u c z = true ↔
    (u.zones.get z).stack.length < 3 ∧ (∀ top, (u.zones.get z).stack.head? = some top → top.priority < c.priority) ∧
      (hushedFlag u z = false ∨ 6 ≤ c.priority ∨ c.origin = .admission) := by
  have hush : hushedFor u z c.priority (c.origin = .admission) = false ↔
      hushedFlag u z = false ∨ 6 ≤ c.priority ∨ c.origin = .admission := by
    rw [← Bool.not_eq_true, hushedFor_iff, not_and_or, not_and_or, Bool.not_eq_true, not_lt, decide_eq_false_iff_not, not_not]
  simp only [available, Bool.and_eq_true, decide_eq_true_eq, Bool.not_eq_true', hush, Option.all_eq_true, and_assoc]

theorem all_available_iff {u : ZoneUnit} {c : Call} : (zonesOf c.targets).all (available u c) = true ↔
    ∀ z, zoneIn z c.targets = true → available u c z = true := by
  simp only [List.all_eq_true, mem_zonesOf]

/-- R139: the call is held back by a zone that is not available to it, or by one that an earlier call blocks. -/
def HeldBack (blocked : ZoneSet) (c : Call) (s : State) : Prop :=
  (∃ z, zoneIn z c.targets = true ∧ available s.zoneUnit c z = false) ∨ c.targets &&& blocked ≠ 0

theorem not_heldBack_iff {blocked : ZoneSet} {c : Call} {s : State} : ¬HeldBack blocked c s ↔
    ((zonesOf c.targets).all (available s.zoneUnit c) && c.targets &&& blocked = 0) = true := by
  simp only [HeldBack, not_or, not_exists, not_and, Bool.not_eq_false, ne_eq, not_not, Bool.and_eq_true, decide_eq_true_eq,
    all_available_iff]

/-! ## A pass (R138, R139) -/

theorem tryCall_held {blocked : ZoneSet} {c : Call} {s : State} (held : HeldBack blocked c s) :
    tryCall blocked c s = (false, s) := if_neg fun free => not_heldBack_iff.mpr free held

theorem tryCall_no_resource {blocked : ZoneSet} {c : Call} {s : State} (none : freeResource s.call c.content = none) :
    tryCall blocked c s = (false, s) := by
  unfold tryCall
  rw [none]
  exact ite_self _

theorem tryCall_free {blocked : ZoneSet} {c : Call} {s : State} {r : Source} (free : ¬HeldBack blocked c s)
    (resource : freeResource s.call c.content = some r) : tryCall blocked c s = startCall c r s := by
  unfold tryCall
  rw [if_pos (not_heldBack_iff.mp free), resource]

theorem push_call (q : PushRequest) (s : State) : (push q s).2.call = s.call := by
  unfold push; dsimp only; split <;> rfl

theorem startCall_accepted {c : Call} {r : Source} {s : State} (accepted : (push (callPush c r) s).1 = true) :
    startCall c r s = (true, { (push (callPush c r) s).2 with
      call := takeResource s.store.directory c r (s.call.update c.id (startedCall s.clock r)) }) := by
  unfold startCall
  dsimp only
  rw [if_pos accepted, push_call]
  rfl

theorem startCall_refused {c : Call} {r : Source} {s : State} (refused : (push (callPush c r) s).1 = false) :
    startCall c r s = (false, (push (callPush c r) s).2) := by
  unfold startCall
  exact if_neg (Bool.eq_false_iff.mp refused)

theorem passOver_eq_foldl (l : List Call) (blocked : ZoneSet) (s : State) : passOver l blocked s =
    (l.foldl (fun (a : ZoneSet × State) c =>
      let t := tryCall a.1 c a.2
      (if t.1 = true then a.1 else a.1 ||| c.targets, t.2)) (blocked, s)).2 := by
  induction l generalizing blocked s with
  | nil => rfl
  | cons c l ih => exact ih _ _

theorem schedulingPass_rule : Rules.SchedulingPass := by
  refine ⟨fun s => passOver_eq_foldl _ _ _, fun u c z => available_iff, fun u z => ?_, fun blocked c s => ⟨?_, ?_⟩⟩
  · unfold hushedFlag
    cases zoneKind z <;> rfl
  · rintro (held | none)
    · exact tryCall_held held
    · exact tryCall_no_resource none
  · intro r free resource refused
    exact (tryCall_free free resource).trans (startCall_refused refused)

theorem callStart_rule : Rules.CallStart := by
  intro blocked c r s resource zones unblocked
  have free : ¬HeldBack blocked c s := not_heldBack_iff.mpr <| by
    rw [Bool.and_eq_true, all_available_iff, decide_eq_true_eq]
    exact ⟨zones, unblocked⟩
  refine ⟨fun accepted => ?_, fun refused => ⟨(tryCall_free free resource).trans (startCall_refused refused), push_call _ _⟩⟩
  rw [tryCall_free free resource, startCall_accepted accepted]
  rfl

/-! ## Resources (R135, R140, R141, R144, R172) -/

theorem freePlayer_eq_some_iff {u : CallUnit} {n : Fin 3} :
    freePlayer u = some n ↔ u.players.get n = none ∧ ∀ m, m < n → u.players.get m ≠ none := by
  simp only [freePlayer, finUpTo_find?_eq_some_iff, Option.isNone_iff_eq_none, Option.isNone_eq_false_iff,
    Option.isSome_iff_ne_none]

theorem freeResource_phrases {u : CallUnit} {list : List Nat} {r : Source} : freeResource u (.phrases list) = some r ↔
    ∃ n : Fin 3, r = .player n ∧ u.players.get n = none ∧ ∀ m, m < n → u.players.get m ≠ none := by
  simp only [freeResource, Option.map_eq_some_iff, freePlayer_eq_some_iff]
  exact exists_congr fun n => ⟨fun k => ⟨k.2.symm, k.1⟩, fun k => ⟨k.2, k.1.symm⟩⟩

theorem freeResource_chime {u : CallUnit} {pattern : Fin 8} {strikes : Nat} {r : Source} :
    freeResource u (.chime pattern strikes) = some r ↔ r = .chime ∧ u.chime = none := by
  simp only [freeResource, Option.ite_none_right_eq_some, Option.some.injEq, Option.isNone_iff_eq_none]
  exact ⟨fun k => ⟨k.2.symm, k.1⟩, fun k => ⟨k.2, k.1.symm⟩⟩

theorem freeResource_live {u : CallUnit} {mic : Fin 2} {r : Source} :
    freeResource u (.live mic) = some r ↔ r = .mic mic ∧ u.mics.get mic = none := by
  simp only [freeResource, Option.ite_none_right_eq_some, Option.some.injEq, Option.isNone_iff_eq_none]
  exact ⟨fun k => ⟨k.2.symm, k.1⟩, fun k => ⟨k.2, k.1.symm⟩⟩

theorem takeResource_player {directory : Table (Option Clip) 128} {c : Call} {list : List Nat} (content : c.content = .phrases list)
    (n : Fin 3) (u : CallUnit) :
    takeResource directory c (.player n) u = { u with players := u.players.set n (some (.begin directory c.id list)) } := by
  unfold takeResource
  rw [content]

theorem takeResource_chime {directory : Table (Option Clip) 128} {c : Call} {pattern : Fin 8} {strikes : Nat}
    (content : c.content = .chime pattern strikes) (u : CallUnit) :
    takeResource directory c .chime u = { u with chime := some (.begin c.id pattern strikes) } := by
  unfold takeResource
  rw [content]

theorem takeResource_mic {directory : Table (Option Clip) 128} {c : Call} {mic : Fin 2} (content : c.content = .live mic)
    (u : CallUnit) : takeResource directory c (.mic mic) u = { u with mics := u.mics.set mic (some c.id) } := by
  unfold takeResource
  rw [content]

theorem callResources_rule : Rules.CallResources := by
  refine ⟨fun u r => ⟨fun _ => freeResource_phrases, fun _ _ => freeResource_chime, fun _ => freeResource_live⟩,
    fun directory c u => ⟨fun n list content => takeResource_player content n u, fun _ _ content => takeResource_chime content u,
      fun mic content => takeResource_mic content u⟩,
    fun _ _ => rfl, fun directory n => ⟨fun h => dif_pos h, fun high => dif_neg (Nat.not_lt.mpr high), fun clip entry => ?_⟩⟩
  rw [clipOf, entry]
  rfl

/-! ## The end of a content (R144, R145, R147) -/

theorem afterPhrase_eq_none_iff {directory : Table (Option Clip) 128} {list : List Nat} {repeats : Nat} {p : Player} :
    p.afterPhrase directory list repeats = none ↔ list.length ≤ p.index + 1 ∧ repeats ≤ p.pass + 1 := by
  unfold Player.afterPhrase
  split
  · next more => exact iff_of_false nofun fun last => absurd more (Nat.not_lt.mpr last.1)
  · next last =>
    split
    · next again => exact iff_of_false nofun fun k => absurd again (Nat.not_lt.mpr k.2)
    · next done => exact iff_of_true rfl ⟨Nat.not_lt.mp last, Nat.not_lt.mp done⟩

theorem strikeOver_iff {g : ChimeGenerator} : strikeOver g = true ↔ 1200 ≤ g.strikeBlocks := decide_eq_true_iff

theorem afterStrike_eq_none_iff {g : ChimeGenerator} : g.afterStrike = none ↔ g.strikes ≤ g.done + 1 := by
  unfold ChimeGenerator.afterStrike
  split
  · next more => exact iff_of_false nofun (Nat.not_le.mpr more)
  · next last => exact iff_of_true rfl (Nat.not_lt.mp last)

/-- R144: the list and the passes of a call in the queue that plays phrases. -/
theorem playList_of_phrases {s : State} {c : Call} {list : List Nat} {repeats : Nat} (found : findCall s c.id = some c)
    (content : c.content = .phrases list) (times : c.repeats = some repeats) : playList s.call c.id = (list, repeats) := by
  have here : s.call.queue.find? (fun d => d.id = c.id) = some c := found
  unfold playList
  rw [here]
  dsimp only
  rw [content, times]
  rfl

section
variable {s : State} {c : Call}

theorem contentEnded_player {n : Fin 3} {cov : ZoneSet} {suspended : Bool} {list : List Nat} {repeats : Nat} {p : Player}
    (found : findCall s c.id = some c) (state : c.state = .started (.player n) cov suspended) (content : c.content = .phrases list)
    (times : c.repeats = some repeats) (player : s.call.players.get n = some p) (plays : p.call = c.id) :
    contentEnded s c = true ↔ p.stage = .ended ∧ list.length ≤ p.index + 1 ∧ repeats ≤ p.pass + 1 := by
  unfold contentEnded phraseTaken
  rw [state]
  dsimp only
  rw [player]
  simp only [plays, playList_of_phrases found content times, Bool.and_eq_true, decide_eq_true_eq, Option.isNone_iff_eq_none,
    afterPhrase_eq_none_iff]

theorem contentEnded_chime {cov : ZoneSet} {suspended : Bool} {g : ChimeGenerator} (state : c.state = .started .chime cov suspended)
    (chime : s.call.chime = some g) : contentEnded s c = true ↔ 1200 ≤ g.strikeBlocks ∧ g.strikes ≤ g.done + 1 := by
  unfold contentEnded
  rw [state]
  dsimp only
  rw [chime]
  simp only [Bool.and_eq_true, strikeOver_iff, Option.isNone_iff_eq_none, afterStrike_eq_none_iff]

theorem contentEnded_queued (state : c.state = .queued) : contentEnded s c = false := by
  unfold contentEnded
  rw [state]

theorem contentEnded_mic {mic : Fin 2} {cov : ZoneSet} {suspended : Bool} (state : c.state = .started (.mic mic) cov suspended) :
    contentEnded s c = false := by
  unfold contentEnded
  rw [state]

end

theorem contentEnds_rule : Rules.ContentEnds := by
  refine ⟨fun u owner z => holdsOn_iff, fun s c found => ⟨?_, ?_, ?_⟩⟩
  · intro n cov suspended list repeats p state content times player plays
    exact contentEnded_player found state content times player plays
  · intro cov suspended g state chime
    exact contentEnded_chime state chime
  · rintro (state | ⟨mic, cov, suspended, state⟩)
    · exact contentEnded_queued state
    · exact contentEnded_mic state

/-! ## Pushes that a unit sends (R139, R140, R161) -/

/-- Some entry before the first that ends the walk meets a test. -/
theorem any_takeWhile_iff {α : Type} {walks meets : α → Bool} {l : List α} : (l.takeWhile walks).any meets = true ↔
    ∃ before d after, l = before ++ d :: after ∧ (∀ x ∈ before, walks x = true) ∧ walks d = true ∧ meets d = true := by
  induction l with
  | nil => exact iff_of_false Bool.false_ne_true fun ⟨before, d, after, whole, _⟩ => by cases before <;> cases whole
  | cons e l ih =>
    by_cases on : walks e = true
    · rw [List.takeWhile_cons_of_pos on, List.any_cons, Bool.or_eq_true, ih]
      constructor
      · rintro (here | ⟨before, d, after, rfl, earlier, rest⟩)
        · exact ⟨[], e, l, rfl, nofun, on, here⟩
        · exact ⟨e :: before, d, after, rfl, List.forall_mem_cons.mpr ⟨on, earlier⟩, rest⟩
      · rintro ⟨before, d, after, whole, earlier, walked, met⟩
        cases before with
        | nil => cases whole; exact .inl met
        | cons x before =>
          cases whole
          exact .inr ⟨before, d, after, rfl, (List.forall_mem_cons.mp earlier).2, walked, met⟩
    · rw [List.takeWhile_cons_of_neg on]
      refine iff_of_false Bool.false_ne_true fun ⟨before, d, after, whole, earlier, walked, _⟩ => on ?_
      cases before with
      | nil => cases whole; exact walked
      | cons x before => cases whole; exact earlier _ List.mem_cons_self

/-- R139: the earlier calls are those before the first of the call's id. -/
theorem heldOff_iff {queue : List Call} {c : Call} : heldOff queue c = true ↔
    ∃ before d after, queue = before ++ d :: after ∧ (∀ x ∈ before, x.id ≠ c.id) ∧ d.id ≠ c.id ∧
      d.state = .queued ∧ d.targets &&& c.targets ≠ 0 := by
  simp only [heldOff, any_takeWhile_iff, isQueued, Bool.and_eq_true, decide_eq_true_eq, bne_iff_ne]

theorem isCallPush_iff {s : State} {c : Call} {q : PushRequest} : isCallPush s c q = true ↔
    c.state = .queued ∧ heldOff s.call.queue c = false ∧ ∃ r, freeResource s.call c.content = some r ∧ q = callPush c r := by
  unfold isCallPush
  cases freeResource s.call c.content <;> simp [isQueued, and_assoc]

section
variable {s : State}

theorem overlayPush_call_sent {q : PushRequest} {id : Nat} {c : Call} (owner : q.owner = .call id) (found : findCall s id = some c)
    (sent : isCallPush s c q = true) : exec (.overlayPush q) s = .next (startCall c q.source s).2 := by
  show execOverlayPush q s = _
  unfold execOverlayPush
  rw [owner]
  dsimp only
  rw [found]
  exact if_pos sent

theorem overlayPush_call_unsent {q : PushRequest} {id : Nat} (owner : q.owner = .call id)
    (unsent : ∀ c, findCall s id = some c → isCallPush s c q = false) : exec (.overlayPush q) s = .next s := by
  show execOverlayPush q s = _
  unfold execOverlayPush
  rw [owner]
  dsimp only
  split
  · next c found => exact if_neg (Bool.eq_false_iff.mp (unsent c found))
  · rfl

theorem overlayPush_channel_sent {q : PushRequest} {c : Fin 4} (owner : q.owner = .channel c) (sent : isChannelPush s c q = true) :
    exec (.overlayPush q) s = .next (evaluate s c) := by
  show execOverlayPush q s = _
  unfold execOverlayPush
  rw [owner]
  exact if_pos sent

theorem overlayPush_channel_unsent {q : PushRequest} {c : Fin 4} (owner : q.owner = .channel c)
    (unsent : isChannelPush s c q = false) : exec (.overlayPush q) s = .next s := by
  show execOverlayPush q s = _
  unfold execOverlayPush
  rw [owner]
  exact if_neg (Bool.eq_false_iff.mp unsent)

theorem overlayPush_callPush {c : Call} {r : Source} (found : findCall s c.id = some c) (queued : c.state = .queued)
    (resource : freeResource s.call c.content = some r) :
    (heldOff s.call.queue c = true → exec (.overlayPush (callPush c r)) s = .next s) ∧
    (heldOff s.call.queue c = false → exec (.overlayPush (callPush c r)) s = .next (startCall c r s).2) := by
  constructor
  · intro held
    refine overlayPush_call_unsent rfl fun d same => Bool.eq_false_iff.mpr fun sent => ?_
    cases found.symm.trans same
    exact Bool.false_ne_true ((isCallPush_iff.mp sent).2.1.symm.trans held)
  · intro free
    exact overlayPush_call_sent rfl found (isCallPush_iff.mpr ⟨queued, free, r, resource, rfl⟩)

theorem overlayPush_other_call {q : PushRequest} {id : Nat} (owner : q.owner = .call id)
    (other : ∀ c r, findCall s id = some c → c.state = .queued → freeResource s.call c.content = some r → q ≠ callPush c r) :
    exec (.overlayPush q) s = .next s :=
  overlayPush_call_unsent owner fun c found => Bool.eq_false_iff.mpr fun sent => by
    obtain ⟨queued, -, r, resource, same⟩ := isCallPush_iff.mp sent
    exact other c r found queued resource same

end

/-! ## What an evaluation asks for (R162–R166) -/

theorem idleVerdict_eq_tryPush_iff {request allowed : Bool} {mode : Option DescMode} :
    idleVerdict request allowed mode = .tryPush ↔ request = true ∧ allowed = true := by
  unfold idleVerdict
  cases request with
  | false => exact iff_of_false nofun fun k => absurd k.1 nofun
  | true =>
    cases allowed with
    | true => exact iff_of_true rfl ⟨rfl, rfl⟩
    | false =>
      refine iff_of_false ?_ fun k => absurd k.2 nofun
      simp only [Bool.not_true, Bool.false_eq_true, if_false]
      split <;> nofun

theorem idleVerdict_ne_leave {request allowed : Bool} {mode : Option DescMode} {t : TalkState} :
    idleVerdict request allowed mode ≠ .leave t := by
  unfold idleVerdict
  split_ifs <;> nofun

section
variable {view : DescView} {request : Bool} {ch : Channel}

/-- R163: a channel that holds no overlay and is not CUT asks for one exactly where talk is requested and allowed. -/
theorem verdict_eq_tryPush_iff : verdict view request ch = .tryPush ↔
    view.phase ≠ .dark ∧ (ch.talk = .off ∨ ch.talk = .idle ∨ ch.talk = .wait ∨ ch.talk = .muted) ∧ request = true ∧
      talkAllowed view = true := by
  unfold verdict
  by_cases dark : view.phase = .dark
  · rw [if_pos dark]
    refine iff_of_false ?_ fun k => k.1 dark
    cases ch.talk <;> nofun
  · rw [if_neg dark]
    cases talk : ch.talk with
    | off | idle | wait | muted => simp [idleVerdict_eq_tryPush_iff, dark]
    | live | grace | cut =>
      refine iff_of_false ?_ fun k => by simp at k
      dsimp only
      split_ifs <;> nofun

/-- R162, R164: what makes a channel that holds an overlay leave for a state by an evaluation. -/
def Leaves (view : DescView) (request : Bool) (ch : Channel) (t : TalkState) : Prop :=
  (ch.talk = .live ∨ ch.talk = .grace) ∧
    ((t = .off ∧ view.phase = .dark) ∨ (t = .idle ∧ view.phase ≠ .dark ∧ request = false) ∨
      (t = .muted ∧ view.phase ≠ .dark ∧ request = true ∧ governingMode view = some .muted) ∨
      (t = .cut ∧ view.phase ≠ .dark ∧ request = true ∧ ¬governingMode view = some .muted ∧ ch.talk = .live ∧
        talkAllowed view = false ∧ ch.settings.grace = 0))

theorem verdict_eq_leave_iff {t : TalkState} : verdict view request ch = .leave t ↔ Leaves view request ch t := by
  have named (u : TalkState) : Verdict.leave u = .leave t ↔ t = u := by rw [Verdict.leave.injEq, eq_comm]
  unfold verdict Leaves
  by_cases dark : view.phase = .dark
  · rw [if_pos dark]
    cases ch.talk <;> simp [dark, named, -Verdict.leave.injEq]
  · rw [if_neg dark]
    cases talk : ch.talk with
    | off | idle | wait | muted => simp [idleVerdict_ne_leave]
    | cut =>
      dsimp only
      split_ifs <;> simp
    | live | grace =>
      dsimp only
      split_ifs <;> simp_all [-Verdict.leave.injEq, Nat.pos_iff_ne_zero]

end

/-! ## Channels' pushes, and removals (R39, R147, R161–R165) -/

section
variable {s : State}

theorem isChannelPush_iff {c : Fin 4} {q : PushRequest} : isChannelPush s c q = true ↔
    verdictOf s c = .tryPush ∧ ∃ d, (channelOf s c).settings.input = some d ∧ q = channelPush c (channelOf s c).settings d := by
  unfold isChannelPush
  cases (channelOf s c).settings.input <;> simp

theorem evaluate_tryPush {c d : Fin 4} (asks : verdictOf s c = .tryPush) (input : (channelOf s c).settings.input = some d) :
    evaluate s c = enter c (if (push (channelPush c (channelOf s c).settings d) s).1 then .live else .wait) none
      (push (channelPush c (channelOf s c).settings d) s).2 := by
  unfold evaluate
  dsimp only
  rw [asks]
  dsimp only
  rw [input]

theorem evaluate_leave {c : Fin 4} {t : TalkState} (leaves : verdictOf s c = .leave t) :
    evaluate s c = enter c t none (withdraw c s) := by
  unfold evaluate
  dsimp only
  rw [leaves]

theorem wouldWithdraw_iff {c : Fin 4} : wouldWithdraw s c = true ↔ ∃ t, verdictOf s c = .leave t := by
  unfold wouldWithdraw
  cases verdictOf s c <;> simp

theorem absentFrom_iff {owner : Owner} {zones : ZoneSet} : absentFrom s.zoneUnit owner zones = true ↔
    ∀ z, zoneIn z zones = true → holdsOn s.zoneUnit owner z = false := by
  simp only [absentFrom, List.all_eq_true, mem_zonesOf, Bool.not_eq_true']

theorem removedZones_eq_zero_iff {owner : Owner} {zones : ZoneSet} : removedZones s.zoneUnit owner zones = 0 ↔
    ∀ z, zoneIn z zones = true → holdsOn s.zoneUnit owner z = false := by
  simp only [zoneSet_eq_zero, removedZones, zoneIn_zoneSetOf, Bool.and_eq_false_imp]

theorem overlayRemoval_absent {owner : Owner} {zones : ZoneSet}
    (absent : ∀ z, zoneIn z zones = true → holdsOn s.zoneUnit owner z = false) :
    exec (.overlayRemoval owner zones) s =
      .next { s with zoneUnit := { s.zoneUnit with removalAnswer := some .notPresent } } := by
  show execOverlayRemoval owner zones s = _
  unfold execOverlayRemoval
  rw [if_pos (absentFrom_iff.mpr absent), remove_absent (removedZones_eq_zero_iff.mpr absent)]

theorem not_absentFrom {owner : Owner} {zones : ZoneSet} {z : ZoneNo} (named : zoneIn z zones = true)
    (holds : holdsOn s.zoneUnit owner z = true) : ¬absentFrom s.zoneUnit owner zones = true := fun absent =>
  Bool.false_ne_true ((absentFrom_iff.mp absent z named).symm.trans holds)

section
variable {zones : ZoneSet} {z : ZoneNo} (named : zoneIn z zones = true)
include named

theorem overlayRemoval_call_sent {id : Nat} {c : Call} (holds : holdsOn s.zoneUnit (.call id) z = true)
    (found : findCall s id = some c) (ended : contentEnded s c = true) (all : zones = c.targets) :
    exec (.overlayRemoval (.call id) zones) s = .next (pass (endCall .done s c)) := by
  show execOverlayRemoval (.call id) zones s = _
  unfold execOverlayRemoval
  rw [if_neg (not_absentFrom named holds)]
  dsimp only
  rw [found]
  exact if_pos ((Bool.and_eq_true _ _).mpr ⟨ended, decide_eq_true all⟩)

theorem overlayRemoval_call_unsent {id : Nat} (holds : holdsOn s.zoneUnit (.call id) z = true)
    (unsent : ∀ c, ¬(findCall s id = some c ∧ contentEnded s c = true ∧ zones = c.targets)) :
    exec (.overlayRemoval (.call id) zones) s = .next s := by
  show execOverlayRemoval (.call id) zones s = _
  unfold execOverlayRemoval
  rw [if_neg (not_absentFrom named holds)]
  dsimp only
  split
  · next c found =>
    refine if_neg fun ends => unsent c ⟨found, ?_⟩
    rwa [Bool.and_eq_true, decide_eq_true_eq] at ends
  · rfl

theorem overlayRemoval_channel {c : Fin 4} (holds : holdsOn s.zoneUnit (.channel c) z = true) :
    exec (.overlayRemoval (.channel c) zones) s =
      if wouldWithdraw s c && zones = oneZone (descZone (channelOf s c).settings.zone) then .next (evaluate s c) else .next s := by
  show execOverlayRemoval (.channel c) zones s = _
  unfold execOverlayRemoval
  rw [if_neg (not_absentFrom named holds)]

end

theorem overlayPushAndRemoval_rule : Rules.OverlayPushAndRemoval := by
  intro s
  refine ⟨?_, ?_, ?_, ?_, ?_⟩
  · intro c r found queued resource
    obtain ⟨held, free⟩ := overlayPush_callPush found queued resource
    refine ⟨fun k => held (heldOff_iff.mpr k), fun k refused => ?_, fun k accepted => ?_⟩
    · rw [free (Bool.eq_false_iff.mpr (mt heldOff_iff.mp k)), startCall_refused refused]
    · rw [free (Bool.eq_false_iff.mpr (mt heldOff_iff.mp k)), startCall_accepted accepted]
      rfl
  · intro q id owner other
    exact overlayPush_other_call owner other
  · intro owner zones absent
    exact overlayRemoval_absent absent
  · intro id zones z named holds
    exact ⟨fun c ⟨found, ended, all⟩ => overlayRemoval_call_sent named holds found ended all,
      fun unsent => overlayRemoval_call_unsent named holds unsent⟩
  · intro c
    refine ⟨?_, ?_, ?_⟩
    · rintro d ⟨lit, waiting, request, allowed⟩ input
      have asks : verdictOf s c = .tryPush := verdict_eq_tryPush_iff.mpr ⟨lit, waiting, request, allowed⟩
      exact (overlayPush_channel_sent rfl (isChannelPush_iff.mpr ⟨asks, d, input, rfl⟩)).trans
        (congrArg _ (evaluate_tryPush asks input))
    · intro q owner other
      refine overlayPush_channel_unsent owner (Bool.eq_false_iff.mpr fun sent => ?_)
      obtain ⟨asks, d, input, same⟩ := isChannelPush_iff.mp sent
      exact other d (verdict_eq_tryPush_iff.mp asks) input same
    · intro zones z named holds
      have does := overlayRemoval_channel named holds
      refine ⟨fun t all leaves => ?_, fun unsent => ?_⟩
      · have asks : verdictOf s c = .leave t := verdict_eq_leave_iff.mpr leaves
        rw [if_pos ((Bool.and_eq_true _ _).mpr ⟨wouldWithdraw_iff.mpr ⟨t, asks⟩, decide_eq_true all⟩), evaluate_leave asks] at does
        rw [does, withdraw, ← all]
      · rw [if_neg] at does
        · exact does
        · intro sent
          rw [Bool.and_eq_true, decide_eq_true_eq] at sent
          obtain ⟨t, asks⟩ := wouldWithdraw_iff.mp sent.1
          exact unsent.elim (fun other => other sent.2) fun stays => stays t (verdict_eq_leave_iff.mp asks)

end

end Sys2Proof.Machine

namespace Sys2Proof

/-- Settles O27: a pass tries the QUEUED calls in queue order, a call starts when its push is accepted, and OVERLAY_PUSH and
OVERLAY_REMOVAL do what the unit named would do now, or nothing. -/
theorem callsStartAndOverlays : Obligations.CallsStartAndOverlays :=
  ⟨Machine.schedulingPass_rule, Machine.callResources_rule, Machine.callStart_rule, Machine.overlayPushAndRemoval_rule,
    Machine.contentEnds_rule⟩

end Sys2Proof

/-! PROOFS. The fixed tables of the mix, and the arithmetic of its paths, sums and duties (R53–R62, R69). -/

namespace Sys2Proof.Machine

/-! ## The fixed tables (R53, R69) -/

/-- R53: rounding compared in whole numbers: each of the 145 entries is checked against the 40th power of the exact value. -/
theorem coefficientTable_rule : Rules.CoefficientTable := by
  unfold Rules.CoefficientTable
  decide +kernel

/-- R69: as for the coefficients, for each of the 121 entries. -/
theorem thresholdTable_rule : Rules.ThresholdTable := by
  unfold Rules.ThresholdTable
  decide +kernel

/-! ## Arithmetic (R54, R58, R59, R62) -/

theorem effectiveStep_mute (trim fold : Int) : effectiveStep (-121) trim fold = -121 := if_pos rfl

/-- R54: a path that is not mute has the sum of its steps, held at 24 above and mute below −120. -/
theorem effectiveStep_audible {own trim fold : Int} (audible : own ≠ -121) : effectiveStep own trim fold =
    if 24 < own + trim + fold then 24 else if own + trim + fold < -120 then -121 else own + trim + fold := if_neg audible

/-- R59: rounding is division by 2^20 of what half of it is added to. -/
theorem rounded_bounds (acc : Int) : 1048576 * rounded acc ≤ acc + 524288 ∧ acc + 524288 < 1048576 * (rounded acc + 1) := by
  unfold rounded
  omega

theorem saturated_above {x : Int} (above : 8388607 < x) : saturated x = 8388607 := if_pos above

theorem saturated_below {x : Int} (below : x < -8388608) : saturated x = -8388608 := by
  unfold saturated sampleMax sampleMin
  rw [if_neg (by omega), if_pos below]

theorem saturated_within {x : Int} (low : -8388608 ≤ x) (high : x ≤ 8388607) : saturated x = x := by
  unfold saturated sampleMax sampleMin
  rw [if_neg (by omega), if_neg (by omega)]

theorem saturated_range (x : Int) : sampleMin ≤ saturated x ∧ saturated x ≤ sampleMax := by
  unfold saturated sampleMax sampleMin
  split
  · omega
  · split <;> omega

theorem saturated_ne_iff {x : Int} : saturated x ≠ x ↔ 8388607 < x ∨ x < -8388608 := by
  unfold saturated sampleMax sampleMin
  split
  · omega
  · split <;> omega

theorem loopDuty_shut {l : LoopRecord} (shut : l.shut = true) (x : Int) : loopDuty l x = 2048 := if_pos shut

/-- R62: the duty of a loop that is not SHUT: the sample's upper bits about the centre, within the drive limit. -/
theorem loopDuty_driven {l : LoopRecord} (driven : l.shut = false) (x : Int) : loopDuty l x =
    2048 + if (l.settings.driveLimit : Int) < x / 4096 then (l.settings.driveLimit : Int)
      else if x / 4096 < -l.settings.driveLimit then -l.settings.driveLimit else x / 4096 :=
  if_neg (by rw [driven]; exact Bool.false_ne_true)

theorem mixArithmetic_rule : Rules.MixArithmetic := by
  refine ⟨fun own trim fold => ⟨?_, ?_, ?_, ?_⟩, fun _ _ _ _ => rfl, rounded_bounds,
    fun x => ⟨saturated_above, saturated_below, saturated_within⟩, fun l x => ⟨fun shut => loopDuty_shut shut x, fun driven => ?_⟩⟩
  · rintro rfl
    exact effectiveStep_mute trim fold
  · intro audible above
    rw [effectiveStep_audible audible, if_pos above]
  · intro audible low high
    rw [effectiveStep_audible audible, if_neg (by omega), if_neg (by omega)]
  · intro audible below
    rw [effectiveStep_audible audible, if_neg (by omega), if_pos below]
  · rw [loopDuty_driven driven]
    refine ⟨fun above => ?_, fun below => ?_, fun low high => ?_⟩
    · rw [if_pos above]
    · rw [if_neg (by omega), if_pos below]; omega
    · rw [if_neg (by omega), if_neg (by omega)]

/-! ## The background target (R56) -/

theorem backgroundTarget_rule : Rules.BackgroundTarget := by
  intro gain o
  refine ⟨rfl, fun replace => ?_, fun q duck => ⟨?_, ?_⟩⟩
  · simp [backgroundTarget, replace]
  · intro mute
    simp [backgroundTarget, duck, mute]
  · intro audible low
    simp [backgroundTarget, duck]
    omega

end Sys2Proof.Machine

namespace Sys2Proof

/-- Settles O19: every entry of both tables is the rounded power of ten, compared without roots. -/
theorem gainTables : Obligations.GainTables := ⟨Machine.coefficientTable_rule, Machine.thresholdTable_rule⟩

/-- Settles O20: the cases of each function of the mix. -/
theorem mixArithmetic : Obligations.MixArithmetic := ⟨Machine.mixArithmetic_rule, Machine.backgroundTarget_rule⟩

end Sys2Proof

/-! PROOFS. INPUT_FRAME: a lane's lock, the samples its readers see, and what the level monitor takes of a frame (R46, R47,
R68, R72). -/

namespace Sys2Proof.Machine

/-! ## A lane's lock (R46) -/

namespace LaneRecord

/-- R46: a lane is LOCKED after a frame: a second frame missing in a row unlocks it, the eighth good one locks it. -/
def lockAfter (good : Bool) (r : LaneRecord) : Bool :=
  if r.locked then good || decide (r.missing + 1 < 2) else good && decide (8 ≤ r.run + 1)

/-- A lane's record after a frame: each count goes on until it brings about a change of lock, which sets it to 0 (R46); and
the frame is received as every reader sees it (R47). -/
def afterFrame (good : Bool) (slots : List Sample) (r : LaneRecord) : LaneRecord :=
  { locked := r.lockAfter good
    run := if r.locked then (if r.lockAfter good then r.run else 0)
      else if good then (if r.lockAfter good then 0 else r.run + 1) else 0
    missing := if r.locked then (if good then 0 else if r.lockAfter good then r.missing + 1 else 0)
      else if r.lockAfter good then 0 else r.missing
    received := r.received ++ [frameSamples (r.lockAfter good) good slots] }

theorem takeFrame_eq (good : Bool) (slots : List Sample) (r : LaneRecord) :
    r.takeFrame good = { r.afterFrame good slots with received := r.received } := by
  obtain ⟨locked, run, missing, received⟩ := r
  unfold takeFrame afterFrame lockAfter
  cases locked <;> cases good
  · rfl
  · by_cases full : 8 ≤ run + 1 <;> simp [full]
  · by_cases lost : missing + 1 < 2
    · simp [lost, Nat.not_le.mpr lost]
    · simp [lost, Nat.not_lt.mp lost]
  · rfl

end LaneRecord

/-! ## The frame taken (R46, R47, R72) -/

section
variable (lane : Lane) (before after : Bool) (s : State)

theorem lockNotice_mail : (lockNotice lane before after s).mail = { s.mail with offers := s.mail.offers ++
    if after = before then [] else
      [⟨kindInputLock, byteOf (laneCode lane), flagByte after, s.clock, allPorts, some (if after then .rise else .fall)⟩] } := by
  unfold lockNotice
  by_cases same : after = before
  · rw [if_pos same.symm, if_pos same, List.append_nil]
  · rw [if_neg (Ne.symm same), if_neg same]
    rfl

/-- A change of lock is told, and nothing else is touched. -/
theorem lockNotice_frame : lockNotice lane before after s = { s with mail := (lockNotice lane before after s).mail } := by
  unfold lockNotice
  split <;> rfl

end

section
variable (lane : Lane) (good : Bool) (slots : List Sample) (s : State)

/-- The state a frame leaves: its lane's record, the level monitor and the notice. -/
def afterFrame : State :=
  let r := s.engine.lanes.get lane
  let q := r.afterFrame good slots
  lockNotice lane r.locked q.locked
    { s with
      engine := { s.engine with lanes := s.engine.lanes.set lane q }
      level := frameLevel lane s.engine.started r.locked q.locked (frameSamples q.locked good slots) s.level }

theorem exec_inputFrame : exec (.inputFrame lane good slots) s = .next (afterFrame lane good slots s) := by
  change execInputFrame lane good slots s = _
  unfold execInputFrame
  simp only [LaneRecord.takeFrame_eq good slots]
  rfl

theorem afterFrame_engine : (afterFrame lane good slots s).engine =
    { s.engine with lanes := s.engine.lanes.set lane ((s.engine.lanes.get lane).afterFrame good slots) } := by
  unfold afterFrame
  rw [lockNotice_frame]

theorem afterFrame_level : (afterFrame lane good slots s).level =
    frameLevel lane s.engine.started (s.engine.lanes.get lane).locked ((s.engine.lanes.get lane).afterFrame good slots).locked
      (frameSamples ((s.engine.lanes.get lane).afterFrame good slots).locked good slots) s.level := by
  unfold afterFrame
  rw [lockNotice_frame]

theorem afterFrame_frame : afterFrame lane good slots s = { s with
    engine := (afterFrame lane good slots s).engine
    level := (afterFrame lane good slots s).level
    mail := (afterFrame lane good slots s).mail } := by
  rw [afterFrame_engine, afterFrame_level]
  unfold afterFrame
  rw [lockNotice_frame]

end

theorem inputFrame_rule : Rules.InputFrame := by
  intro s lane good slots
  refine ⟨afterFrame lane good slots s, exec_inputFrame lane good slots s, ?_⟩
  dsimp only
  rw [afterFrame_engine]
  dsimp only
  rw [PerLane.get_set_self]
  refine ⟨rfl, rfl, rfl, rfl, fun other different => ?_, ?_, ?_⟩
  · exact PerLane.get_set_ne _ _ different.symm
  · cases lane <;> exact lockNotice_mail _ _ _ _
  · rw [← afterFrame_engine]
    exact afterFrame_frame lane good slots s

/-! ## What the level monitor sees of a frame (R68, R72) -/

theorem frameLevel_sound (lane : Lane) (started before after : Bool) (frame : List Int) (u : LevelMonitor) (c : Fin 6) :
    (frameLevel lane started before after frame u).sound.get c =
      if soundLane c = lane then
        { u.sound.get c with
          peak := if started then max (u.sound.get c).peak (frame.getD (soundSlot c) 0).natAbs else (u.sound.get c).peak
          run := if before && !after then 0 else (u.sound.get c).run }
      else u.sound.get c := Table.get_mapIdx _ _ _

theorem soundSlot_lt (c : Fin 6) : soundSlot c < 8 := by
  unfold soundSlot
  split <;> omega

/-- R47: a slot of a frame: 0 where the frame is not good or leaves its lane UNLOCKED. -/
theorem frameSamples_getD (locked good : Bool) (slots : List Sample) {i : Nat} (slot : i < 8) :
    (frameSamples locked good slots).getD i 0 = if locked && good then (slots.getD i 0).toInt else 0 := by
  simp [frameSamples, List.getD_eq_getElem?_getD, slot]

/-- R68: a frame that brings no sample leaves a peak where it is. -/
theorem max_peak_sample (peak : Nat) (x : Int) (started seen : Bool) :
    (if started then max peak (if seen then x else 0).natAbs else peak) =
      if started = true ∧ seen = true then max peak x.natAbs else peak := by
  cases started <;> cases seen <;> simp

theorem frameReachesLevelMonitor_rule : Rules.FrameReachesLevelMonitor := by
  intro s t lane good slots does
  rw [exec_inputFrame] at does
  cases does
  dsimp only
  rw [afterFrame_level, afterFrame_engine]
  simp only [PerLane.get_set_self]
  refine ⟨rfl, PerLane.get_set_self _ _ _, fun other different => PerLane.get_set_ne _ _ different.symm, fun c => ?_⟩
  rw [frameLevel_sound, frameSamples_getD _ _ _ (soundSlot_lt c), max_peak_sample]
  simp only [soundLane, soundSlot, Bool.and_eq_true, Bool.not_eq_true']

end Sys2Proof.Machine

namespace Sys2Proof

/-- Settles O18: the state that a frame leaves, field by field. -/
theorem inputFrames : Obligations.InputFrames := ⟨Machine.inputFrame_rule, Machine.frameReachesLevelMonitor_rule⟩

end Sys2Proof

/-! PROOFS. What a block leaves, field by field: the engine, the resources, the peaks, the ramps and the clips (R45–R68). -/

namespace Sys2Proof

/-! ## Tables rewritten at the numbers of a list -/

theorem nodup_finUpTo (n : Nat) : (finUpTo n).Nodup := by
  induction n with
  | zero => exact .nil
  | succ n ih =>
    refine List.nodup_cons.mpr ⟨fun zero => ?_, ih.map (Fin.succ_injective n)⟩
    obtain ⟨i, _, succ⟩ := List.mem_map.mp zero
    exact Fin.succ_ne_zero i succ

namespace Table
variable {α : Type} {n : Nat} (t : Table α n) (f : Fin n → α → α) {i : Fin n} {l : List (Fin n)}

theorem modify_of_fixed {g : α → α} (fixed : g (t.get i) = t.get i) : t.modify i g = t :=
  ext fun j => by
    by_cases e : i = j
    · subst e; rw [get_modify_self, fixed]
    · rw [get_modify_ne _ _ e]

/-- The entries of the numbers listed rewritten, the others left. -/
def mapOn (l : List (Fin n)) : Table α n := t.mapIdx fun i x => if i ∈ l then f i x else x

theorem mapOn_nil : t.mapOn f [] = t := ext fun i => by simp [mapOn]

theorem mapOn_cons (apart : i ∉ l) : (t.modify i (f i)).mapOn f l = t.mapOn f (i :: l) :=
  ext fun j => by
    by_cases e : i = j
    · subst e; simp [mapOn, apart]
    · simp [mapOn, get_modify_ne _ _ e, Ne.symm e]

theorem mapOn_finUpTo : t.mapOn f (finUpTo n) = t.mapIdx f := ext fun i => by simp [mapOn, mem_finUpTo]

theorem mapIdx_const (g : α → α) : (t.mapIdx fun _ => g) = t.map g := ext fun i => by simp

end Table
end Sys2Proof

namespace Sys2Proof.Machine

/-! ## Clips (R60) -/

/-- R60: a zone's record after a block of these sums: the last clip time. -/
def ZoneRecord.clip (now : Clock) (sums : List Int) (r : ZoneRecord) : ZoneRecord :=
  { r with lastClip := if firstClip sums = none then r.lastClip else some now }

/-- R60: the CLIP that a zone offers after a block of these sums. -/
def clipOffers (now : Clock) (z : ZoneNo) (sums : List Int) (last : Option Clock) : List Offer :=
  match firstClip sums with
  | some x => if clipIsNew now last then [⟨kindClip, zoneByte z, flagByte (decide (x < 0)), now, allPorts, none⟩] else []
  | none => []

theorem clipCheck_eq (sums : Fin 18 → List Int) (s : State) (z : ZoneNo) : clipCheck sums s z = { s with
    zoneUnit := s.zoneUnit.modifyZone z (ZoneRecord.clip s.clock (sums z))
    mail := { s.mail with offers := s.mail.offers ++ clipOffers s.clock z (sums z) (s.zoneUnit.zones.get z).lastClip } } := by
  unfold clipCheck clipOffers ZoneUnit.modifyZone ZoneRecord.clip
  cases clip : firstClip (sums z) with
  | none =>
    dsimp only
    rw [Table.modify_of_fixed _ rfl, List.append_nil]
  | some x =>
    dsimp only
    split
    · rfl
    · rw [List.append_nil]
      rfl

section
variable (now : Clock) (sums : Fin 18 → List Int) (l : List ZoneNo) (zones : Table ZoneRecord 18)

/-- The CLIPs that the zones listed offer. -/
def clipsOffered : List Offer := l.flatMap fun z => clipOffers now z (sums z) (zones.get z).lastClip

theorem clipsOffered_modify {z : ZoneNo} (apart : z ∉ l) (f : ZoneRecord → ZoneRecord) :
    clipsOffered now sums l (zones.modify z f) = clipsOffered now sums l zones :=
  List.flatMap_congr fun y member => by
    rw [Table.get_modify_ne zones f (show z ≠ y from fun e => apart (e ▸ member))]

end

/-- R60: no zone's clip check sees another's. -/
theorem foldl_clipCheck (sums : Fin 18 → List Int) {l : List ZoneNo} (distinct : l.Nodup) (s : State) :
    l.foldl (clipCheck sums) s = { s with
      zoneUnit := { s.zoneUnit with zones := s.zoneUnit.zones.mapOn (fun z => ZoneRecord.clip s.clock (sums z)) l }
      mail := { s.mail with offers := s.mail.offers ++ clipsOffered s.clock sums l s.zoneUnit.zones } } := by
  induction l generalizing s with
  | nil => rw [List.foldl_nil, Table.mapOn_nil, clipsOffered, List.flatMap_nil, List.append_nil]
  | cons z l ih =>
    obtain ⟨apart, distinct⟩ := List.nodup_cons.mp distinct
    rw [List.foldl_cons, ih distinct, clipCheck_eq]
    dsimp only [ZoneUnit.modifyZone]
    rw [Table.mapOn_cons _ (fun z => ZoneRecord.clip s.clock (sums z)) apart, clipsOffered_modify _ _ _ _ apart, List.append_assoc]
    rfl

/-! ## The block (R45) -/

section
variable {s t : State} (h : OnlyCalls s t)
include h

theorem OnlyCalls.clock : t.clock = s.clock := by unfold OnlyCalls at h; rw [h]
theorem OnlyCalls.engine : t.engine = s.engine := by unfold OnlyCalls at h; rw [h]
theorem OnlyCalls.loops : t.zoneUnit.loops = s.zoneUnit.loops := by unfold OnlyCalls at h; rw [h]; rfl

end

section
variable (s : State)

/-- R57: aiming the zones' ramps touches their records alone. -/
theorem aimZones_eq : aimZones s = { s with zoneUnit := { s.zoneUnit with zones := s.zoneUnit.zones.map ZoneRecord.aim } } := rfl

theorem blockStart_clock : (aimZones (settleBlock s)).clock = s.clock := by
  rw [aimZones_eq, (settleBlock_frame s).clock]

theorem blockStart_engine : (aimZones (settleBlock s)).engine = s.engine := by
  rw [aimZones_eq, (settleBlock_frame s).engine]

theorem blockStart_call : (aimZones (settleBlock s)).call = (settleBlock s).call := by rw [aimZones_eq]

theorem blockStart_loops : (aimZones (settleBlock s)).zoneUnit.loops = s.zoneUnit.loops := by
  rw [aimZones_eq, (settleBlock_frame s).loops]

end

/-- R57: counting a ramp leaves the last clip time. -/
theorem ZoneRecord.countRamp_lastClip (r : ZoneRecord) : r.countRamp.lastClip = r.lastClip := by
  unfold ZoneRecord.countRamp
  split <;> rfl

section
variable (sense : List (List Sample)) (a : State)

/-- R57, R60: a zone's record after a block that starts from a state. -/
def zoneAfterBlock (z : ZoneNo) (r : ZoneRecord) : ZoneRecord := r.countRamp.clip a.clock ((blockSums a).get z)

/-- R60: the CLIPs of a block that starts from a state. -/
def blockClips : List Offer := clipsOffered a.clock (blockSums a).get (finUpTo 18) a.zoneUnit.zones

/-- R45–R68: what a block leaves that starts from a state: its engine, its resources one block on, the peaks, the ramps and
clips of its zones, and the CLIPs offered. -/
def mixFrom : State :=
  let e := nextEngine a (blockSums a)
  { a with
    engine := e
    call := advanceResources a.call
    level := blockLevel (senseBlock sense) (fun l => (e.dutyOut.get l).map driveSample)
      { a.level with unlocked := if a.engine.started then a.level.unlocked
          else ⟨!a.engine.lanes.lane0.locked, !a.engine.lanes.lane1.locked⟩ }
    zoneUnit := { a.zoneUnit with zones := a.zoneUnit.zones.mapIdx (zoneAfterBlock a) }
    mail := { a.mail with offers := a.mail.offers ++ blockClips a } }

theorem mixFrom_engine : (mixFrom sense a).engine = nextEngine a (blockSums a) := rfl

theorem mixFrom_call : (mixFrom sense a).call = advanceResources a.call := rfl

theorem mixFrom_zone (z : ZoneNo) :
    (mixFrom sense a).zoneUnit.zones.get z = zoneAfterBlock a z (a.zoneUnit.zones.get z) := Table.get_mapIdx _ _ _

/-- What a block makes of the engine, the resources, the ramps and the level monitor, before the clip checks. -/
theorem blockMixed_eq (started : Bool) (e : Engine) (sense drive : Fin 8 → List Int) :
    let b := firstPeriod started (countRamps (setCalls (advanceResources a.call) (setEngine e a)))
    setLevel (blockLevel sense drive b.level) b = { a with
      engine := e
      call := advanceResources a.call
      level := blockLevel sense drive { a.level with unlocked := if started then a.level.unlocked
        else ⟨!e.lanes.lane0.locked, !e.lanes.lane1.locked⟩ }
      zoneUnit := { a.zoneUnit with zones := a.zoneUnit.zones.map ZoneRecord.countRamp } } := by
  cases started <;> rfl

end

theorem mixBlock_eq (sense : List (List Sample)) (s : State) : mixBlock sense s = mixFrom sense (aimZones (settleBlock s)) := by
  have started : s.engine.started = (aimZones (settleBlock s)).engine.started := by rw [blockStart_engine]
  unfold mixBlock mixFrom blockClips
  rw [started]
  generalize aimZones (settleBlock s) = a
  dsimp only
  rw [blockMixed_eq, foldl_clipCheck _ (nodup_finUpTo 18)]
  have zones : ((a.zoneUnit.zones.map ZoneRecord.countRamp).mapIdx fun z => ZoneRecord.clip a.clock ((blockSums a).get z)) =
      a.zoneUnit.zones.mapIdx (zoneAfterBlock a) := Table.ext fun z => by
    rw [Table.get_mapIdx, Table.get_map, Table.get_mapIdx, zoneAfterBlock]
  have offers : clipsOffered a.clock (blockSums a).get (finUpTo 18) (a.zoneUnit.zones.map ZoneRecord.countRamp) =
      clipsOffered a.clock (blockSums a).get (finUpTo 18) a.zoneUnit.zones := by
    simp only [clipsOffered, Table.get_map, ZoneRecord.countRamp_lastClip]
  dsimp only
  rw [Table.mapOn_finUpTo, zones, offers]
  rfl

theorem exec_mixBlock (sense : List (List Sample)) (s : State) :
    exec (.mixBlock sense) s = .next (mixFrom sense (aimZones (settleBlock s))) := by
  rw [← mixBlock_eq]
  rfl

end Sys2Proof.Machine

/-! PROOFS. A block's samples: the sources, the players and the chime generator, the sums, and the outputs (R48–R63). -/

namespace Sys2Proof.Machine

/-! ## Blocks of samples -/

theorem fullBlock_length (l : List Int) : (fullBlock l).length = 48 := by simp [fullBlock, blockLength]

theorem fullBlock_getElem? (l : List Int) {i : Nat} (inside : i < 48) : (fullBlock l)[i]? = some (l.getD i 0) := by
  simp [fullBlock, blockLength, inside]

/-- A sample inside a list is the one that reads there. -/
theorem getElem?_eq_some_getD {l : List Int} {i : Nat} (inside : i < l.length) : l[i]? = some (l.getD i 0) := by
  simp [inside]

/-- Three copies of each of the first values of a function: one value to each three places. -/
theorem flatMap_three_copies (f : Nat → Int) (n : Nat) :
    ((List.range n).flatMap fun i => [f i, f i, f i]) = (List.range (3 * n)).map fun j => f (j / 3) := by
  induction n with
  | zero => rfl
  | succ n ih =>
    have one : (3 * n + 1) / 3 = n := by omega
    have two : (3 * n + 2) / 3 = n := by omega
    rw [List.range_succ, List.flatMap_append, ih, show 3 * (n + 1) = 3 * n + 1 + 1 + 1 by omega, List.range_succ,
      List.range_succ, List.range_succ]
    simp [one, two]

/-! ## Players and the chime generator (R49, R50) -/

/-- R49: the clip sample of a number, three times as high in 24 bits, and 0 past the clip's end. -/
def clipAt (m : Flash) (c : Clip) (n : Nat) : Int := if n < c.length then clipSample m (c.start + 2 * n) * 256 else 0

section
variable (m : Flash) {p : Player} {g : ChimeGenerator}

theorem Player.samples_phrase {k : Nat} (runs : p.held = false) (stage : p.stage = .phrase k) :
    p.samples m = (List.range 48).map fun i => clipAt m p.clip (16 * k + i / 3) := by
  unfold Player.samples
  rw [runs, stage]
  exact flatMap_three_copies (fun i => clipAt m p.clip (16 * k + i)) 16

theorem Player.samples_still (still : p.held = true ∨ p.stage = .ended ∨ ∃ k, p.stage = .silence k) :
    p.samples m = List.replicate 48 0 := by
  unfold Player.samples
  rcases still with held | ended | ⟨k, silence⟩
  · rw [held]
  · rw [ended]; cases p.held <;> rfl
  · rw [silence]; cases p.held <;> rfl

theorem Player.samples_length (p : Player) : (p.samples m).length = 48 := by
  cases held : p.held with
  | true => rw [p.samples_still m (.inl held), List.length_replicate]
  | false =>
    cases stage : p.stage with
    | phrase k => rw [p.samples_phrase m held stage, List.length_map, List.length_range]
    | ended => rw [p.samples_still m (.inr (.inl stage)), List.length_replicate]
    | silence k => rw [p.samples_still m (.inr (.inr ⟨k, stage⟩)), List.length_replicate]

theorem ChimeGenerator.samples_note {note : Note} (runs : g.held = false) (during : g.strikeBlocks < 1200)
    (current : (chimeNotes g.pattern)[g.note]? = some note) :
    g.samples = (List.range 48).map fun i => noteSample note.half (48 * g.noteBlocks + i) := by
  have playing : strikeOver g = false := Bool.eq_false_iff.mpr fun done => Nat.not_le.mpr during (strikeOver_iff.mp done)
  unfold ChimeGenerator.samples ChimeGenerator.current
  rw [runs, playing, current]
  rfl

theorem ChimeGenerator.samples_still
    (still : g.held = true ∨ 1200 ≤ g.strikeBlocks ∨ (chimeNotes g.pattern)[g.note]? = none) :
    g.samples = List.replicate 48 0 := by
  unfold ChimeGenerator.samples ChimeGenerator.current
  rcases still with held | complete | silent
  · rw [held, Bool.true_or]
  · rw [strikeOver_iff.mpr complete, Bool.or_true]
  · rw [silent]; cases (g.held || strikeOver g) <;> rfl

theorem ChimeGenerator.samples_length (g : ChimeGenerator) : g.samples.length = 48 := by
  unfold ChimeGenerator.samples
  split
  · rw [List.length_map, List.length_range]
  · exact List.length_replicate

end

theorem playerAndChimeSamples_rule : Rules.PlayerAndChimeSamples := by
  intro m p g i inside
  refine ⟨fun k runs stage => ?_, fun still => ?_, fun note runs during current => ?_, fun still => ?_⟩
  · simp [Player.samples_phrase m runs stage, inside, clipAt]
  · rw [Player.samples_still m still, List.getElem?_replicate, if_pos inside]
  · simp [ChimeGenerator.samples_note runs during current, inside, noteSample]
  · rw [ChimeGenerator.samples_still still, List.getElem?_replicate, if_pos inside]

/-- R49, R50: a resource told to hold, or complete, stays; another goes one block on. -/
theorem Player.advance_still {p : Player} (still : p.held = true ∨ p.stage = .ended) : p.advance = p := by
  unfold Player.advance
  split
  · rfl
  · next runs => rw [still.resolve_left runs]

theorem ChimeGenerator.advance_still {g : ChimeGenerator} (still : g.held = true ∨ 1200 ≤ g.strikeBlocks) : g.advance = g :=
  if_pos (by rwa [Bool.or_eq_true, strikeOver_iff])

section
variable {u : CallUnit}

theorem advanceResources_player {n : Fin 3} {p : Player} (holds : u.players.get n = some p) :
    (advanceResources u).players.get n = some p.advance := by
  rw [advanceResources, Table.get_map, holds, Option.map_some]

theorem advanceResources_chime {g : ChimeGenerator} (holds : u.chime = some g) :
    (advanceResources u).chime = some g.advance := by
  rw [advanceResources, holds, Option.map_some]

end

theorem mixBlockResources_rule : Rules.MixBlockResources := by
  intro s sense
  refine ⟨_, exec_mixBlock sense s, ?_⟩
  rw [mixFrom_call, blockStart_call]
  generalize (settleBlock s).call = u
  refine ⟨fun n => ⟨fun free => ?_, fun p holds => ?_⟩, fun free => ?_, fun g holds => ⟨fun still => ?_, fun runs during => ?_⟩⟩
  · rw [advanceResources, Table.get_map, free, Option.map_none]
  · rw [advanceResources_player holds]
    refine ⟨fun still => by rw [Player.advance_still still], fun runs => ⟨fun k stage => ?_, fun k stage => ?_⟩⟩
    · simp [Player.advance, runs, stage, phraseBlocks]
    · simp [Player.advance, runs, stage, silenceLength]
  · rw [advanceResources, free, Option.map_none]
  · rw [advanceResources_chime holds, ChimeGenerator.advance_still still]
  · rw [advanceResources_chime holds]
    simp [ChimeGenerator.advance, runs, strikeOver_iff, Nat.not_le.mpr during]

/-! ## Sources (R48–R52, R55) -/

theorem slotBlock_getElem? (r : LaneRecord) (k : Nat) {i : Nat} (inside : i < 48) :
    (slotBlock r k)[i]? = match r.received[i]? with
      | some frame => some (frame.getD k 0)
      | none => some 0 := by
  rw [slotBlock, fullBlock_getElem? _ inside, List.getD_eq_getElem?_getD, List.getElem?_map]
  cases r.received[i]? <;> rfl

theorem sourceSamples_rule : Rules.SourceSamples := by
  intro s i inside
  have slot (lane : Lane) (k : Nat) := slotBlock_getElem? (s.engine.lanes.get lane) k inside
  have silent : (fullBlock [])[i]? = some 0 := fullBlock_getElem? [] inside
  refine ⟨slot .lane0 0, slot .lane0 0, slot .lane0 1, slot .lane0 1, slot .lane1 4, silent, slot .lane1 5, slot .lane1 6,
    fun d => slot .lane1 d.val, fun n => ⟨fun free => ?_, fun p holds => ?_⟩, fun free => ?_, fun g holds => ?_⟩
  · simp only [sourceSamples, free, silent]
  · simp only [sourceSamples, holds]
  · simp only [sourceSamples, free, silent]
  · simp only [sourceSamples, holds]

theorem baseSamples_length (u : Engine) (b : BaseSource) : (baseSamples u b).length = 48 := by
  cases b <;> exact fullBlock_length _

theorem sourceSamples_length (s : State) (o : Source) : (sourceSamples s o).length = 48 := by
  cases o with
  | player n =>
    dsimp only [sourceSamples]
    split
    · exact Player.samples_length _ _
    · exact fullBlock_length _
  | chime =>
    dsimp only [sourceSamples]
    split
    · exact ChimeGenerator.samples_length _
    · exact fullBlock_length _
  | mic n => exact fullBlock_length _
  | desc d => exact fullBlock_length _

/-- R171: the high byte counts with its sign. -/
theorem clipSample_eq (m : Flash) (a : Nat) : clipSample m a = (m.read (a + 1)).toInt * 256 + ((m.read a).toNat : Int) := by
  have wide : ((8 : Nat) == 0) = false := rfl
  rw [clipSample, BitVec.toInt_append, wide, if_neg Bool.false_ne_true, Int.mul_comm]
  rfl

theorem phraseGain_of_not_player {s : State} {o : Source} (other : ∀ n, o ≠ .player n) : phraseGain s o = 0 := by
  cases o with
  | player n => exact absurd rfl (other n)
  | _ => rfl

theorem phraseGain_player {s : State} {n : Fin 3} {p : Player} (holds : s.call.players.get n = some p) :
    phraseGain s (.player n) = p.clip.gain := by
  rw [phraseGain, holds]

theorem ownerGain_call {s : State} {id : Nat} {c : Call} (found : findCall s id = some c) : ownerGain s (.call id) = c.level := by
  unfold findCall at found
  rw [ownerGain, found]

theorem foregroundStepsAndChimes_rule : Rules.ForegroundStepsAndChimes := by
  refine ⟨fun s o => ⟨fun id c owner found => ⟨fun n p source holds => ?_, fun other => ?_⟩, fun c owner other => ?_⟩, rfl,
    clipSample_eq⟩
  · rw [foregroundStep, owner, source, ownerGain_call found, phraseGain_player holds]
  · rw [foregroundStep, owner, ownerGain_call found, phraseGain_of_not_player other, Int.add_zero]
  · rw [foregroundStep, owner, phraseGain_of_not_player other, Int.add_zero]
    rfl

/-! ## The outputs of a block (R58–R63) -/

theorem zoneSums_length (a : State) (z : ZoneNo) (r : ZoneRecord) : (zoneSums a z r).length = 48 := by
  unfold zoneSums
  dsimp only
  split
  · rw [List.length_map, baseSamples_length]
  · rw [List.length_zipWith, sourceSamples_length, baseSamples_length, Nat.min_self]

/-- R55, R58, R59: a zone's sums, sample by sample. -/
theorem zoneSums_getElem? (a : State) (z : ZoneNo) {i : Nat} (inside : i < 48) :
    (zoneSums a z (a.zoneUnit.zones.get z))[i]? = some (Rules.zoneSum a z i) := by
  have base : ∀ b, (baseSamples a.engine b)[i]? = some ((baseSamples a.engine b).getD i 0) := fun b =>
    getElem?_eq_some_getD (by rwa [baseSamples_length])
  have source : ∀ o, (sourceSamples a o)[i]? = some ((sourceSamples a o).getD i 0) := fun o =>
    getElem?_eq_some_getD (by rwa [sourceSamples_length])
  unfold zoneSums Rules.zoneSum ZoneRecord.top
  dsimp only
  cases (a.zoneUnit.zones.get z).stack.head? with
  | none => simp only [List.getElem?_map, base, Option.map_some]
  | some o => simp only [List.getElem?_zipWith, base, source]

theorem blockSums_get (a : State) (z : ZoneNo) : (blockSums a).get z = (List.range 48).map (Rules.zoneSum a z) := by
  rw [blockSums, Table.get_mapIdx]
  refine List.ext_getElem? fun i => ?_
  by_cases inside : i < 48
  · rw [zoneSums_getElem? a z inside]
    simp [inside]
  · rw [List.getElem?_eq_none (by rw [zoneSums_length]; omega), List.getElem?_eq_none (by simp; omega)]

theorem made_get (a : State) (z : ZoneNo) :
    (nextEngine a (blockSums a)).made.get z = (List.range 48).map fun i => saturated (Rules.zoneSum a z i) := by
  change ((blockSums a).map _).get z = _
  rw [Table.get_map, blockSums_get, List.map_map]
  rfl

theorem mixBlockOutputs_rule : Rules.MixBlockOutputs := by
  intro s sense
  refine ⟨_, exec_mixBlock sense s, fun z => ?_⟩
  rw [mixFrom_engine, made_get]
  exact ⟨by simp, fun i inside => by simp [inside]⟩

/-- R62: a loop's duty lies within its drive limit of the centre, and at the centre on a SHUT loop. -/
theorem loopDuty_range (l : LoopRecord) (x : Int) : 2048 - (l.settings.driveLimit : Int) ≤ loopDuty l x ∧
    loopDuty l x ≤ 2048 + l.settings.driveLimit ∧ (l.shut = true → loopDuty l x = 2048) := by
  cases shut : l.shut with
  | true => rw [loopDuty_shut shut]; omega
  | false => rw [loopDuty_driven shut]; split <;> [skip; split] <;> simp <;> omega

/-- R63: the duty of the block before, as it is let out now. -/
theorem heldDuty_eq (l : LoopRecord) (d : Int) : heldDuty l d =
    if l.shut then 2048 else max (2048 - (l.settings.driveLimit : Int)) (min (2048 + l.settings.driveLimit) d) := by
  unfold heldDuty
  split
  · rfl
  · dsimp only
    split
    · omega
    · split <;> omega

theorem heldDuty_range (l : LoopRecord) (d : Int) : 2048 - (l.settings.driveLimit : Int) ≤ heldDuty l d ∧
    heldDuty l d ≤ 2048 + l.settings.driveLimit ∧ (l.shut = true → heldDuty l d = 2048) := by
  rw [heldDuty_eq]
  split
  · omega
  · next driven => exact ⟨by omega, by omega, fun shut => absurd shut driven⟩

theorem blockDuties_eq (l : LoopRecord) (out : List Int) :
    blockDuties l out = (List.range 48).map fun i => loopDuty l (out.getD i 0) := by
  rw [blockDuties, fullBlock, List.map_map]
  rfl

theorem effectiveDuties_eq (l : LoopRecord) (next : Int) (out : List Int) :
    effectiveDuties l next out = heldDuty l next :: (List.range 47).map fun i => loopDuty l (out.getD i 0) := by
  rw [effectiveDuties, blockDuties_eq, ← List.map_take, List.take_range]
  rfl

/-- R62, R63: every duty in effect lies within the drive limit of the centre, and at the centre on a SHUT loop. -/
theorem effectiveDuties_range {l : LoopRecord} {next : Int} {out : List Int} {d : Int} (member : d ∈ effectiveDuties l next out) :
    2048 - (l.settings.driveLimit : Int) ≤ d ∧ d ≤ 2048 + l.settings.driveLimit ∧ (l.shut = true → d = 2048) := by
  rw [effectiveDuties_eq] at member
  rcases List.mem_cons.mp member with rfl | later
  · exact heldDuty_range l next
  · obtain ⟨i, _, rfl⟩ := List.mem_map.mp later
    exact loopDuty_range l _

theorem nextEngine_dutyOut (a : State) (sums : Table (List Int) 18) (l : Fin 8) : (nextEngine a sums).dutyOut.get l =
    effectiveDuties (a.zoneUnit.loops.get l) (a.engine.dutyNext.get l) (a.engine.made.get (loopZone l)) :=
  Table.get_mapIdx _ _ _

/-- R63: the last duty of a block waits for the next one. -/
theorem nextEngine_dutyNext (a : State) (sums : Table (List Int) 18) (l : Fin 8) : (nextEngine a sums).dutyNext.get l =
    loopDuty (a.zoneUnit.loops.get l) ((a.engine.made.get (loopZone l)).getD 47 0) := by
  refine (Table.get_mapIdx _ _ _).trans ?_
  rw [blockDuties_eq, List.range_succ, List.map_append, List.map_singleton, List.getLastD_concat]
  rfl

theorem mixBlockSends_rule : Rules.MixBlockSends := by
  intro s sense
  refine ⟨_, exec_mixBlock sense s, ?_⟩
  rw [mixFrom_engine]
  refine ⟨rfl, ?_, fun lane => by cases lane <;> rfl, fun z x member => ?_, fun l => ?_⟩
  · exact congrArg Engine.made (blockStart_engine s)
  · rw [made_get] at member
    obtain ⟨i, _, rfl⟩ := List.mem_map.mp member
    exact saturated_range _
  · rw [nextEngine_dutyOut, nextEngine_dutyNext, blockStart_engine, blockStart_loops]
    exact ⟨by rw [effectiveDuties_eq, heldDuty_eq], rfl, fun d => effectiveDuties_range⟩

theorem outputsCarry_rule : Rules.OutputsCarry := by
  intro s i count
  refine ⟨rfl, rfl, fun l d duty => ?_, fun l unmade => ?_⟩
  · rw [loopOutput, List.getD_eq_getElem?_getD, duty, decide_eq_true_iff]
    rfl
  · rw [loopOutput, unmade, decide_eq_true_iff]
    exact Int.ofNat_lt

end Sys2Proof.Machine

namespace Sys2Proof

/-- Settles O21: every source gives 48 samples, so a block's sums, outputs and duties are worked out sample by sample. -/
theorem mixBlockOutputs : Obligations.MixBlockOutputs :=
  ⟨Machine.mixBlockOutputs_rule, Machine.sourceSamples_rule, Machine.foregroundStepsAndChimes_rule, Machine.mixBlockSends_rule,
    Machine.mixBlockResources_rule, Machine.playerAndChimeSamples_rule, Machine.outputsCarry_rule⟩

end Sys2Proof

/-! PROOFS. A block's ramps and clips, what it settles first, and resources told to hold (R56, R57, R60, R143). -/

namespace Sys2Proof.Machine

/-! ## Ramps (R57) -/

theorem ZoneRecord.aim_eq (r : ZoneRecord) : r.aim =
    { r with
      target := backgroundTarget r.baseGain r.stack.head?
      rampCount := if backgroundTarget r.baseGain r.stack.head? = r.target then r.rampCount else 0 } := by
  change (if backgroundTarget r.baseGain r.stack.head? = r.target then r else _) = _
  split
  · next same => rw [same]
  · rfl

theorem ZoneRecord.countRamp_eq (r : ZoneRecord) : r.countRamp =
    { r with
      rampCount := if r.bgStep = r.target then r.rampCount else min 20 (r.rampCount + 1)
      rampDue := if r.bgStep = r.target then r.rampDue
        else decide ((if r.target < r.bgStep then r.settings.rampDown else r.settings.rampUp) ≤ r.rampCount + 1) } := by
  unfold ZoneRecord.countRamp
  split <;> rfl

theorem blockStart_rule : Rules.BlockStart := by
  refine ⟨fun s => ⟨rfl, fun z => ?_⟩, fun u z => ?_⟩
  · exact (Table.get_map _ _ _).trans (ZoneRecord.aim_eq _)
  · unfold foldBackOf FoldBack.steps
    cases zoneKind z <;> rfl

theorem mixBlockRamps_rule : Rules.MixBlockRamps := by
  intro s sense
  refine ⟨_, exec_mixBlock sense s, fun z => ?_⟩
  have aimed : (aimZones (settleBlock s)).zoneUnit.zones.get z = ((settleBlock s).zoneUnit.zones.get z).aim := by
    rw [aimZones_eq, Table.get_map]
  rw [mixFrom_zone, zoneAfterBlock, blockStart_clock, aimed, ZoneRecord.clip, ZoneRecord.countRamp_eq, ZoneRecord.aim_eq]
  generalize (settleBlock s).zoneUnit.zones.get z = r, (blockSums (aimZones (settleBlock s))).get z = sums
  refine ⟨rfl, ?_⟩
  dsimp only
  split
  · exact .inl rfl
  · exact .inr rfl

theorem exec_rampStep (z : ZoneNo) (s : State) :
    exec (.rampStep z) s = .next (setZoneUnit (s.zoneUnit.modifyZone z ZoneRecord.rampStep) s) := rfl

section
variable {r : ZoneRecord}

theorem ZoneRecord.rampStep_idle (idle : r.rampDue = false) : r.rampStep = r := if_neg (by rw [idle]; exact Bool.false_ne_true)

theorem ZoneRecord.rampStep_down (due : r.rampDue = true) (above : r.target < r.bgStep) :
    r.rampStep = { r with bgStep := r.bgStep - 1, rampCount := 0, rampDue := false } := by
  rw [ZoneRecord.rampStep, if_pos due, if_pos above]

theorem ZoneRecord.rampStep_up (due : r.rampDue = true) (below : r.bgStep < r.target) :
    r.rampStep = { r with bgStep := r.bgStep + 1, rampCount := 0, rampDue := false } := by
  rw [ZoneRecord.rampStep, if_pos due, if_neg (Int.not_lt.mpr (Int.le_of_lt below)), if_pos below]

end

theorem rampStep_rule : Rules.RampStep := by
  intro s z
  rw [exec_rampStep]
  refine ⟨fun idle => ?_, fun due above => ?_, fun due below => ?_⟩
  · rw [ZoneUnit.modifyZone, Table.modify_of_fixed _ (ZoneRecord.rampStep_idle idle)]
    rfl
  · rw [ZoneUnit.modifyZone, Table.modify, ZoneRecord.rampStep_down due above]
    rfl
  · rw [ZoneUnit.modifyZone, Table.modify, ZoneRecord.rampStep_up due below]
    rfl

/-! ## Clips (R60) -/

theorem firstClip_eq (a : State) (z : ZoneNo) : firstClip ((blockSums a).get z) =
    ((List.range 48).map (Rules.zoneSum a z)).find? fun x => decide (8388607 < x ∨ x < -8388608) := by
  have clips : (fun x => saturated x != x) = fun x => decide (8388607 < x ∨ x < -8388608) := funext fun x => by
    rw [Bool.eq_iff_iff, bne_iff_ne, decide_eq_true_iff, saturated_ne_iff]
  rw [firstClip, blockSums_get, clips]

theorem flagByte_decide (p : Prop) [Decidable p] : flagByte (decide p) = if p then 1 else 0 := by
  unfold flagByte
  by_cases holds : p <;> simp [holds]

theorem mixBlockClips_rule : Rules.MixBlockClips := by
  intro s sense
  refine ⟨_, exec_mixBlock sense s, ?_⟩
  rw [← blockStart_clock s]
  generalize aimZones (settleBlock s) = a
  refine ⟨fun z => ?_, ?_⟩
  · rw [mixFrom_zone, zoneAfterBlock, ZoneRecord.clip, ZoneRecord.countRamp_lastClip, firstClip_eq]
  · refine congrArg (fun l => ({ mixFrom sense a with mail := { a.mail with offers := a.mail.offers ++ l } } : State))
      (List.flatMap_congr fun z _ => ?_)
    rw [clipOffers, firstClip_eq]
    dsimp only
    generalize List.find? _ _ = first
    cases first with
    | none => rfl
    | some x => simp only [flagByte_decide]; rfl

/-! ## What a block settles first (log 8) -/

/-- Commands that each answer a next state, one after another. -/
theorem foldl_commands {run : Step → Instr → Step} (runs : ∀ t c, run (.next t) c = exec c t) {α : Type} {command : α → Instr}
    {f : State → α → State} (does : ∀ t x, exec (command x) t = .next (f t x)) (l : List α) (s : State) :
    (l.map command).foldl run (.next s) = .next (l.foldl f s) := by
  induction l generalizing s with
  | nil => rfl
  | cons x l ih => rw [List.map_cons, List.foldl_cons, runs, does, ih, List.foldl_cons]

/-- The ramp steps of the zones, one after another, are those of all zones at once. -/
theorem foldl_rampStep {l : List ZoneNo} (distinct : l.Nodup) (s : State) :
    l.foldl (fun t z => setZoneUnit (t.zoneUnit.modifyZone z ZoneRecord.rampStep) t) s =
      setZoneUnit { s.zoneUnit with zones := s.zoneUnit.zones.mapOn (fun _ => ZoneRecord.rampStep) l } s := by
  induction l generalizing s with
  | nil => rw [List.foldl_nil, Table.mapOn_nil]; rfl
  | cons z l ih =>
    obtain ⟨apart, distinct⟩ := List.nodup_cons.mp distinct
    rw [List.foldl_cons, ih distinct, ← Table.mapOn_cons _ _ apart]
    rfl

theorem foldl_rampStep_finUpTo (s : State) :
    (finUpTo 18).foldl (fun t z => setZoneUnit (t.zoneUnit.modifyZone z ZoneRecord.rampStep) t) s = settleRamps s := by
  rw [foldl_rampStep (nodup_finUpTo 18), Table.mapOn_finUpTo, Table.mapIdx_const]
  rfl

theorem mixBlockSettles_rule : Rules.MixBlockSettles := by
  intro s
  dsimp only
  rw [List.foldl_append, List.foldl_append, List.foldl_append,
    foldl_commands (fun _ _ => rfl) (fun t z => exec_rampStep z t), foldl_rampStep_finUpTo,
    foldl_commands (f := phraseEnd) (fun _ _ => rfl) (fun _ _ => rfl),
    foldl_commands (f := repeatSilenceEnd) (fun _ _ => rfl) (fun _ _ => rfl)]
  rfl

/-! ## Holding (R143) -/

theorem ChimeGenerator.resume_complete {g : ChimeGenerator} (complete : 1200 ≤ g.strikeBlocks) :
    g.resume = { g with held := false } := if_pos (strikeOver_iff.mpr complete)

theorem ChimeGenerator.resume_during {g : ChimeGenerator} (during : g.strikeBlocks < 1200) :
    g.resume = { g with held := false, note := 0, noteBlocks := 0, strikeBlocks := 0 } :=
  if_neg fun complete => Nat.not_le.mpr during (strikeOver_iff.mp complete)

theorem holdAndResume_rule : Rules.HoldAndResume := by
  refine ⟨fun p => ⟨rfl, fun k stage => ?_, fun k stage short => ?_, ?_⟩, fun g =>
    ⟨rfl, ChimeGenerator.resume_during, ChimeGenerator.resume_complete, fun u =>
      ⟨fun n => ⟨rfl, rfl⟩, fun mic => ⟨rfl, rfl⟩, rfl, rfl⟩⟩⟩
  · rw [Player.resume, stage]
  · rw [Player.resume, stage]
    dsimp only
    rw [if_neg (show ¬silenceLength ≤ k from Nat.not_le.mpr short)]
  · rintro (ended | ⟨k, stage, long⟩)
    · rw [Player.resume, ended]
    · rw [Player.resume, stage]
      dsimp only
      rw [if_pos (show silenceLength ≤ k from long)]

end Sys2Proof.Machine

namespace Sys2Proof

/-- Settles O22: what a block makes of a zone's record, and what its commands would make of what the block before left due. -/
theorem ramps : Obligations.Ramps :=
  ⟨Machine.blockStart_rule, Machine.mixBlockRamps_rule, Machine.rampStep_rule, Machine.mixBlockClips_rule,
    Machine.mixBlockSettles_rule, Machine.holdAndResume_rule⟩

end Sys2Proof

/-! PROOFS. O60: only a frame, a block and a start-up reach the engine, and each keeps the outputs within full scale and
the PWM period (R59, R62). -/

namespace Sys2Proof.Machine

/-! ## What the shared operations leave -/

section
variable {s t : State}

theorem OnlyDescription.engine (h : OnlyDescription s t) : t.engine = s.engine := by unfold OnlyDescription at h; rw [h]
theorem OnlyAdmission.engine (h : OnlyAdmission s t) : t.engine = s.engine := by unfold OnlyAdmission at h; rw [h]
theorem OnlyPanel.engine (h : OnlyPanel s t) : t.engine = s.engine := by unfold OnlyPanel at h; rw [h]
theorem OnlyProgramme.engine (h : OnlyProgramme s t) : t.engine = s.engine := by unfold OnlyProgramme at h; rw [h]

end

section
variable (s : State)

@[simp] theorem remove_engine (o : Owner) (z : ZoneSet) : (remove o z s).engine = s.engine := (remove_frame o z s).calls.engine
@[simp] theorem startCall_engine (c : Call) (r : Source) : (startCall c r s).2.engine = s.engine :=
  (startCall_frame c r s).engine
@[simp] theorem pass_engine : (pass s).engine = s.engine := (pass_frame s).engine
@[simp] theorem endWithPass_engine (o : CallOutcome) (c : Call) : (endWithPass o c s).engine = s.engine :=
  (endWithPass_frame o c s).engine
@[simp] theorem endAll_engine (w : Call → Bool) : (endAll w s).engine = s.engine := (endAll_frame w s).engine
@[simp] theorem enqueue_engine (c : Call) : (enqueue c s).2.engine = s.engine := (enqueue_frame c s).engine
@[simp] theorem submit_engine (c : Submission) : (submit c s).engine = s.engine := (submit_frame c s).engine

@[simp] theorem enter_engine (c : Fin 4) (v : TalkState) (e : Option Clock) : (enter c v e s).engine = s.engine :=
  (enter_frame c v e s).engine
@[simp] theorem withdraw_engine (c : Fin 4) : (withdraw c s).engine = s.engine := (withdraw_frame c s).engine
@[simp] theorem evaluate_engine (c : Fin 4) : (evaluate s c).engine = s.engine := (evaluate_frame s c).engine
@[simp] theorem evaluateAll_engine (w : ChannelSettings → Bool) : (evaluateAll w s).engine = s.engine :=
  (evaluateAll_frame w s).engine
@[simp] theorem changeDescriber_engine (d : Fin 4) (r : Describer) : (changeDescriber d r s).engine = s.engine :=
  (changeDescriber_frame d r s).engine
@[simp] theorem handTallies_engine : (handTallies s).engine = s.engine := (handTallies_frame s).engine

@[simp] theorem workLamps_engine : (workLamps s).engine = s.engine := (workLamps_frame s).engine
@[simp] theorem listChanged_engine : (listChanged s).engine = s.engine := (listChanged_frame s).engine
@[simp] theorem selectionPass_engine (e : Fin 12) : (selectionPass e s).engine = s.engine := (selectionPass_frame e s).engine
@[simp] theorem addParty_engine (e : Fin 12) (n : Nat) (o : PartyOrigin) (a : Bool) :
    (addParty e n o a s).2.engine = s.engine :=
  (addParty_frame e n o a s).engine
@[simp] theorem discard_engine (q : Party) : (discard s q).engine = s.engine := (discard_frame s q).engine
@[simp] theorem discardHall_engine (h : Hall) : (discardHall h s).engine = s.engine := (discardHall_frame h s).engine
@[simp] theorem closeWindow_engine (h : Hall) : (closeWindow h s).engine = s.engine := (closeWindow_frame h s).engine
@[simp] theorem closingNotice_engine (h : Hall) (b : Bool) (w : Window) : (closingNotice h b w s).engine = s.engine :=
  (closingNotice_frame h b w s).engine
@[simp] theorem openWindow_engine (h : Hall) (c : WindowCause) (n : Option Nat) : (openWindow h c n s).engine = s.engine :=
  (openWindow_frame h c n s).engine
@[simp] theorem openBreak_engine (h : Hall) : (openBreak h s).engine = s.engine := openWindow_engine s h _ _
@[simp] theorem retimeWindow_engine (h : Hall) (w : Window) : (retimeWindow h w s).engine = s.engine :=
  (retimeWindow_frame h w s).engine

@[simp] theorem deliver_engine (k : Fin 64) (r : Role) (e : KeyEvent) : (deliver k r e s).engine = s.engine :=
  (deliver_frame k r e s).engine
@[simp] theorem finishSweep_engine : (finishSweep s).engine = s.engine := (finishSweep_frame s).engine
@[simp] theorem performUpTo_engine (k : Fin 64) : (performUpTo k s).engine = s.engine := (performUpTo_frame k s).engine

@[simp] theorem fireStep_engine (h : Hall) : (fireStep h s).engine = s.engine := (fireStep_frame h s).engine
@[simp] theorem fireAtOnce_engine (h : Hall) (n : Nat) : (fireAtOnce h n s).engine = s.engine := (fireAtOnce_frame h n s).engine
@[simp] theorem changePhase_engine (h : Hall) (r : HallRecord) (a : Option Admission) (c : Cause) :
    (changePhase h r a c s).engine = s.engine := (changePhase_frame h r a c s).engine

@[simp] theorem phraseEnd_engine (n : Fin 3) : (phraseEnd s n).engine = s.engine := (phraseEnd_frame s n).engine
@[simp] theorem repeatSilenceEnd_engine (n : Fin 3) : (repeatSilenceEnd s n).engine = s.engine :=
  (repeatSilenceEnd_frame s n).engine
@[simp] theorem chimeNoteEnd_engine : (chimeNoteEnd s).engine = s.engine := (chimeNoteEnd_frame s).engine
@[simp] theorem chimeStrikeEnd_engine : (chimeStrikeEnd s).engine = s.engine := (chimeStrikeEnd_frame s).engine

end

theorem foldl_engine {α : Type} {f : State → α → State} (step : ∀ s a, (f s a).engine = s.engine) (l : List α) (s : State) :
    (l.foldl f s).engine = s.engine :=
  foldl_frame (R := fun s t => t.engine = s.engine) (fun _ => rfl) (fun a b => b.trans a) step l s

section
variable (s : State)

@[simp] theorem cancelPlanCalls_engine (h : Hall) : (cancelPlanCalls h s).engine = s.engine := rfl
@[simp] theorem teardown_engine (h : Hall) : (teardown h s).engine = s.engine := changePhase_engine _ h _ _ _
@[simp] theorem setPlan_engine (plan : Fin 8) (steps : List PlanStep) : (setPlan plan steps s).engine = s.engine := rfl
@[simp] theorem takeHallLevel_engine (h : Hall) (l : List LevelState) : (takeHallLevel h l s).engine = s.engine := rfl
@[simp] theorem takeLoopEvent_engine (l : Fin 8) (r : List LoopEvent) : (takeLoopEvent l r s).engine = s.engine := rfl
@[simp] theorem takeProgrammeOrder_engine (l : List ProgrammeOrder) : (takeProgrammeOrder l s).engine = s.engine := rfl
@[simp] theorem takeAdmissionOrder_engine (l : List AdmissionOrder) : (takeAdmissionOrder l s).engine = s.engine := rfl
@[simp] theorem takeZoneNews_engine (l : List ZoneNews) : (takeZoneNews l s).engine = s.engine := rfl
@[simp] theorem takeTalkKey_engine (l : List TalkKey) : (takeTalkKey l s).engine = s.engine := rfl
@[simp] theorem setCallView_engine (h : Hall) (v : Phase) : (setCallView h v s).engine = s.engine := rfl
@[simp] theorem setLink_engine (k : Fin 64) (n : Option Nat) : (setLink k n s).engine = s.engine := rfl
@[simp] theorem loopFault_engine (l : Fin 8) (code : Byte) : (loopFault l code s).engine = s.engine := rfl
@[simp] theorem nextPeriod_engine : (nextPeriod s).engine = s.engine := rfl
@[simp] theorem loopsPeriod_engine : (loopsPeriod s).engine = s.engine := rfl
@[simp] theorem sensePeriod_engine (l : Fin 8) : (sensePeriod s l).engine = s.engine := rfl
@[simp] theorem storeNotice_engine (k : Nat) (ok : Bool) (n : Nat) : (storeNotice k ok n s).engine = s.engine := rfl
@[simp] theorem finishRead_engine (p : Port) (j : ReadJob) (m : Flash) : (finishRead p j m s).engine = s.engine := rfl
@[simp] theorem setBus_engine (p : Port) (b : Bus) : (setBus p b s).engine = s.engine := rfl

@[simp] theorem handHush_engine (flags : List (ZoneNo × Bool)) : (handHush flags s).engine = s.engine := by
  dsimp only [handHush]
  repeat' split
  all_goals simp

@[simp] theorem overCurrent_engine (l : Fin 8) : (overCurrent l s).engine = s.engine := by
  dsimp only [overCurrent]
  repeat' split
  all_goals simp

@[simp] theorem setOpen_engine (l : Fin 8) (flag : Bool) (code : Byte) : (setOpen l flag code s).engine = s.engine := by
  dsimp only [setOpen]
  repeat' split
  all_goals simp

@[simp] theorem handTurn_engine (c : Fin 6) (v : LevelState) : (handTurn c v s).engine = s.engine := by
  dsimp only [handTurn]
  rw [offerTo_engine]

@[simp] theorem soundPeriod_engine (c : Fin 6) : (soundPeriod s c).engine = s.engine := by
  dsimp only [soundPeriod]
  repeat' split
  all_goals simp

@[simp] theorem startSegment_engine (h : Hall) (r : HallRecord) (g : Segment) : (startSegment h r g s).engine = s.engine := by
  dsimp only [startSegment]
  repeat' split
  all_goals simp

@[simp] theorem refuseLamp_engine (e : Fin 12) : (refuseLamp e s).engine = s.engine := by
  dsimp only [refuseLamp]
  repeat' split
  all_goals simp

@[simp] theorem moveLamp_engine (old new : Option (Fin 12)) (o : EntranceLamp) : (moveLamp old new o s).engine = s.engine := by
  dsimp only [moveLamp]
  repeat' split
  all_goals simp

@[simp] theorem changeRole_engine (k : Fin 64) (r : Role) : (changeRole k r s).engine = s.engine := by
  dsimp only [changeRole]
  repeat' split
  all_goals simp

@[simp] theorem reportChannel_engine (old new : ChannelSettings) : (reportChannel old new s).engine = s.engine := by
  dsimp only [reportChannel]
  repeat' split
  all_goals simp

@[simp] theorem setChannelSettings_engine (c : Fin 4) (v : ChannelSettings) : (setChannelSettings c v s).engine = s.engine := by
  dsimp only [setChannelSettings]
  simp

@[simp] theorem closeSweep_engine : (closeSweep s).engine = s.engine := by
  dsimp only [closeSweep]
  repeat' split
  all_goals simp

@[simp] theorem writeRoles_engine (first : Nat) (roles : List Role) : (writeRoles first roles s).engine = s.engine := by
  refine foldl_engine (fun t k => ?_) _ s
  repeat' split
  all_goals simp

@[simp] theorem admissionAction_engine (ev : PhaseEvent) : (admissionAction ev s).engine = s.engine := by
  dsimp only [admissionAction]
  repeat' split
  all_goals simp

@[simp] theorem addKeyPress_engine (k : Fin 64) (e : Fin 12) : (addKeyPress k e s).engine = s.engine := by
  dsimp only [addKeyPress]
  repeat' split
  all_goals simp

@[simp] theorem addKeyRepeat_engine (k : Fin 64) (e : Fin 12) : (addKeyRepeat k e s).engine = s.engine := by
  dsimp only [addKeyRepeat]
  repeat' split
  all_goals simp

@[simp] theorem removeKeyPress_engine (e : Fin 12) : (removeKeyPress e s).engine = s.engine := by
  dsimp only [removeKeyPress]
  repeat' split
  all_goals simp

@[simp] theorem doneKeyPress_engine (e : Fin 12) : (doneKeyPress e s).engine = s.engine := by
  dsimp only [doneKeyPress]
  split
  all_goals simp [foldl_engine fun s q => (seat_frame s q).engine]

@[simp] theorem usherCall_engine (e : Fin 12) (long : Bool) : (usherCall e long s).engine = s.engine := by
  dsimp only [usherCall]
  simp

end

/-! ## Requests

The requests of a unit are taken together: behind its tests, each refuses, or does one of the operations above. -/

/-- The requests of the Programme unit. -/
theorem programmeRequest_engine {unit : List Byte → State → Answer}
    (one : unit ∈ [orderClear, orderPut, orderAppend, hallOpen, segStart, segEnd, gapMark, gapEnd, hallDarkRequest, planPut,
      hallSet, hallStatus]) (ps : List Byte) (s : State) :
    (unit ps s).state.engine = s.engine := by
  fin_cases one
  all_goals
    dsimp only [orderClear, orderPut, orderAppend, hallOpen, segStart, segEnd, gapMark, gapEnd, hallDarkRequest, planPut,
      hallSet, hallStatus]
    repeat' split
    all_goals simp

/-- The requests of the Zone unit and of the level monitor. -/
theorem zoneRequest_engine {unit : List Byte → State → Answer}
    (one : unit ∈ [zoneSet, zoneStatus, loopReset, levelSet, levelRead]) (ps : List Byte) (s : State) :
    (unit ps s).state.engine = s.engine := by
  fin_cases one
  all_goals
    dsimp only [zoneSet, zoneStatus, loopReset, levelSet, levelRead]
    repeat' split
    all_goals simp

/-- The requests of the Admission unit. -/
theorem admissionRequest_engine {unit : List Byte → State → Answer}
    (one : unit ∈ [doorSet, partyAdd, partyRemove, partyMove, partyList, admitNow, admitExtend, admitClose, usherClear])
    (ps : List Byte) (s : State) :
    (unit ps s).state.engine = s.engine := by
  fin_cases one
  all_goals
    dsimp only [doorSet, partyAdd, partyRemove, partyMove, partyList, admitNow, admitExtend, admitClose, usherClear]
    repeat' split
    all_goals simp

/-- The requests of the Panel, Call, Description and Store units that do not ask which port they came from. -/
theorem otherRequest_engine {unit : List Byte → State → Answer}
    (one : unit ∈ [keymapSet, scanSet, keyStatus, callList, descSet, descStatus, talkLatch true, talkLatch false,
      settingsSave, restart, partInfo]) (ps : List Byte) (s : State) :
    (unit ps s).state.engine = s.engine := by
  fin_cases one
  all_goals
    dsimp only [keymapSet, scanSet, keyStatus, callList, descSet, descStatus, talkLatch, settingsSave, restart, partInfo]
    repeat' split
    all_goals simp

/-- The requests whose answer turns on the port they came from. -/
theorem portRequest_engine {unit : Port → List Byte → State → Answer}
    (one : unit ∈ [lampTest, callSubmit, callCancel, liveEnd, storeOpenRequest, storeRead, noticeRead, noticeAck, noticeSet])
    (p : Port) (ps : List Byte) (s : State) :
    (unit p ps s).state.engine = s.engine := by
  fin_cases one
  all_goals
    dsimp only [lampTest, callSubmit, callCancel, liveEnd, storeOpenRequest, storeRead, noticeRead, noticeAck, noticeSet]
    repeat' split
    all_goals simp

/-- R173: what an open store does with a request of its owner. -/
theorem ownerRequest_engine (p : Port) (bad : Bool) (s : State) {act : State → State} (same : (act s).engine = s.engine) :
    (ownerRequest p bad s act).state.engine = s.engine := by
  unfold ownerRequest
  repeat' split
  all_goals simp [same]

theorem ownersRequest_engine {unit : Port → List Byte → State → Answer}
    (one : unit ∈ [storeFill, storeProgram, storeErase, storeClose]) (p : Port) (ps : List Byte) (s : State) :
    (unit p ps s).state.engine = s.engine := by
  fin_cases one
  all_goals exact ownerRequest_engine p _ s rfl

/-! ## Commands -/

/-- A command that leaves the engine, wherever it answers a next state. -/
def LeavesEngine (s : State) (o : Step) : Prop := ∀ t, o = .next t → t.engine = s.engine

theorem LeavesEngine.next {s t : State} (same : t.engine = s.engine) : LeavesEngine s (.next t) :=
  fun _ e => Host.Outcome.next.inj e ▸ same

theorem request_leavesEngine {code : Byte} {p : Port} {s : State} {unit : List Byte → State → Answer}
    (same : ∀ ps s, (unit ps s).state.engine = s.engine) : LeavesEngine s (takeRequest code p s unit) := by
  intro t taken
  obtain rfl | ⟨ps, rfl⟩ := takeRequest_leaves taken
  · rfl
  · unfold respond
    split <;> simp [same]

theorem takeEntranceKey_engine {event : KeyEvent} {role : Fin 12 → Role} {s : State} {k : Fin 64 × Fin 12 × State}
    (taken : takeEntranceKey event role s = some k) : k.2.2.engine = s.engine := by
  unfold takeEntranceKey at taken
  split at taken
  · split at taken
    · split at taken
      · cases taken; rfl
      · cases taken
    · cases taken
  · cases taken

/-- A command of the entrance keys: what it does with the event it names, or nothing. -/
theorem keyCommand_leavesEngine {event : KeyEvent} {role : Fin 12 → Role} {act : Fin 64 × Fin 12 × State → State} {s : State}
    (same : ∀ k, (act k).engine = k.2.2.engine) {o : Step}
    (command : o = match takeEntranceKey event role s with | some k => .next (act k) | none => .next s) : LeavesEngine s o := by
  rw [command]
  split
  · next taken => exact .next ((same _).trans (takeEntranceKey_engine taken))
  · exact .next rfl

theorem levelPeriodEnd_leavesEngine (s : State) : LeavesEngine s (execLevelPeriodEnd s) := by
  unfold execLevelPeriodEnd
  split
  · exact .next (by simp [foldl_engine sensePeriod_engine, foldl_engine soundPeriod_engine])
  · exact .next rfl

theorem keyStep_leavesEngine (due : KeyDue) (k : Fin 64) (s : State) : LeavesEngine s (keyStep due k s) := by
  unfold keyStep
  split
  · exact .next (performUpTo_engine s k)
  · exact .next rfl

/-! ## Every command -/

/-- R45–R47, R183: a frame, a block and a start-up reach the engine; no other command does. -/
inductive EngineEffect (s : State) : State → Prop
  | same {t} (same : t.engine = s.engine) : EngineEffect s t
  | frame (lane : Lane) (good : Bool) (slots : List Sample) : EngineEffect s (afterFrame lane good slots s)
  | block (sense : List (List Sample)) : EngineEffect s (mixFrom sense (aimZones (settleBlock s)))
  | boot (straps : BitVec 2) (m : Flash) (draws : Nat) (queue : List Instr) : EngineEffect s (State.boot straps m draws queue)

theorem startUp_engineEffect {straps : BitVec 2} {s t : State} (does : Host.Outcome.next (startUp straps s) = (.next t : Step)) :
    EngineEffect s t := Host.Outcome.next.inj does ▸ .boot _ _ _ _

theorem restartTakesEffect_engineEffect {straps : BitVec 2} {s t : State} (does : execRestartTakesEffect straps s = .next t) :
    EngineEffect s t := by
  unfold execRestartTakesEffect at does
  split at does
  · exact startUp_engineEffect does
  · cases does; exact .same rfl

theorem LeavesEngine.effect {s t : State} {o : Step} (leaves : LeavesEngine s o) (does : o = .next t) : EngineEffect s t :=
  .same (leaves t does)

theorem exec_engineEffect {c : Instr} {s t : State} (does : exec c s = .next t) : EngineEffect s t := by
  cases c with
  | powerOn straps | resetLine straps => exact startUp_engineEffect does
  | restartTakesEffect straps => exact restartTakesEffect_engineEffect does
  | inputFrame lane good slots =>
    rw [exec_inputFrame] at does
    exact Host.Outcome.next.inj does ▸ .frame lane good slots
  | mixBlock sense =>
    rw [exec_mixBlock] at does
    exact Host.Outcome.next.inj does ▸ .block sense
  | orderClear p | orderPut p | orderAppend p | hallOpen p | segStart p | segEnd p | gapMark p | gapEnd p | hallDark p
  | planPut p | hallSet p | hallStatus p =>
    exact (request_leavesEngine (programmeRequest_engine (by simp))).effect does
  | zoneSet p | zoneStatus p | loopReset p | levelSet p | levelRead p =>
    exact (request_leavesEngine (zoneRequest_engine (by simp))).effect does
  | doorSet p | partyAdd p | partyRemove p | partyMove p | partyList p | admitNow p | admitExtend p | admitClose p
  | usherClear p =>
    exact (request_leavesEngine (admissionRequest_engine (by simp))).effect does
  | keymapSet p | scanSet p | keyStatus p | callList p | descSet p | descStatus p | talkOpen p | talkClose p
  | settingsSave p | restart p | partInfo p =>
    exact (request_leavesEngine (otherRequest_engine (by simp))).effect does
  | lampTest p | callSubmit p | callCancel p | liveEnd p | storeOpen p | storeRead p | noticeRead p | noticeAck p
  | noticeSet p =>
    exact (request_leavesEngine (portRequest_engine (by simp) p)).effect does
  | storeFill p | storeProgram p | storeErase p | storeClose p =>
    exact (request_leavesEngine (ownersRequest_engine (by simp) p)).effect does
  | keyDebounceDone k | keyLong k | keyRepeat k | keyStuck k | keyRelease k =>
    exact (keyStep_leavesEngine _ k s).effect does
  | addKeyPress => exact (keyCommand_leavesEngine (fun k => addKeyPress_engine k.2.2 k.1 k.2.1) rfl).effect does
  | addKeyRepeat => exact (keyCommand_leavesEngine (fun k => addKeyRepeat_engine k.2.2 k.1 k.2.1) rfl).effect does
  | removeKeyPress => exact (keyCommand_leavesEngine (fun k => removeKeyPress_engine k.2.2 k.2.1) rfl).effect does
  | removeKeyLong => exact (keyCommand_leavesEngine (fun k => foldl_engine discard_engine _ k.2.2) rfl).effect does
  | doneKeyPress => exact (keyCommand_leavesEngine (fun k => doneKeyPress_engine k.2.2 k.2.1) rfl).effect does
  | usherKeyPress => exact (keyCommand_leavesEngine (fun k => usherCall_engine k.2.2 k.2.1 _) rfl).effect does
  | usherKeyLong => exact (keyCommand_leavesEngine (fun k => usherCall_engine k.2.2 k.2.1 _) rfl).effect does
  | levelPeriodEnd => exact (levelPeriodEnd_leavesEngine s).effect does
  | i2cWriteStart p addr data | i2cWriteEnd p | writeTimeout p | i2cRead p addr count | stretchLimit p =>
    dsimp only [exec, execI2cWriteStart, execI2cWriteEnd, execWriteTimeout, execI2cRead, execStretchLimit] at does
    refine LeavesEngine.effect ?_ does
    repeat' split
    all_goals exact .next (by simp)
  | hallQuietEvent h | hallSoundEvent h | planStepFire h | intervalDue h =>
    dsimp only [exec, execHallQuietEvent, execHallSoundEvent, execPlanStepFire, execIntervalDue] at does
    refine LeavesEngine.effect ?_ does
    repeat' split
    all_goals exact .next (by simp)
  | zonePhaseEvent | relayRequest | channelChangeReport | overlayPush q | overlayRemoval owner zones
  | overCurrentEvent l | foldBackRecovery l | openLoopBegin l | openLoopEnd l | rampStep z =>
    dsimp only [exec, execZonePhaseEvent, execRelayRequest, execChannelChangeReport, execOverlayPush, execOverlayRemoval,
      execOverCurrentEvent, execFoldBackRecovery, execOpenLoopBegin, execOpenLoopEnd, execRampStep] at does
    refine LeavesEngine.effect ?_ does
    repeat' split
    all_goals exact .next (by simp)
  | admissionPhaseEvent | windowWarn h | windowDeadline h =>
    dsimp only [exec, execAdmissionPhaseEvent, execWindowWarn, execWindowDeadline] at does
    refine LeavesEngine.effect ?_ does
    repeat' split
    all_goals exact .next (by simp)
  | keyScanSweep down | lampStateOffer | tallyStateOffer | refuseIndication | lampFrame | refuseOverlayEnd l
  | lampTestEnd l | cutFlashEnd d =>
    dsimp only [exec, execKeyScanSweep, execLampStateOffer, execTallyStateOffer, execRefuseIndication, execLampFrame,
      execRefuseOverlayEnd, execLampTestEnd, execCutFlashEnd] at does
    refine LeavesEngine.effect ?_ does
    repeat' split
    all_goals exact .next (by simp)
  | unitCallSubmission u | callStackReport | callHushChange | callPhaseEvent | hallCallCancel | planCallCancel
  | admissionCallCancel | callDeadlineExpiry id | liveTimeout id | playerPhraseEnd n | repeatSilenceEnd n
  | chimeNoteEnd | chimeStrikeEnd =>
    dsimp only [exec, execUnitCallSubmission, execCallStackReport, execCallHushChange, execCallPhaseEvent,
      execHallCallCancel, execPlanCallCancel, execAdmissionCallCancel, execCallDeadlineExpiry, execLiveTimeout,
      execPlayerPhraseEnd, execRepeatSilenceEnd, execChimeNoteEnd, execChimeStrikeEnd] at does
    refine LeavesEngine.effect ?_ does
    repeat' split
    all_goals exact .next (by simp)
  | talkKeyPress | talkKeyRelease | describerLevelEvent d | descPhaseEvent | descStackReport | graceExpiry c =>
    dsimp only [exec, execTalkKeyPress, execTalkKeyRelease, execDescriberLevelEvent, execDescPhaseEvent, execDescStackReport,
      execGraceExpiry] at does
    refine LeavesEngine.effect ?_ does
    repeat' split
    all_goals exact .next (by simp)
  | programComplete | eraseComplete left | storeReadDone p | saveComplete left | noticeOffer n | houseClockTick =>
    dsimp only [exec, execProgramComplete, execEraseComplete, execStoreReadDone, execSaveComplete, execNoticeOffer,
      execHouseClockTick] at does
    refine LeavesEngine.effect ?_ does
    repeat' split
    all_goals exact .next (by simp)

/-! ## Full scale and the PWM period (R59, R62) -/

/-- R59, R62: the part of `OutputLaw` that the engine has, whatever the drive limits. -/
structure EngineLaw (u : Engine) : Prop where
  made : ∀ z, ∀ x ∈ u.made.get z, sampleMin ≤ x ∧ x ≤ sampleMax
  sending : ∀ z, ∀ x ∈ u.sending.get z, sampleMin ≤ x ∧ x ≤ sampleMax
  duties : ∀ l, ∀ d ∈ u.dutyOut.get l, 0 ≤ d ∧ d ≤ 4095

theorem outputLaw_iff {s : State} : OutputLaw s ↔ LoopsLaw s ∧ EngineLaw s.engine :=
  ⟨fun law => ⟨law.limit, law.made, law.sending, law.duties⟩, fun law => ⟨law.1, law.2.made, law.2.sending, law.2.duties⟩⟩

/-- A frame goes to its lane and touches no output. -/
theorem afterFrame_engineLaw {s : State} (law : EngineLaw s.engine) (lane : Lane) (good : Bool) (slots : List Sample) :
    EngineLaw (afterFrame lane good slots s).engine := by
  rw [afterFrame_engine]
  exact ⟨law.made, law.sending, law.duties⟩

/-- R59, R62: what a block makes is saturated, what it sends was made within full scale, and every duty lies within a drive
limit of at most 2,047 of the centre 2,048. -/
theorem nextEngine_engineLaw {a : State} (limits : LoopsLaw a) (law : EngineLaw a.engine) :
    EngineLaw (nextEngine a (blockSums a)) where
  made z x member := by
    rw [made_get] at member
    obtain ⟨i, _, rfl⟩ := List.mem_map.mp member
    exact saturated_range _
  sending := law.made
  duties l d member := by
    rw [nextEngine_dutyOut] at member
    obtain ⟨low, high, _⟩ := effectiveDuties_range member
    have limit := limits l
    omega

theorem bootEngine_engineLaw : EngineLaw bootEngine where
  made z x member := by
    rw [bootEngine, Table.get_fill] at member
    cases member
  sending z x member := by
    rw [bootEngine, Table.get_fill] at member
    cases member
  duties l d member := by
    rw [bootEngine, Table.get_fill] at member
    cases member

theorem exec_engineLaw {c : Instr} {s t : State} (does : exec c s = .next t) (limits : LoopsLaw s) (law : EngineLaw s.engine) :
    EngineLaw t.engine := by
  cases exec_engineEffect does with
  | same same => rwa [same]
  | frame lane good slots => exact afterFrame_engineLaw law lane good slots
  | block sense =>
    have started : EngineLaw (aimZones (settleBlock s)).engine := by rwa [blockStart_engine]
    have loops : LoopsLaw (aimZones (settleBlock s)) := by rwa [LoopsLaw, blockStart_loops]
    exact nextEngine_engineLaw loops started
  | boot straps m draws queue => exact bootEngine_engineLaw

theorem step_engineLaw {s t : State} (does : step s = .next t) (limits : LoopsLaw s) (law : EngineLaw s.engine) :
    EngineLaw t.engine := by
  unfold step at does
  split at does
  · cases does; exact law
  · exact exec_engineLaw does limits law

end Sys2Proof.Machine

namespace Sys2Proof

/-- Settles O60: only a frame, a block and a start-up reach the engine, and each keeps its samples and duties in range; the drive
limits stay in theirs as all settings do. -/
theorem outputKept : Obligations.OutputKept := fun _ _ law does =>
  have ⟨limits, engine⟩ := Machine.outputLaw_iff.mp law
  Machine.outputLaw_iff.mpr ⟨(Machine.step_keeps does).loops limits, Machine.step_engineLaw does limits engine⟩

end Sys2Proof

/-! PROOFS. Loop protection: the fold-back under over-currents, its recovery, the open flag, and LOOP_RESET (R76–R80). -/

namespace Sys2Proof.Machine

section
variable {s : State} {l : Fin 8} {rest : List LoopEvent}

/-! ## Over-currents (R76) -/

theorem exec_overCurrentEvent (waits : s.mail.loopEvents.get l = .overCurrent :: rest) :
    exec (.overCurrentEvent l) s = .next (overCurrent l (takeLoopEvent l rest s)) := by
  change execOverCurrentEvent l s = _
  rw [execOverCurrentEvent, waits]

theorem overCurrent_shut (shut : (s.zoneUnit.loops.get l).shut = true) : overCurrent l s = s := if_pos shut

/-- R76: a loop with a level of fold-back left goes one step deeper. -/
theorem overCurrent_deeper {level : FoldBack} {code : Byte} (driven : (s.zoneUnit.loops.get l).shut = false)
    (deeper : (s.zoneUnit.loops.get l).foldBack.deeper = some (level, code)) :
    overCurrent l s =
      offer 7 (byteOf l.val) code (setLoop l { s.zoneUnit.loops.get l with foldBack := level, recovery := 0 } s) := by
  unfold overCurrent
  dsimp only
  rw [if_neg (ne_true_of_eq_false driven), deeper]
  rfl

/-- R76: a loop at its deepest fold-back shuts. -/
theorem overCurrent_deepest (driven : (s.zoneUnit.loops.get l).shut = false)
    (deepest : (s.zoneUnit.loops.get l).foldBack.deeper = none) :
    overCurrent l s = offer 7 (byteOf l.val) 3 (setLoop l { s.zoneUnit.loops.get l with shut := true, recovery := 0 } s) := by
  unfold overCurrent
  dsimp only
  rw [if_neg (ne_true_of_eq_false driven), deepest]
  rfl

/-! ## Recovery (R77) -/

theorem exec_foldBackRecovery (l : Fin 8) (s : State) :
    exec (.foldBackRecovery l) s = .next (setLoop l (s.zoneUnit.loops.get l).recover s) := rfl

theorem setLoop_same (l : Fin 8) (s : State) : setLoop l (s.zoneUnit.loops.get l) s = s := by
  have same : s.zoneUnit.loops.set l (s.zoneUnit.loops.get l) = s.zoneUnit.loops := Table.modify_of_fixed _ (g := id) rfl
  rw [setLoop, same]
  rfl

theorem LoopRecord.recover_early {r : LoopRecord} (early : r.recovery < 1000) : r.recover = r :=
  if_neg (Nat.not_le.mpr early)

theorem LoopRecord.recover_due {r : LoopRecord} (due : 1000 ≤ r.recovery) : r.recover =
    { r with recovery := 0, foldBack := match r.foldBack with
      | .by36 => .by24
      | .by24 => .by12
      | _ => .none } := by
  have shallower : r.foldBack.shallower = match r.foldBack with
      | .by36 => .by24
      | .by24 => .by12
      | _ => .none := by
    cases r.foldBack <;> rfl
  rw [← shallower]
  exact if_pos due

/-! ## The open flag (R78, R79) -/

theorem exec_openLoopBegin (waits : s.mail.loopEvents.get l = .openBegin :: rest) :
    exec (.openLoopBegin l) s = .next (setOpen l true 4 (takeLoopEvent l rest s)) := by
  change execOpenLoopBegin l s = _
  rw [execOpenLoopBegin, waits]

theorem exec_openLoopEnd (waits : s.mail.loopEvents.get l = .openEnd :: rest) :
    exec (.openLoopEnd l) s = .next (setOpen l false 5 (takeLoopEvent l rest s)) := by
  change execOpenLoopEnd l s = _
  rw [execOpenLoopEnd, waits]

theorem setOpen_changes {flag : Bool} (code : Byte) (driven : (s.zoneUnit.loops.get l).shut = false)
    (other : (s.zoneUnit.loops.get l).openFlag ≠ flag) :
    setOpen l flag code s = offer 7 (byteOf l.val) code (setLoop l { s.zoneUnit.loops.get l with openFlag := flag } s) := by
  refine if_neg fun h => ?_
  rw [driven, Bool.false_or, decide_eq_true_iff] at h
  exact other h

theorem setOpen_idle {flag : Bool} (code : Byte)
    (idle : (s.zoneUnit.loops.get l).shut = true ∨ (s.zoneUnit.loops.get l).openFlag = flag) :
    setOpen l flag code s = s :=
  if_pos (by rwa [Bool.or_eq_true, decide_eq_true_iff])

/-! ## LOOP_RESET (R80) -/

theorem loopReset_refused {z : Byte} (beyond : 7 < z.toNat) (s : State) : loopReset [z] s = refuse .range s := by
  have none : (finUpTo 8)[natAt [z] 0]? = none := finUpTo_eq_none_iff.mpr beyond
  rw [loopReset, none]

theorem loopReset_accepted (l : Fin 8) (s : State) : loopReset [byteOf l.val] s = accept false []
    (setLoop l { s.zoneUnit.loops.get l with shut := false, foldBack := .none, recovery := 0 } s) := by
  rw [loopReset, finUpTo_byteOf l (by decide)]

end

/-! ## The rules -/

theorem overCurrentFoldsBack_rule : Rules.OverCurrentFoldsBack := by
  intro s l rest waits
  dsimp only
  rw [exec_overCurrentEvent waits]
  refine ⟨fun shut => congrArg _ (overCurrent_shut shut), fun driven => ⟨fun level => ?_, fun level => ?_, fun level => ?_,
    fun level => ?_⟩⟩
  · exact congrArg _ (overCurrent_deeper driven (congrArg FoldBack.deeper level))
  · exact congrArg _ (overCurrent_deeper driven (congrArg FoldBack.deeper level))
  · exact congrArg _ (overCurrent_deeper driven (congrArg FoldBack.deeper level))
  · exact congrArg _ (overCurrent_deepest driven (congrArg FoldBack.deeper level))

theorem loopRecoveryOpenAndReset_rule : Rules.LoopRecoveryOpenAndReset := by
  intro s l
  dsimp only
  refine ⟨fun due => ?_, fun early => ?_, fun rest waits => ?_, fun rest waits => ?_, fun p z asks => ⟨fun beyond => ?_, ?_⟩⟩
  · exact congrArg (fun r => Host.Outcome.next (setLoop l r s)) (LoopRecord.recover_due due)
  · rw [exec_foldBackRecovery, LoopRecord.recover_early early, setLoop_same]
  · rw [exec_openLoopBegin waits]
    exact ⟨fun driven clear => congrArg _ (setOpen_changes 4 driven (ne_true_of_eq_false clear)),
      fun idle => congrArg _ (setOpen_idle 4 idle)⟩
  · rw [exec_openLoopEnd waits]
    exact ⟨fun driven flagged => congrArg _ (setOpen_changes 5 driven (ne_false_of_eq_true flagged)),
      fun idle => congrArg _ (setOpen_idle 5 idle)⟩
  · exact asks.refused (loopReset_refused beyond _)
  · rintro rfl
    exact asks.accepted (a := false) (setLoop l _) (loopReset_accepted l _) fun _ => rfl

end Sys2Proof.Machine

namespace Sys2Proof

/-- Settles O16: what each event of a loop makes of its record, by the loop's state, its fold-back and its open flag. -/
theorem loopProtection : Obligations.LoopProtection :=
  ⟨Machine.overCurrentFoldsBack_rule, Machine.loopRecoveryOpenAndReset_rule⟩

end Sys2Proof

/-! PROOFS. The level monitor: a block's peaks, and every channel and loop at the end of a period (R67, R68, R71–R75,
R77–R79). -/

namespace Sys2Proof.Machine

/-! ## Peaks (R68) -/

/-- A peak risen over some samples to the largest absolute value. -/
structure Rises (old new : Nat) (samples : List Int) : Prop where
  notBelow : old ≤ new
  bounds : ∀ x ∈ samples, x.natAbs ≤ new
  reached : new = old ∨ ∃ x ∈ samples, new = x.natAbs

theorem foldl_peak_rises (samples : List Int) (old : Nat) :
    Rises old (samples.foldl (fun n x => max n x.natAbs) old) samples := by
  induction samples generalizing old with
  | nil => exact ⟨le_rfl, fun x member => (List.not_mem_nil member).elim, .inl rfl⟩
  | cons x samples ih =>
    obtain ⟨notBelow, bounds, reached⟩ := ih (max old x.natAbs)
    refine ⟨(le_max_left _ _).trans notBelow, List.forall_mem_cons.mpr ⟨(le_max_right _ _).trans notBelow, bounds⟩, ?_⟩
    rcases reached with same | ⟨y, member, at_y⟩
    · rcases max_choice old x.natAbs with low | high
      · exact .inl (same.trans low)
      · exact .inr ⟨x, List.mem_cons_self, same.trans high⟩
    · exact .inr ⟨y, List.mem_cons_of_mem _ member, at_y⟩

theorem max_peakOf_rises (old : Nat) (samples : List Int) : Rises old (max old (peakOf samples)) samples := by
  obtain ⟨_, bounds, reached⟩ := foldl_peak_rises samples 0
  refine ⟨le_max_left _ _, fun x member => (bounds x member).trans (le_max_right _ _), ?_⟩
  rcases max_choice old (peakOf samples) with low | high
  · exact .inl low
  · rcases reached with zero | ⟨x, member, at_x⟩
    · exact .inl (by rw [peakOf, zero, Nat.max_zero])
    · exact .inr ⟨x, member, high.trans at_x⟩

theorem OnlyCalls.level {s t : State} (h : OnlyCalls s t) : t.level = s.level := by unfold OnlyCalls at h; rw [h]

theorem blockStart_level (s : State) : (aimZones (settleBlock s)).level = s.level := by
  rw [aimZones_eq, (settleBlock_frame s).level]

theorem mixFrom_sense (sense : List (List Sample)) (a : State) (l : Fin 8) : (mixFrom sense a).level.sense.get l =
    { a.level.sense.get l with
      peak := max (a.level.sense.get l).peak (peakOf (senseBlock sense l))
      drive := max (a.level.sense.get l).drive (peakOf (((mixFrom sense a).engine.dutyOut.get l).map driveSample)) } :=
  Table.get_mapIdx _ _ _

theorem mixBlockPeaks_rule : Rules.MixBlockPeaks := by
  intro s sense
  refine ⟨_, exec_mixBlock sense s, ?_⟩
  rw [← blockStart_level s, ← blockStart_engine s]
  generalize aimZones (settleBlock s) = a
  refine ⟨rfl, rfl, fun l => ?_⟩
  dsimp only
  rw [mixFrom_sense]
  have peak := max_peakOf_rises (a.level.sense.get l).peak (senseBlock sense l)
  have drive := max_peakOf_rises (a.level.sense.get l).drive (((mixFrom sense a).engine.dutyOut.get l).map driveSample)
  exact ⟨rfl, ⟨peak.notBelow, peak.bounds, peak.reached⟩, drive.notBelow, drive.bounds, drive.reached⟩

/-! ## Channels evaluated one after another -/

/-- Where each step of a fold rewrites its own entry and leaves the others, the fold rewrites the entries of its list, by
what every state that the fold passes through has in common. -/
theorem foldl_entries {α : Type} {n : Nat} {entry : State → Fin n → α} {rewritten : Fin n → α → α} {common : State → Prop}
    {f : State → Fin n → State} (keeps : ∀ t i, common t → common (f t i))
    (own : ∀ t i, common t → entry (f t i) i = rewritten i (entry t i))
    (other : ∀ t i j, i ≠ j → entry (f t i) j = entry t j) {l : List (Fin n)} (distinct : l.Nodup) {s : State}
    (start : common s) (i : Fin n) :
    entry (l.foldl f s) i = if i ∈ l then rewritten i (entry s i) else entry s i := by
  induction l generalizing s with
  | nil => rw [List.foldl_nil, if_neg List.not_mem_nil]
  | cons j l ih =>
    obtain ⟨apart, distinct⟩ := List.nodup_cons.mp distinct
    rw [List.foldl_cons, ih distinct (keeps s j start)]
    by_cases same : i = j
    · subst same
      rw [if_neg apart, if_pos List.mem_cons_self, own s i start]
    · rw [other s j i (Ne.symm same)]
      simp only [List.mem_cons, same, false_or]

/-! ## Sound channels at the end of a period (R68, R71–R73) -/

/-- A sound channel after a period in which it was evaluated or frozen, and its turn if it turned. -/
def SoundChannel.afterPeriod (live : Bool) (r : SoundChannel) : SoundChannel × Option LevelState :=
  let e := if live then soundEval r else (r, none)
  ({ e.1 with lastPeak := r.peak, peak := 0 }, e.2)

section
variable {r : SoundChannel}

/-- R71, a channel that is QUIET. -/
theorem SoundChannel.afterPeriod_quiet (quiet : r.state = .quiet) : r.afterPeriod true =
    if threshold r.settings.upper ≤ r.peak then
      if r.settings.soundHold ≤ r.run + 1 then
        ({ r with state := .sound, run := 0, lastPeak := r.peak, peak := 0 }, some .sound)
      else ({ r with state := .quiet, run := r.run + 1, lastPeak := r.peak, peak := 0 }, none)
    else ({ r with state := .quiet, run := 0, lastPeak := r.peak, peak := 0 }, none) := by
  obtain ⟨settings, state, run, lastPeak, peak⟩ := r
  cases quiet
  simp only [SoundChannel.afterPeriod, soundEval, if_true]
  split <;> [split; skip] <;> rfl

/-- R71, a channel that is SOUND. -/
theorem SoundChannel.afterPeriod_sound (sound : r.state = .sound) : r.afterPeriod true =
    if r.peak < threshold r.settings.lower then
      if r.settings.quietHold ≤ r.run + 1 then
        ({ r with state := .quiet, run := 0, lastPeak := r.peak, peak := 0 }, some .quiet)
      else ({ r with state := .sound, run := r.run + 1, lastPeak := r.peak, peak := 0 }, none)
    else ({ r with state := .sound, run := 0, lastPeak := r.peak, peak := 0 }, none) := by
  obtain ⟨settings, state, run, lastPeak, peak⟩ := r
  cases sound
  simp only [SoundChannel.afterPeriod, soundEval, if_true]
  split <;> [split; skip] <;> rfl

/-- R71: a channel turns where its state changes. -/
theorem SoundChannel.afterPeriod_turn (live : Bool) (r : SoundChannel) : (r.afterPeriod live).2.toList =
    if (r.afterPeriod live).1.state = r.state then [] else [(r.afterPeriod live).1.state] := by
  cases live with
  | false => exact (if_pos rfl).symm
  | true =>
    cases state : r.state with
    | quiet => rw [SoundChannel.afterPeriod_quiet state]; split <;> [split; skip] <;> rfl
    | sound => rw [SoundChannel.afterPeriod_sound state]; split <;> [split; skip] <;> rfl

end

/-- R73: the turns handed for a sound channel that its unit has not taken. -/
def handedTurns (m : Mail) : Fin 6 → List LevelState
  | ⟨0, _⟩ => m.hallLevels.a
  | ⟨1, _⟩ => m.hallLevels.b
  | ⟨d + 2, h⟩ => m.describerLevels.get ⟨d, by omega⟩

theorem handedTurns_congr {m n : Mail} (halls : n.hallLevels = m.hallLevels)
    (describers : n.describerLevels = m.describerLevels) (c : Fin 6) : handedTurns n c = handedTurns m c := by
  unfold handedTurns
  rw [halls, describers]

/-- R73: a turn handed to the unit of its channel. -/
def withTurn (turn : LevelState) (m : Mail) : Fin 6 → Mail
  | ⟨0, _⟩ => { m with hallLevels := m.hallLevels.modify .a (· ++ [turn]) }
  | ⟨1, _⟩ => { m with hallLevels := m.hallLevels.modify .b (· ++ [turn]) }
  | ⟨d + 2, h⟩ => { m with describerLevels := m.describerLevels.modify ⟨d, by omega⟩ (· ++ [turn]) }

theorem handedTurns_withTurn_self (turn : LevelState) (m : Mail) :
    (c : Fin 6) → handedTurns (withTurn turn m c) c = handedTurns m c ++ [turn]
  | ⟨0, _⟩ => rfl
  | ⟨1, _⟩ => rfl
  | ⟨_ + 2, _⟩ => Table.get_modify_self _ _ _

theorem handedTurns_withTurn_ne (turn : LevelState) (m : Mail) :
    (c d : Fin 6) → c ≠ d → handedTurns (withTurn turn m c) d = handedTurns m d
  | ⟨0, _⟩, ⟨0, _⟩, other => absurd rfl other
  | ⟨0, _⟩, ⟨1, _⟩, _ => rfl
  | ⟨0, _⟩, ⟨_ + 2, _⟩, _ => rfl
  | ⟨1, _⟩, ⟨0, _⟩, _ => rfl
  | ⟨1, _⟩, ⟨1, _⟩, other => absurd rfl other
  | ⟨1, _⟩, ⟨_ + 2, _⟩, _ => rfl
  | ⟨_ + 2, _⟩, ⟨0, _⟩, _ => rfl
  | ⟨_ + 2, _⟩, ⟨1, _⟩, _ => rfl
  | ⟨_ + 2, _⟩, ⟨_ + 2, _⟩, other => Table.get_modify_ne _ _ fun same => other (Fin.ext (congrArg (·.val + 2) same))

/-- R73: the LEVEL notice of a turn. -/
def levelOffer (now : Clock) (c : Fin 6) (turn : LevelState) : Offer :=
  ⟨6, byteOf c.val, if turn = .sound then 1 else 0, now, ⟨true, true, true⟩, some (if turn = .sound then .rise else .fall)⟩

/-- `t` is `s` but for the sound channels and what their turns hand. -/
def OnlySound (s t : State) : Prop :=
  t = { s with
    level := { s.level with sound := t.level.sound }
    mail := { s.mail with
      hallLevels := t.mail.hallLevels, describerLevels := t.mail.describerLevels, offers := t.mail.offers } }

theorem OnlySound.refl (s : State) : OnlySound s s := rfl

theorem OnlySound.trans {s t u : State} (h : OnlySound s t) (k : OnlySound t u) : OnlySound s u := by
  unfold OnlySound at *; rw [k, h]

section
variable {s t : State} (h : OnlySound s t)
include h

theorem OnlySound.clock : t.clock = s.clock := by unfold OnlySound at h; rw [h]
theorem OnlySound.sense : t.level.sense = s.level.sense := by unfold OnlySound at h; rw [h]
theorem OnlySound.loops : t.zoneUnit.loops = s.zoneUnit.loops := by unfold OnlySound at h; rw [h]
theorem OnlySound.loopEvents : t.mail.loopEvents = s.mail.loopEvents := by unfold OnlySound at h; rw [h]
theorem OnlySound.evaluated (c : Fin 6) : evaluated t c = evaluated s c := by unfold OnlySound at h; rw [h]; rfl

end

theorem handTurn_eq (c : Fin 6) (turn : LevelState) (s : State) : handTurn c turn s =
    { s with mail := { withTurn turn s.mail c with offers := s.mail.offers ++ [levelOffer s.clock c turn] } } := by
  cases turn <;> fin_cases c <;> rfl

theorem handTurn_only (c : Fin 6) (turn : LevelState) (s : State) : OnlySound s (handTurn c turn s) := by
  rw [handTurn_eq]
  fin_cases c <;> rfl

theorem handTurn_offers (c : Fin 6) (turn : LevelState) (s : State) :
    (handTurn c turn s).mail.offers = s.mail.offers ++ [levelOffer s.clock c turn] := by rw [handTurn_eq]

theorem handTurn_handed_self (c : Fin 6) (turn : LevelState) (s : State) :
    handedTurns (handTurn c turn s).mail c = handedTurns s.mail c ++ [turn] := by
  rw [handTurn_eq, ← handedTurns_withTurn_self]
  exact handedTurns_congr rfl rfl c

theorem handTurn_handed_ne {c d : Fin 6} (other : c ≠ d) (turn : LevelState) (s : State) :
    handedTurns (handTurn c turn s).mail d = handedTurns s.mail d := by
  rw [handTurn_eq, ← handedTurns_withTurn_ne turn s.mail c d other]
  exact handedTurns_congr rfl rfl d

/-- R72: a sound channel is evaluated where its lane is LOCKED and has been throughout the period. -/
theorem evaluated_iff {s : State} {c : Fin 6} : evaluated s c = true ↔
    (s.engine.lanes.get (soundLane c)).locked = true ∧ s.level.unlocked.get (soundLane c) = false := by
  simp only [evaluated, frozen, Bool.not_not, Bool.and_eq_true, Bool.not_eq_true']

theorem not_evaluated_iff {s : State} {c : Fin 6} : evaluated s c = false ↔
    (s.engine.lanes.get (soundLane c)).locked = false ∨ s.level.unlocked.get (soundLane c) = true := by
  simp only [evaluated, frozen, Bool.not_not, Bool.and_eq_false_iff, Bool.not_eq_false']

section
variable (s : State) (c : Fin 6)

/-- R68, R71, R72: a sound channel of a state after its period, and its turn if it turned. -/
def soundOutcome : SoundChannel × Option LevelState := (s.level.sound.get c).afterPeriod (evaluated s c)

/-- R73: the LEVEL notice of a sound channel's period, if it turned. -/
def periodOffers : List Offer := (soundOutcome s c).2.toList.map (levelOffer s.clock c)

theorem soundPeriod_still (still : (soundOutcome s c).2 = none) : soundPeriod s c = setSound c (soundOutcome s c).1 s := by
  unfold soundPeriod
  dsimp only
  split
  · next turned => cases still.symm.trans turned
  · rfl

theorem soundPeriod_turned {turn : LevelState} (turned : (soundOutcome s c).2 = some turn) :
    soundPeriod s c = handTurn c turn (setSound c (soundOutcome s c).1 s) := by
  unfold soundPeriod
  dsimp only
  split
  · next turned' => cases turned.symm.trans turned'; rfl
  · next still => cases turned.symm.trans still

theorem soundPeriod_only : OnlySound s (soundPeriod s c) := by
  cases turns : (soundOutcome s c).2 with
  | none => rw [soundPeriod_still s c turns]; rfl
  | some turn =>
    rw [soundPeriod_turned s c turns]
    exact OnlySound.trans (t := setSound c _ s) rfl (handTurn_only _ _ _)

theorem soundPeriod_sound : (soundPeriod s c).level.sound = s.level.sound.set c (soundOutcome s c).1 := by
  cases turns : (soundOutcome s c).2 with
  | none => rw [soundPeriod_still s c turns]; rfl
  | some turn => rw [soundPeriod_turned s c turns]; rfl

theorem soundPeriod_handed_self :
    handedTurns (soundPeriod s c).mail c = handedTurns s.mail c ++ (soundOutcome s c).2.toList := by
  cases turns : (soundOutcome s c).2 with
  | none => rw [soundPeriod_still s c turns, Option.toList_none, List.append_nil]; rfl
  | some turn => rw [soundPeriod_turned s c turns, handTurn_handed_self]; rfl

theorem soundPeriod_handed_ne {d : Fin 6} (other : c ≠ d) :
    handedTurns (soundPeriod s c).mail d = handedTurns s.mail d := by
  cases turns : (soundOutcome s c).2 with
  | none => rw [soundPeriod_still s c turns]; rfl
  | some turn => rw [soundPeriod_turned s c turns, handTurn_handed_ne other]; rfl

/-- What is held of a sound channel, and the turns handed for it. -/
def soundEntry : SoundChannel × List LevelState := (s.level.sound.get c, handedTurns s.mail c)

/-- R71–R73: the same after a period in which the channel was evaluated or frozen. -/
def soundEntryAfter (live : Bool) (e : SoundChannel × List LevelState) : SoundChannel × List LevelState :=
  ((e.1.afterPeriod live).1, e.2 ++ (e.1.afterPeriod live).2.toList)

theorem soundPeriod_entry_self : soundEntry (soundPeriod s c) c = soundEntryAfter (evaluated s c) (soundEntry s c) := by
  rw [soundEntry, soundPeriod_sound, Table.get_set_self, soundPeriod_handed_self]
  rfl

theorem soundPeriod_entry_ne {d : Fin 6} (other : c ≠ d) : soundEntry (soundPeriod s c) d = soundEntry s d := by
  rw [soundEntry, soundPeriod_sound, Table.get_set_ne _ _ other, soundPeriod_handed_ne s c other, soundEntry]

theorem soundPeriod_offers : (soundPeriod s c).mail.offers = s.mail.offers ++ periodOffers s c := by
  rw [periodOffers]
  cases turns : (soundOutcome s c).2 with
  | none => rw [soundPeriod_still s c turns, Option.toList_none, List.map_nil, List.append_nil]; rfl
  | some turn => rw [soundPeriod_turned s c turns, handTurn_offers]; rfl

/-- No channel's period sees another's. -/
theorem periodOffers_soundPeriod {d : Fin 6} (other : c ≠ d) : periodOffers (soundPeriod s c) d = periodOffers s d := by
  have only := soundPeriod_only s c
  rw [periodOffers, soundOutcome, soundPeriod_sound, Table.get_set_ne _ _ other, only.evaluated, only.clock]
  rfl

end

/-- R71–R73: the sound channels of a state after their period. -/
def soundChannelsPeriod (s : State) : State := (finUpTo 6).foldl soundPeriod s

section
variable (s : State)

theorem soundChannelsPeriod_only : OnlySound s (soundChannelsPeriod s) :=
  foldl_frame OnlySound.refl OnlySound.trans soundPeriod_only _ s

theorem soundChannelsPeriod_get (c : Fin 6) :
    (soundChannelsPeriod s).level.sound.get c = (soundOutcome s c).1 ∧
      handedTurns (soundChannelsPeriod s).mail c = handedTurns s.mail c ++ (soundOutcome s c).2.toList := by
  have entry : soundEntry (soundChannelsPeriod s) c = soundEntryAfter (evaluated s c) (soundEntry s c) :=
    (foldl_entries (common := OnlySound s) (entry := soundEntry) (rewritten := fun d => soundEntryAfter (evaluated s d))
      (fun t d only => only.trans (soundPeriod_only t d))
      (fun t d only => by rw [soundPeriod_entry_self, only.evaluated])
      (fun t _ _ other => soundPeriod_entry_ne t _ other) (nodup_finUpTo 6) (OnlySound.refl s) c).trans
      (if_pos (Table.mem_finUpTo c))
  exact Prod.mk.inj entry

theorem foldl_soundPeriod_offers {l : List (Fin 6)} (distinct : l.Nodup) :
    (l.foldl soundPeriod s).mail.offers = s.mail.offers ++ l.flatMap (periodOffers s) := by
  induction l generalizing s with
  | nil => rw [List.foldl_nil, List.flatMap_nil, List.append_nil]
  | cons c l ih =>
    obtain ⟨apart, distinct⟩ := List.nodup_cons.mp distinct
    have others : l.flatMap (periodOffers (soundPeriod s c)) = l.flatMap (periodOffers s) :=
      List.flatMap_congr fun d member => periodOffers_soundPeriod s c fun same => apart (same ▸ member)
    rw [List.foldl_cons, ih _ distinct, soundPeriod_offers, others, List.flatMap_cons, List.append_assoc]

end

/-! ## Sense channels at the end of a period (R68, R74, R75, R78, R79) -/

/-- `t` is `s` but for the sense channels and the loops' events. -/
def OnlySense (s t : State) : Prop :=
  t = { s with
    level := { s.level with sense := t.level.sense }, mail := { s.mail with loopEvents := t.mail.loopEvents } }

theorem OnlySense.refl (s : State) : OnlySense s s := rfl

theorem OnlySense.trans {s t u : State} (h : OnlySense s t) (k : OnlySense t u) : OnlySense s u := by
  unfold OnlySense at *; rw [k, h]

section
variable {s t : State} (h : OnlySense s t)
include h

theorem OnlySense.loops : t.zoneUnit.loops = s.zoneUnit.loops := by unfold OnlySense at h; rw [h]
theorem OnlySense.sound : t.level.sound = s.level.sound := by unfold OnlySense at h; rw [h]
theorem OnlySense.offers : t.mail.offers = s.mail.offers := by unfold OnlySense at h; rw [h]
theorem OnlySense.handed (c : Fin 6) : handedTurns t.mail c = handedTurns s.mail c := by
  unfold OnlySense at h; rw [h]; exact handedTurns_congr rfl rfl c

end

theorem sensePeriod_only (s : State) (l : Fin 8) : OnlySense s (sensePeriod s l) := rfl

/-- A sense channel after a period that leaves an open run count. -/
def SenseChannel.afterPeriod (run : Nat) (r : SenseChannel) : SenseChannel :=
  { r with openRun := run, lastPeak := r.peak, lastDrive := r.drive, peak := 0, drive := 0 }

section
variable (s : State) (l : Fin 8)

/-- What is held of a sense channel, and the events handed for its loop. -/
def senseEntry : SenseChannel × List LoopEvent := (s.level.sense.get l, s.mail.loopEvents.get l)

/-- R74–R79: the same after a period, by what the Zone unit holds of the loop. -/
def senseEntryAfter (zone : LoopRecord) (e : SenseChannel × List LoopEvent) : SenseChannel × List LoopEvent :=
  (e.1.afterPeriod (senseEval zone e.1).1, e.2 ++ (senseEval zone e.1).2)

theorem sensePeriod_entry_self :
    senseEntry (sensePeriod s l) l = senseEntryAfter (s.zoneUnit.loops.get l) (senseEntry s l) := by
  unfold senseEntry sensePeriod
  dsimp only
  rw [Table.get_set_self, Table.get_modify_self]
  rfl

theorem sensePeriod_entry_ne {k : Fin 8} (other : l ≠ k) : senseEntry (sensePeriod s l) k = senseEntry s k := by
  unfold senseEntry sensePeriod
  dsimp only
  rw [Table.get_set_ne _ _ other, Table.get_modify_ne _ _ other]

end

/-- R74–R79: the sense channels of a state after their period. -/
def senseChannelsPeriod (s : State) : State := (finUpTo 8).foldl sensePeriod s

section
variable (s : State)

theorem senseChannelsPeriod_only : OnlySense s (senseChannelsPeriod s) :=
  foldl_frame OnlySense.refl OnlySense.trans sensePeriod_only _ s

theorem senseChannelsPeriod_get (l : Fin 8) :
    let e := senseEval (s.zoneUnit.loops.get l) (s.level.sense.get l)
    (senseChannelsPeriod s).level.sense.get l = (s.level.sense.get l).afterPeriod e.1 ∧
      (senseChannelsPeriod s).mail.loopEvents.get l = s.mail.loopEvents.get l ++ e.2 := by
  have entry : senseEntry (senseChannelsPeriod s) l = senseEntryAfter (s.zoneUnit.loops.get l) (senseEntry s l) :=
    (foldl_entries (common := OnlySense s) (entry := senseEntry)
      (rewritten := fun k => senseEntryAfter (s.zoneUnit.loops.get k))
      (fun t k only => only.trans (sensePeriod_only t k))
      (fun t k only => by rw [sensePeriod_entry_self, only.loops])
      (fun t _ _ other => sensePeriod_entry_ne t _ other) (nodup_finUpTo 8) (OnlySense.refl s) l).trans
      (if_pos (Table.mem_finUpTo l))
  exact Prod.mk.inj entry

end

/-- R75: the over-current event that a period hands. -/
def overCurrentEvents (r : SenseChannel) : List LoopEvent :=
  if threshold r.settings.overCurrent ≤ r.peak then [.overCurrent] else []

section
variable {zone : LoopRecord} {r : SenseChannel}

theorem senseEval_shut (shut : zone.shut = true) : senseEval zone r = (0, []) := if_pos shut

theorem senseEval_driven (driven : zone.shut = false) : senseEval zone r =
    ((openCheck zone.openFlag r).1, overCurrentEvents r ++ (openCheck zone.openFlag r).2.toList) := by
  unfold senseEval isOverCurrent overCurrentEvents
  rw [if_neg (ne_true_of_eq_false driven)]
  simp only [decide_eq_true_eq]

theorem openCheck_set_silent (silent : r.peak < threshold r.settings.openStep) : openCheck true r = (r.openRun, none) := by
  unfold openCheck
  rw [decide_eq_false (Nat.not_le.mpr silent)]
  rfl

theorem openCheck_set_flowing (flowing : ¬r.peak < threshold r.settings.openStep) : openCheck true r = (0, some .openEnd) := by
  unfold openCheck
  rw [decide_eq_true (Nat.not_lt.mp flowing)]
  rfl

theorem openCheck_clear : openCheck false r =
    if r.peak < threshold r.settings.openStep ∧ threshold r.settings.driveCheck ≤ r.drive then
      if r.settings.openHold ≤ r.openRun + 1 then (0, some .openBegin) else (r.openRun + 1, none)
    else (0, none) := by
  simp only [openCheck, Bool.false_eq_true, if_false, Bool.and_eq_true, Bool.not_eq_true', decide_eq_false_iff_not, Nat.not_le,
    decide_eq_true_eq]

end

/-! ## The recovery counts (R77) -/

section
variable {r : LoopRecord}

theorem LoopRecord.countRecovery_early (early : r.recovery < 1000) : r.countRecovery =
    if r.shut = true ∨ r.foldBack = .none then r else { r with recovery := r.recovery + 1 } := by
  simp only [countRecovery, Bool.or_eq_true, decide_eq_true_eq, recoveryLength, Nat.min_eq_right (Nat.succ_le_of_lt early)]

/-- R77: a loop's recovery leaves all that the checks of its sense channel look at. -/
theorem senseEval_countRecovery (sense : SenseChannel) : senseEval r.recover.countRecovery sense = senseEval r sense := by
  have recovered : r.recover.shut = r.shut ∧ r.recover.openFlag = r.openFlag := by
    unfold LoopRecord.recover
    split <;> exact ⟨rfl, rfl⟩
  have counted : ∀ q : LoopRecord, q.countRecovery.shut = q.shut ∧ q.countRecovery.openFlag = q.openFlag := fun q => by
    unfold LoopRecord.countRecovery
    split <;> exact ⟨rfl, rfl⟩
  unfold senseEval
  rw [(counted _).1, (counted _).2, recovered.1, recovered.2]

end

/-! ## The period (R67, R68) -/

/-- The state that the end of a period leaves. -/
def afterLevelPeriod (s : State) : State := nextPeriod (senseChannelsPeriod (soundChannelsPeriod (loopsPeriod s)))

section
variable {s : State}

theorem exec_levelPeriodEnd_before (before : s.engine.started = false) : exec .levelPeriodEnd s = .next s :=
  if_neg (ne_true_of_eq_false before)

theorem exec_levelPeriodEnd (started : s.engine.started = true) : exec .levelPeriodEnd s = .next (afterLevelPeriod s) :=
  if_pos started

end

section
variable (s : State)

theorem afterLevelPeriod_frame : afterLevelPeriod s = { s with
    level := (afterLevelPeriod s).level
    zoneUnit := { s.zoneUnit with loops := (afterLevelPeriod s).zoneUnit.loops }
    mail := { s.mail with
      hallLevels := (afterLevelPeriod s).mail.hallLevels, describerLevels := (afterLevelPeriod s).mail.describerLevels
      loopEvents := (afterLevelPeriod s).mail.loopEvents, offers := (afterLevelPeriod s).mail.offers } } := by
  have sound := soundChannelsPeriod_only (loopsPeriod s)
  have sense := senseChannelsPeriod_only (soundChannelsPeriod (loopsPeriod s))
  unfold OnlySound at sound
  unfold OnlySense at sense
  rw [afterLevelPeriod, sense, sound]
  rfl

theorem afterLevelPeriod_unlocked :
    (afterLevelPeriod s).level.unlocked = ⟨!s.engine.lanes.lane0.locked, !s.engine.lanes.lane1.locked⟩ := by
  have lanes : (senseChannelsPeriod (soundChannelsPeriod (loopsPeriod s))).engine = s.engine := by
    rw [senseChannelsPeriod, foldl_engine fun t l => sensePeriod_engine t l, soundChannelsPeriod,
      foldl_engine fun t c => soundPeriod_engine t c, loopsPeriod_engine]
  rw [← lanes]
  rfl

theorem afterLevelPeriod_loop (l : Fin 8) :
    (afterLevelPeriod s).zoneUnit.loops.get l = (s.zoneUnit.loops.get l).recover.countRecovery := by
  change (senseChannelsPeriod (soundChannelsPeriod (loopsPeriod s))).zoneUnit.loops.get l = _
  rw [(senseChannelsPeriod_only _).loops, (soundChannelsPeriod_only _).loops]
  exact Table.get_map _ _ _

theorem afterLevelPeriod_sound (c : Fin 6) : (afterLevelPeriod s).level.sound.get c = (soundOutcome s c).1 := by
  change (senseChannelsPeriod (soundChannelsPeriod (loopsPeriod s))).level.sound.get c = _
  rw [(senseChannelsPeriod_only _).sound, (soundChannelsPeriod_get _ c).1]
  rfl

theorem afterLevelPeriod_handed (c : Fin 6) :
    handedTurns (afterLevelPeriod s).mail c = handedTurns s.mail c ++ (soundOutcome s c).2.toList := by
  change handedTurns (senseChannelsPeriod (soundChannelsPeriod (loopsPeriod s))).mail c = _
  rw [(senseChannelsPeriod_only _).handed, (soundChannelsPeriod_get _ c).2]
  rfl

theorem afterLevelPeriod_offers :
    (afterLevelPeriod s).mail.offers = s.mail.offers ++ (finUpTo 6).flatMap (periodOffers s) := by
  change (senseChannelsPeriod (soundChannelsPeriod (loopsPeriod s))).mail.offers = _
  rw [(senseChannelsPeriod_only _).offers, soundChannelsPeriod, foldl_soundPeriod_offers _ (nodup_finUpTo 6)]
  rfl

theorem afterLevelPeriod_sense (l : Fin 8) :
    let e := senseEval (s.zoneUnit.loops.get l) (s.level.sense.get l)
    (afterLevelPeriod s).level.sense.get l = (s.level.sense.get l).afterPeriod e.1 ∧
      (afterLevelPeriod s).mail.loopEvents.get l = s.mail.loopEvents.get l ++ e.2 := by
  have only := soundChannelsPeriod_only (loopsPeriod s)
  have period := senseChannelsPeriod_get (soundChannelsPeriod (loopsPeriod s)) l
  have zone : (loopsPeriod s).zoneUnit.loops.get l = (s.zoneUnit.loops.get l).recover.countRecovery := Table.get_map _ _ _
  rw [only.loops, only.sense, only.loopEvents, zone, senseEval_countRecovery] at period
  exact period

end

/-! ## The rules -/

theorem levelPeriodSoundChannels_rule : Rules.LevelPeriodSoundChannels := by
  refine ⟨fun s before => exec_levelPeriodEnd_before before, fun s started => ?_⟩
  have turn : ∀ c, (soundOutcome s c).2.toList =
      if ((afterLevelPeriod s).level.sound.get c).state = (s.level.sound.get c).state then []
      else [((afterLevelPeriod s).level.sound.get c).state] := fun c => by
    rw [afterLevelPeriod_sound]
    exact SoundChannel.afterPeriod_turn _ _
  refine ⟨afterLevelPeriod s, exec_levelPeriodEnd started, afterLevelPeriod_unlocked s, afterLevelPeriod_frame s, fun c => ?_,
    ?_, ?_, ?_, fun d => ?_⟩
  · dsimp only
    rw [afterLevelPeriod_sound, soundOutcome]
    refine ⟨fun frozen => ?_, fun locked clean => ?_⟩
    · rw [not_evaluated_iff.mpr frozen]
      rfl
    · rw [evaluated_iff.mpr ⟨locked, clean⟩]
      refine ⟨fun quiet => ?_, fun sound => ?_⟩
      · rw [SoundChannel.afterPeriod_quiet quiet]
        refine ⟨fun low => ?_, fun high short => ?_, fun high long => ?_⟩
        · rw [if_neg (Nat.not_le.mpr low)]
        · rw [if_pos high, if_neg (Nat.not_le.mpr short)]
        · rw [if_pos high, if_pos long]
      · rw [SoundChannel.afterPeriod_sound sound]
        refine ⟨fun high => ?_, fun low short => ?_, fun low long => ?_⟩
        · rw [if_neg (Nat.not_lt.mpr high)]
        · rw [if_pos low, if_neg (Nat.not_le.mpr short)]
        · rw [if_pos low, if_pos long]
  · rw [afterLevelPeriod_offers]
    refine congrArg _ (List.flatMap_congr fun c _ => ?_)
    rw [periodOffers, turn]
    rfl
  · exact (afterLevelPeriod_handed s 0).trans (congrArg _ (turn 0))
  · exact (afterLevelPeriod_handed s 1).trans (congrArg _ (turn 1))
  · exact (afterLevelPeriod_handed s ⟨d.val + 2, by omega⟩).trans (congrArg _ (turn _))

theorem levelPeriodSenseChannels_rule : Rules.LevelPeriodSenseChannels := by
  intro s started
  refine ⟨afterLevelPeriod s, exec_levelPeriodEnd started, fun l => ?_⟩
  have after := afterLevelPeriod_sense s l
  have loop := afterLevelPeriod_loop s l
  dsimp only at after ⊢
  refine ⟨fun shut => ?_, fun driven flagged => ⟨fun silent => ?_, fun flowing => ?_⟩, fun driven clear => ?_, fun early => ?_,
    fun due => ?_⟩
  · rw [senseEval_shut shut] at after
    exact after
  · rw [senseEval_driven driven, flagged, openCheck_set_silent silent, Option.toList_none, List.append_nil] at after
    exact after
  · rw [senseEval_driven driven, flagged, openCheck_set_flowing flowing] at after
    exact after
  · rw [senseEval_driven driven, clear, openCheck_clear] at after
    refine ⟨fun fine => ?_, fun missing short => ?_, fun missing long => ?_⟩
    · rw [if_neg fine, Option.toList_none, List.append_nil] at after
      exact after
    · rw [if_pos missing, if_neg (Nat.not_le.mpr short), Option.toList_none, List.append_nil] at after
      exact after
    · rw [if_pos missing, if_pos long] at after
      exact after
  · rw [loop, LoopRecord.recover_early early, LoopRecord.countRecovery_early early]
  · exact loop.trans ((congrArg LoopRecord.countRecovery (LoopRecord.recover_due due)).trans
      (LoopRecord.countRecovery_early (Nat.zero_lt_succ 999)))

end Sys2Proof.Machine

namespace Sys2Proof

/-- Settles O23: no channel's period sees another's, so each is its own evaluation of the state before. -/
theorem levelPeriods : Obligations.LevelPeriods :=
  ⟨Machine.mixBlockPeaks_rule, Machine.levelPeriodSoundChannels_rule, Machine.levelPeriodSenseChannels_rule⟩

end Sys2Proof

/-! PROOFS. What the Admission unit works out after a change: the relay requests and the entrance lamps (R108, R109). -/

namespace Sys2Proof

/-- An entry set to what it is. -/
theorem Table.set_eq_self {α : Type} {n : Nat} {t : Table α n} {i : Fin n} {a : α} (same : t.get i = a) : t.set i a = t := by
  refine Table.ext fun j => ?_
  by_cases k : i = j
  · subst k; rw [Table.get_set_self, same]
  · exact Table.get_set_ne _ _ k

namespace Machine

/-! ## The state of a lamp (R109) -/

/-- Parties in some state stand at an entrance. -/
theorem standsAt_iff {u : AdmissionUnit} {e : Fin 12} {st : PartyState} :
    ((partiesAt u e).any fun q => q.state = st) = true ↔ ∃ q ∈ u.parties, q.entrance = e ∧ q.state = st := by
  simp only [partiesAt, List.any_eq_true, List.mem_filter, decide_eq_true_eq, and_assoc]

theorem any_closing_iff {w : Option Window} : w.any Window.closing = true ↔ ∃ v, w = some v ∧ v.closing = true := by
  cases w <;> simp

/-- The first lamp state that applies. -/
theorem lampState_eq (u : AdmissionUnit) (e : Fin 12) : lampState u e =
    if ((partiesAt u e).any fun q => q.state = .admitting) = true then
      if (u.windows.get (u.entrances.get e).settings.hall).any Window.closing = true then .closing else .admitting
    else if ((partiesAt u e).any fun q => q.state = .held) = true then .hold
    else if (u.entrances.get e).usherPending = true then .usher
    else .off := by
  unfold lampState
  dsimp only
  cases (partiesAt u e).any fun q => q.state = .admitting <;>
    cases u.windows.get (u.entrances.get e).settings.hall <;> simp

/-- A lamp state does not look at what was offered before. -/
theorem lampState_congr {u v : AdmissionUnit} {e : Fin 12} (parties : v.parties = u.parties) (windows : v.windows = u.windows)
    (settings : (v.entrances.get e).settings = (u.entrances.get e).settings)
    (usher : (v.entrances.get e).usherPending = (u.entrances.get e).usherPending) : lampState v e = lampState u e := by
  rw [lampState_eq, lampState_eq, settings, usher, windows]
  unfold partiesAt
  rw [parties]

/-! ## The lamps worked out -/

/-- What an entrance's lamp is told. -/
def lampTold (s : State) (e : Fin 12) : List LampMessage :=
  match (entranceOf s e).settings.lamp with
  | some l => if lampState s.admission e = (entranceOf s e).offered then [] else [.offer l (lampState s.admission e)]
  | none => []

/-- The lamps of some entrances worked out. -/
def lampsWorked (l : List (Fin 12)) (s : State) : State :=
  { s with
    admission := { s.admission with
      entrances := s.admission.entrances.mapIdx fun e x => if e ∈ l then { x with offered := lampState s.admission e } else x }
    mail := { s.mail with lamps := s.mail.lamps ++ l.flatMap (lampTold s) } }

theorem workLamp_eq (s : State) (e : Fin 12) : workLamp s e =
    { modifyEntrance e (fun x => { x with offered := lampState s.admission e }) s with
      mail := { s.mail with lamps := s.mail.lamps ++ lampTold s e } } := by
  unfold workLamp lampTold
  dsimp only
  split
  · next same =>
    have table :
        s.admission.entrances.modify e (fun x => { x with offered := lampState s.admission e }) = s.admission.entrances :=
      Table.set_eq_self (by rw [same]; rfl)
    cases (entranceOf s e).settings.lamp <;> simp only [modifyEntrance, setAdmission, table, List.append_nil]
  · cases (entranceOf s e).settings.lamp
    · simp only [List.append_nil]; rfl
    · rfl

theorem workLamp_entrance_self (s : State) (e : Fin 12) : (workLamp s e).admission.entrances.get e =
    { s.admission.entrances.get e with offered := lampState s.admission e } := by
  rw [workLamp_eq]
  exact Table.get_modify_self _ _ _

theorem workLamp_entrance_ne (s : State) {e x : Fin 12} (other : x ≠ e) :
    (workLamp s e).admission.entrances.get x = s.admission.entrances.get x := by
  rw [workLamp_eq]
  exact Table.get_modify_ne _ _ other.symm

theorem lampState_workLamp (s : State) (e x : Fin 12) : lampState (workLamp s e).admission x = lampState s.admission x := by
  have unseen := (workLamp_unseen s e).alike
  refine lampState_congr unseen.parties unseen.windows (unseen.settings x) ?_
  by_cases same : x = e
  · rw [same, workLamp_entrance_self]
  · rw [workLamp_entrance_ne s same]

theorem lampTold_workLamp (s : State) {e x : Fin 12} (other : x ≠ e) : lampTold (workLamp s e) x = lampTold s x := by
  unfold lampTold entranceOf
  rw [workLamp_entrance_ne s other, lampState_workLamp]

theorem foldl_workLamp {l : List (Fin 12)} (once : l.Nodup) (s : State) : l.foldl workLamp s = lampsWorked l s := by
  induction l generalizing s with
  | nil =>
    have table : (s.admission.entrances.mapIdx fun _ x => x) = s.admission.entrances := Table.ext fun i => Table.get_mapIdx _ _ i
    simp only [List.foldl_nil, lampsWorked, List.not_mem_nil, if_false, table, List.flatMap_nil, List.append_nil]
  | cons e l ih =>
    obtain ⟨new, once⟩ := List.nodup_cons.mp once
    have told : l.flatMap (lampTold (workLamp s e)) = l.flatMap (lampTold s) := List.flatMap_congr fun x member =>
      lampTold_workLamp s (ne_of_mem_of_not_mem member new)
    have table : ((workLamp s e).admission.entrances.mapIdx fun x r =>
          if x ∈ l then { r with offered := lampState s.admission x } else r) =
        s.admission.entrances.mapIdx fun x r => if x ∈ e :: l then { r with offered := lampState s.admission x } else r := by
      refine Table.ext fun x => ?_
      rw [Table.get_mapIdx, Table.get_mapIdx]
      by_cases same : x = e
      · rw [same, workLamp_entrance_self, if_neg new, if_pos List.mem_cons_self]
      · simp only [workLamp_entrance_ne s same, List.mem_cons, same, false_or]
    rw [List.foldl_cons, ih once]
    simp only [lampsWorked, lampState_workLamp, told, table]
    rw [workLamp_eq, List.flatMap_cons, ← List.append_assoc]
    rfl

/-- R109: every entrance's lamp state worked out, at once. -/
theorem workLamps_eq (s : State) : workLamps s =
    { s with
      admission := { s.admission with
        entrances := s.admission.entrances.mapIdx fun e x => { x with offered := lampState s.admission e } }
      mail := { s.mail with lamps := s.mail.lamps ++ (finUpTo 12).flatMap (lampTold s) } } := by
  unfold workLamps
  rw [foldl_workLamp (nodup_finUpTo 12)]
  simp only [lampsWorked, Table.mem_finUpTo, if_true]

theorem workLamps_entrance (s : State) (e : Fin 12) : (workLamps s).admission.entrances.get e =
    { s.admission.entrances.get e with offered := lampState s.admission e } := by
  rw [workLamps_eq]; exact Table.get_mapIdx _ _ _

@[simp] theorem workLamps_relay (s : State) : (workLamps s).admission.relay = s.admission.relay := by rw [workLamps_eq]

@[simp] theorem workLamps_relays (s : State) : (workLamps s).mail.relays = s.mail.relays := by rw [workLamps_eq]

theorem lampsWorkedOut_rule : Rules.LampsWorkedOut := by
  intro s
  dsimp only
  simp only [workLamps_entrance]
  refine ⟨?_, fun e => ⟨trivial, ?_⟩⟩
  · rw [workLamps_eq]
    rfl
  · rw [lampState_eq, ← standsAt_iff, ← standsAt_iff, ← any_closing_iff]
    refine ⟨fun admitting closing => ?_, fun admitting open_ => ?_, fun none held => ?_, fun none free => ?_⟩
    · rw [if_pos admitting, if_pos closing]
    · rw [if_pos admitting, if_neg open_]
    · rw [if_neg none, if_pos held]
    · rw [if_neg none, if_neg free]

/-! ## The relay requests (R108) -/

/-- The relay requests of some foyer zones worked out. -/
def relaysWorked (l : List (Fin 6)) (s : State) : State :=
  { s with
    admission := { s.admission with
      relay := s.admission.relay.mapIdx fun f h => if f ∈ l then waitingHall s.admission f else h }
    mail := { s.mail with relays := s.mail.relays ++
      (l.filter fun f => waitingHall s.admission f ≠ s.admission.relay.get f).map (fun f => ⟨f, waitingHall s.admission f⟩) } }

theorem workRelay_eq (s : State) (f : Fin 6) : workRelay s f =
    { s with
      admission := { s.admission with relay := s.admission.relay.set f (waitingHall s.admission f) }
      mail := { s.mail with
        relays := s.mail.relays ++ ([f].filter fun f => waitingHall s.admission f ≠ s.admission.relay.get f).map
          fun f => ⟨f, waitingHall s.admission f⟩ } } := by
  unfold workRelay
  dsimp only
  split
  · next same =>
    rw [List.filter_cons_of_neg (by simpa using same), List.filter_nil, List.map_nil, List.append_nil,
      Table.set_eq_self same.symm]
  · next differs => rw [List.filter_cons_of_pos (by simpa using differs), List.filter_nil, List.map_cons, List.map_nil]

theorem foldl_workRelay {l : List (Fin 6)} (once : l.Nodup) (s : State) : l.foldl workRelay s = relaysWorked l s := by
  induction l generalizing s with
  | nil =>
    have table : (s.admission.relay.mapIdx fun _ x => x) = s.admission.relay := Table.ext fun i => Table.get_mapIdx _ _ i
    simp only [List.foldl_nil, relaysWorked, List.not_mem_nil, if_false, table, List.filter_nil, List.map_nil, List.append_nil]
  | cons f l ih =>
    obtain ⟨new, once⟩ := List.nodup_cons.mp once
    have waiting : ∀ r x, waitingHall { s.admission with relay := r } x = waitingHall s.admission x := fun _ _ => rfl
    have table : ((s.admission.relay.set f (waitingHall s.admission f)).mapIdx fun x h =>
          if x ∈ l then waitingHall s.admission x else h) =
        s.admission.relay.mapIdx fun x h => if x ∈ f :: l then waitingHall s.admission x else h := by
      refine Table.ext fun x => ?_
      rw [Table.get_mapIdx, Table.get_mapIdx]
      by_cases same : x = f
      · rw [same, Table.get_set_self, if_neg new, if_pos List.mem_cons_self]
      · simp only [Table.get_set_ne _ _ (Ne.symm same), List.mem_cons, same, false_or]
    have differing : (l.filter fun x => waitingHall s.admission x ≠ (s.admission.relay.set f (waitingHall s.admission f)).get x) =
        l.filter fun x => waitingHall s.admission x ≠ s.admission.relay.get x := List.filter_congr fun x member => by
      rw [Table.get_set_ne _ _ (ne_of_mem_of_not_mem member new).symm]
    rw [List.foldl_cons, ih once, workRelay_eq]
    simp only [relaysWorked, waiting, table, differing]
    rw [List.append_assoc, ← List.map_append, ← List.filter_append]
    rfl

/-- R108: every relay request worked out, at once. -/
theorem workRelays_eq (s : State) : workRelays s =
    { s with
      admission := { s.admission with relay := s.admission.relay.mapIdx fun f _ => waitingHall s.admission f }
      mail := { s.mail with
        relays := s.mail.relays ++ ((finUpTo 6).filter fun f => waitingHall s.admission f ≠ s.admission.relay.get f).map
          fun f => ⟨f, waitingHall s.admission f⟩ } } := by
  unfold workRelays
  rw [foldl_workRelay (nodup_finUpTo 6)]
  simp only [relaysWorked, Table.mem_finUpTo, if_true]

theorem waitingHall_none {u : AdmissionUnit} {f : Fin 6}
    (nobody : ∀ q ∈ u.parties, (u.entrances.get q.entrance).settings.zone ≠ some f) : waitingHall u f = none := by
  have none : (u.parties.find? fun q => (u.entrances.get q.entrance).settings.zone = some f) = none :=
    List.find?_eq_none.mpr fun q member => by simpa using nobody q member
  simp only [waitingHall, none, Option.map_none]

theorem waitingHall_some {u : AdmissionUnit} {f : Fin 6} {h : Hall}
    (somebody : ∃ q ∈ u.parties, (u.entrances.get q.entrance).settings.zone = some f)
    (one : ∀ q ∈ u.parties, (u.entrances.get q.entrance).settings.zone = some f → q.hall = h) : waitingHall u f = some h := by
  obtain ⟨q, found⟩ := Option.isSome_iff_exists.mp
    ((List.find?_isSome (p := fun q : Party => (u.entrances.get q.entrance).settings.zone = some f)).mpr
      (by simpa using somebody))
  have waits : (u.entrances.get q.entrance).settings.zone = some f := by simpa using List.find?_some found
  simp only [waitingHall, found, Option.map_some, one q (List.mem_of_find?_eq_some found) waits]

theorem listChangeWorksRelaysAndLamps_rule : Rules.ListChangeWorksRelaysAndLamps := by
  intro s
  have unseen := (workLamps_unseen (workRelays s)).alike
  have relay : (listChanged s).admission.relay = s.admission.relay.mapIdx fun f _ => waitingHall s.admission f := by
    rw [listChanged, workLamps_relay, workRelays_eq]
  have relays : (listChanged s).mail.relays = s.mail.relays ++
      ((finUpTo 6).filter fun f => waitingHall s.admission f ≠ s.admission.relay.get f).map
        fun f => ⟨f, waitingHall s.admission f⟩ := by
    rw [listChanged, workLamps_relays, workRelays_eq]
  refine ⟨?_, ?_, fun f => ?_, fun f => ⟨waitingHall_none, fun h => waitingHall_some⟩, relays, ?_⟩
  · rw [listChanged, unseen.parties, workRelays_eq]
  · rw [listChanged, unseen.windows, workRelays_eq]
  · rw [relay, Table.get_mapIdx]
  · rw [relay, relays, ← workRelays_eq, listChanged]

end Machine

/-- Settles O36: lamp states do not look at one another, nor relay requests, so a fold of them is all of them at once. -/
theorem listChangeWorksRelaysAndLamps : Obligations.ListChangeWorksRelaysAndLamps :=
  ⟨Machine.lampsWorkedOut_rule, Machine.listChangeWorksRelaysAndLamps_rule⟩

end Sys2Proof

/-! PROOFS. Selection, parties that join, move and leave, and the requests that ask for it (R87, R88, R91, R93, R94, R105). -/

namespace Sys2Proof.Machine

/-! ## Selection (R105) -/

/-- The parties in some state at an entrance, in list order. -/
theorem partiesAt_filter (u : AdmissionUnit) (e : Fin 12) (st : PartyState) :
    ((partiesAt u e).filter fun q => q.state = st) = u.parties.filter fun q => q.entrance = e && q.state = st := by
  rw [partiesAt, List.filter_filter]
  exact List.filter_congr fun q _ => Bool.and_comm _ _

theorem selectionPass_shut {e : Fin 12} {s : State}
    (shut : s.admission.windows.get (s.admission.entrances.get e).settings.hall = none) :
    selectionPass e s = s := by
  simp only [selectionPass, windowOf, entranceOf, shut]

theorem selectionPass_open {e : Fin 12} {s : State} {w : Window}
    (open_ : s.admission.windows.get (s.admission.entrances.get e).settings.hall = some w) :
    selectionPass e s = workLamps (selectAt w e s) := by
  simp only [selectionPass, windowOf, entranceOf, open_]

theorem selectionPass_rule : Rules.SelectionPass := by
  refine ⟨seats_eq_sum, fun s e => ⟨selectionPass_shut, fun w open_ => ⟨fun interval => ?_, fun other => ?_⟩⟩⟩
  · rw [selectionPass_open open_, selectAt, if_pos interval]
    rfl
  · rw [selectionPass_open open_, selectAt, if_neg other, roomAt, admittingAt, partiesAt_filter]
    rfl

/-- The parties that a walk takes, the others HELD at its entrance, and where it stops. -/
theorem selectionStopsAtFirstMisfit_rule : Rules.SelectionStopsAtFirstMisfit := by
  intro e room l once
  dsimp only
  induction l generalizing room with
  | nil => exact ⟨[], [], rfl, Nat.zero_le _, fun q none => (by cases none), rfl⟩
  | cons y l ih =>
    obtain ⟨new, once⟩ := List.nodup_cons.mp once
    have other : ∀ x ∈ l, x ≠ y := fun x member same => new (same ▸ List.mem_map_of_mem member)
    by_cases held : y.entrance = e ∧ y.state = .held
    · have front : (y :: l).filter (fun q => q.entrance = e && q.state = .held) =
          y :: l.filter fun q => q.entrance = e && q.state = .held := List.filter_cons_of_pos (by simpa using held)
      rw [front, selectByRoom, if_pos held]
      by_cases fits : y.size ≤ room
      · obtain ⟨chosen, rest, parts, within, misfit, walk⟩ := ih (room - y.size) once
        refine ⟨y :: chosen, rest, by rw [parts]; rfl, by rw [seats_cons]; omega, fun q at_q => ?_, ?_⟩
        · have := misfit q at_q
          rw [seats_cons]; omega
        · rw [if_pos fits, walk, List.map_cons, if_pos List.mem_cons_self]
          refine congrArg _ (List.map_congr_left fun x member => ?_)
          simp only [List.mem_cons, other x member, false_or]
      · refine ⟨[], _, rfl, Nat.zero_le _, fun q at_q => ?_, ?_⟩
        · cases at_q
          rw [seats_nil]; omega
        · simp [fits]
    · have front : (y :: l).filter (fun q => q.entrance = e && q.state = .held) =
          l.filter fun q => q.entrance = e && q.state = .held := List.filter_cons_of_neg (by simpa using held)
      rw [front, selectByRoom, if_neg held]
      obtain ⟨chosen, rest, parts, within, misfit, walk⟩ := ih room once
      have notChosen : y ∉ chosen := fun member => by
        have : y ∈ l.filter fun q => q.entrance = e && q.state = .held := parts ▸ List.mem_append_left _ member
        exact held (by simpa using (List.mem_filter.mp this).2)
      refine ⟨chosen, rest, parts, within, misfit, ?_⟩
      rw [walk, List.map_cons, if_neg notChosen]

/-! ## Joining and leaving (R87, R88) -/

theorem nextNumber_range {n : Nat} (range : 1 ≤ n ∧ n ≤ 999) : 1 ≤ nextNumber n ∧ nextNumber n ≤ 999 := by
  unfold nextNumber; split <;> omega

theorem counterAt_zero {n : Nat} (range : 1 ≤ n ∧ n ≤ 999) : counterAt 999 n 0 = n := by unfold counterAt; omega

theorem counterAt_nextNumber {n : Nat} (range : 1 ≤ n ∧ n ≤ 999) (j : Nat) :
    counterAt 999 (nextNumber n) j = counterAt 999 n (j + 1) := by
  unfold counterAt nextNumber; split <;> omega

/-- R87: the number found is the first from the counter on that no party holds. -/
theorem freeNumber_first (l : List Party) (k n : Nat) (range : 1 ≤ n ∧ n ≤ 999) : ∃ i, freeNumber l k n = counterAt 999 n i ∧
    ∀ j, j < i → ∃ x ∈ l, x.number = counterAt 999 n j := by
  induction k generalizing n with
  | zero => exact ⟨0, (counterAt_zero range).symm, fun j h => absurd h (Nat.not_lt_zero j)⟩
  | succ k ih =>
    unfold freeNumber
    split
    · next taken =>
      obtain ⟨i, found, before⟩ := ih _ (nextNumber_range range)
      refine ⟨i + 1, found.trans (counterAt_nextNumber range i), fun j h => ?_⟩
      cases j with
      | zero => rw [counterAt_zero range]; simpa using taken
      | succ j => rw [← counterAt_nextNumber range]; exact before j (Nat.lt_of_succ_lt_succ h)
    · exact ⟨0, (counterAt_zero range).symm, fun j h => absurd h (Nat.not_lt_zero j)⟩

theorem partyJoins_rule : Rules.PartyJoins := by
  intro s e size origin access few low high
  have fresh := freeNumber_fresh s.admission.parties s.admission.counter ⟨low, high⟩ (by omega)
  have first := freeNumber_first s.admission.parties 999 s.admission.counter ⟨low, high⟩
  unfold addParty
  dsimp only
  generalize freeNumber s.admission.parties 999 s.admission.counter = n at fresh first ⊢
  obtain ⟨new, range⟩ := fresh
  exact ⟨range.1, range.2, fun x member same => new (List.mem_map.mpr ⟨x, member, same⟩), first, rfl⟩

theorem dropParty_filter (n : Nat) (l : List Party) :
    (l.filter fun q => q.number != n) = l.filter fun q => decide (q.number ≠ n) :=
  List.filter_congr fun q _ => by simp [bne, beq_eq_decide]

theorem partyDiscarded_rule : Rules.PartyDiscarded := by
  intro s q
  unfold discard dropParty
  rw [dropParty_filter]
  rfl

/-! ## Requests to the Admission unit -/

/-- A request that its unit accepts. -/
theorem Asks.answered {code : Byte} {p : Port} {s t : State} {ps pl : List Byte} {unit : List Byte → State → Answer} {a : Bool}
    (asks : Asks s p code ps) (does : unit ps (withoutRequest p s) = accept a pl t) :
    takeRequest code p s unit = .next (answer p (done a) pl t) := by
  rw [takeRequest_waiting unit asks, does]
  rfl

theorem clampNat_eq {lo hi : Nat} (h : lo ≤ hi) (n : Nat) : clampNat lo hi n = (max lo (min hi n), decide (n < lo ∨ hi < n)) :=
  Prod.ext (clampNat_fst h) (Bool.eq_iff_iff.mpr (clampNat_snd.trans decide_eq_true_iff.symm))

theorem entranceAt_none {ps : List Byte} {i : Nat} (high : 11 < natAt ps i) : entranceAt ps i = none :=
  finUpTo_eq_none_iff.mpr high

theorem entranceAt_some {ps : List Byte} {i : Nat} {e : Fin 12} (byte : natAt ps i = e.val) : entranceAt ps i = some e :=
  finUpTo_eq_some_iff.mpr byte

theorem toNat_byteOf_entrance (e : Fin 12) : (byteOf e.val).toNat = e.val := toNat_byteOf (by omega)

/-- Parties may wait in the other phases than DARK, OPEN and ENDED. -/
theorem mayWait_iff {p : Phase} : mayWait p = true ↔ ¬(p = .dark ∨ p = .opened ∨ p = .ended) := by cases p <;> simp [mayWait]

theorem mayWait_eq_false_iff {p : Phase} : mayWait p = false ↔ p = .dark ∨ p = .opened ∨ p = .ended := by
  rw [Bool.eq_false_iff, Ne, mayWait_iff, not_not]

theorem needsSteps_iff {access stepFree : Bool} : (access && !stepFree) = true ↔ access = true ∧ stepFree = false := by simp

/-! ## PARTY_ADD (R91) -/

/-- A byte that names no entrance, or an access byte that is no code. -/
theorem partyAdd_badByte {ps : List Byte} (bad : 11 < natAt ps 0 ∨ 1 < natAt ps 2) (s : State) :
    partyAdd ps s = refuse .range s := by
  unfold partyAdd
  rcases bad with entrance | access
  · rw [entranceAt_none entrance]
  · rw [nameAt_flag_none access]
    cases entranceAt ps 0 <;> rfl

/-- R91: a party that may not be: nobody, or one with access at an entrance that is not step-free. -/
abbrev BadParty (size : Nat) (access : Bool) (e : Fin 12) (s : State) : Prop :=
  size = 0 ∨ (access = true ∧ (entranceOf s e).settings.stepFree = false)

section
variable {ps : List Byte} {e : Fin 12} {access : Bool} {s : State} (entrance : entranceAt ps 0 = some e)
  (flag : nameAt flagNames ps 2 = some access)
include entrance flag

theorem partyAdd_range (bad : BadParty (natAt ps 1) access e s) : partyAdd ps s = refuse .range s := by
  simp only [partyAdd, entrance, flag]
  by_cases nobody : natAt ps 1 = 0
  · rw [if_pos nobody]
  · rw [if_neg nobody, if_pos (needsSteps_iff.mpr (bad.resolve_left nobody))]

variable (good : ¬BadParty (natAt ps 1) access e s)
include good

theorem partyAdd_state (closed : mayWait (viewOf s e) = false) : partyAdd ps s = refuse .state s := by
  obtain ⟨nobody, steps⟩ := not_or.mp good
  simp only [partyAdd, entrance, flag]
  rw [if_neg nobody, if_neg (needsSteps_iff.not.mpr steps), closed]
  rfl

variable (waits : mayWait (viewOf s e) = true)
include waits

theorem partyAdd_full (full : partyLimit ≤ s.admission.parties.length) : partyAdd ps s = refuse .full s := by
  obtain ⟨nobody, steps⟩ := not_or.mp good
  simp only [partyAdd, entrance, flag]
  rw [if_neg nobody, if_neg (needsSteps_iff.not.mpr steps), waits, if_neg (by decide), if_pos full]

/-- R91: a party taken: it joins with at most eight seats, and the reply gives its number and its state after the pass. -/
theorem partyAdd_taken (room : s.admission.parties.length < partyLimit) :
    let a := addParty e (min 8 (natAt ps 1)) .port access s
    ∃ state, partyAdd ps s = accept (decide (8 < natAt ps 1)) (bytes2 a.1 ++ [state]) a.2 ∧
      ∀ q, findParty a.2 a.1 = some q → state = nameByte partyStateNames q.state := by
  intro a
  obtain ⟨nobody, steps⟩ := not_or.mp good
  have size : clampNat 1 8 (natAt ps 1) = (min 8 (natAt ps 1), decide (8 < natAt ps 1)) := by
    rw [clampNat_eq (by decide)]
    exact Prod.ext (max_eq_right (by omega)) (decide_eq_decide.mpr (by omega))
  simp only [partyAdd, entrance, flag]
  rw [if_neg nobody, if_neg (needsSteps_iff.not.mpr steps), waits, if_neg (by decide), if_neg (Nat.not_le.mpr room), size]
  refine ⟨_, rfl, fun q found => ?_⟩
  rw [show findParty _ _ = _ from found]
  rfl

end

/-! ## PARTY_REMOVE and PARTY_MOVE (R93, R94) -/

section
variable {ps : List Byte} {q : Party} {s : State} (found : findParty s (wordAt ps 0) = some q)
include found

theorem partyRemove_found : partyRemove ps s =
    accept false [] (if q.state = .admitting then selectionPass q.entrance (discard s q) else discard s q) := by
  simp only [partyRemove, found]

theorem partyMove_noEntrance (high : 11 < natAt ps 2) : partyMove ps s = refuse .range s := by
  simp only [partyMove, found, entranceAt_none high]

variable {e : Fin 12} (entrance : entranceAt ps 2 = some e)
include entrance

/-- R94: an entrance that a party may not move to. -/
abbrev BadEntrance (q : Party) (e : Fin 12) (s : State) : Prop :=
  (entranceOf s e).settings.hall ≠ q.hall ∨
    (q.access = true ∧ (entranceOf s e).settings.stepFree = false)

theorem partyMove_range (bad : BadEntrance q e s) : partyMove ps s = refuse .range s := by
  simp only [partyMove, found, entrance]
  by_cases hall : (entranceOf s e).settings.hall = q.hall
  · rw [if_neg (not_not_intro hall), if_pos (needsSteps_iff.mpr (bad.resolve_left (not_not_intro hall)))]
  · rw [if_pos hall]

variable (good : ¬BadEntrance q e s)
include good

theorem partyMove_state (during : q.state = .admitting ∨ windowOf s q.hall ≠ none) :
    partyMove ps s = refuse .state s := by
  obtain ⟨hall, steps⟩ := not_or.mp good
  simp only [partyMove, found, entrance]
  rw [if_neg hall, if_neg (needsSteps_iff.not.mpr steps)]
  by_cases admitting : q.state = .admitting
  · rw [if_pos admitting]
  · rw [if_neg admitting, if_pos (Option.isSome_iff_ne_none.mpr (during.resolve_left admitting))]

variable (idle : ¬(q.state = .admitting ∨ windowOf s q.hall ≠ none))
include idle

theorem partyMove_stays (same : q.entrance = e) : partyMove ps s = accept false [] s := by
  obtain ⟨hall, steps⟩ := not_or.mp good
  obtain ⟨held, shut⟩ := not_or.mp idle
  simp only [partyMove, found, entrance]
  rw [if_neg hall, if_neg (needsSteps_iff.not.mpr steps), if_neg held, if_neg (Option.isSome_iff_ne_none.not.mpr shut),
    if_pos same.symm]

theorem partyMove_moves (other : q.entrance ≠ e) : partyMove ps s =
    accept false [] (listChanged (partyNotice q.number .moved (setParties
      (s.admission.parties.map fun x => if x.number = q.number then { x with entrance := e } else x) s))) := by
  obtain ⟨hall, steps⟩ := not_or.mp good
  obtain ⟨held, shut⟩ := not_or.mp idle
  simp only [partyMove, found, entrance]
  rw [if_neg hall, if_neg (needsSteps_iff.not.mpr steps), if_neg held, if_neg (Option.isSome_iff_ne_none.not.mpr shut),
    if_neg (Ne.symm other)]

end

section
variable {ps : List Byte} {s : State} (absent : findParty s (wordAt ps 0) = none)
include absent

theorem partyRemove_absent : partyRemove ps s = refuse .notFound s := by simp only [partyRemove, absent]

theorem partyMove_absent : partyMove ps s = refuse .notFound s := by simp only [partyMove, absent]

end

theorem partyRequests_rule : Rules.PartyRequests := by
  intro s p
  refine ⟨fun b size access asks bad => asks.refused (partyAdd_badByte (ps := [b, size, access]) bad _),
    fun hi lo b asks high => ⟨fun absent => asks.refused (partyMove_absent absent), fun present => ?_⟩,
    fun e => ⟨fun size access asks => ?_,
      fun hi lo asks => ⟨fun absent => asks.refused (partyRemove_absent absent), fun q found => ?_⟩,
      fun hi lo asks => ⟨fun absent => asks.refused (partyMove_absent absent), fun q found => ?_⟩⟩⟩
  · obtain ⟨q, found⟩ := Option.ne_none_iff_exists'.mp present
    exact asks.refused (partyMove_noEntrance found high)
  · have entrance : entranceAt [byteOf e.val, size, flagByte access] 0 = some e := entranceAt_some (toNat_byteOf_entrance e)
    have flag : nameAt flagNames [byteOf e.val, size, flagByte access] 2 = some access := nameAt_flag rfl
    refine ⟨fun bad => asks.refused (partyAdd_range entrance flag bad), fun good closed => ?_, fun good waits full => ?_,
      fun good waits room => ?_⟩
    · exact asks.refused (partyAdd_state entrance flag good (mayWait_eq_false_iff.mpr closed))
    · exact asks.refused (partyAdd_full entrance flag good (mayWait_iff.mpr waits) full)
    · obtain ⟨state, taken, after⟩ := partyAdd_taken (s := withoutRequest p s) entrance flag good (mayWait_iff.mpr waits) room
      exact ⟨state, asks.answered taken, after⟩
  · exact asks.answered (partyRemove_found found)
  · have entrance : entranceAt [hi, lo, byteOf e.val] 2 = some e := entranceAt_some (toNat_byteOf_entrance e)
    refine ⟨fun bad => asks.refused (partyMove_range found entrance bad),
      fun good during => asks.refused (partyMove_state found entrance good during), fun good idle same => ?_,
      fun good idle other => ?_⟩
    · exact asks.reported (partyMove_stays found entrance good idle same)
    · have moves := partyMove_moves (ps := [hi, lo, byteOf e.val]) (s := withoutRequest p s) found entrance good idle other
      exact asks.answered moves

end Sys2Proof.Machine

namespace Sys2Proof

/-- Settles O40, by the tests of each request in order and by induction along the list that a selection pass walks. -/
theorem parties : Obligations.Parties :=
  ⟨Machine.partyRequests_rule, Machine.partyJoins_rule, Machine.partyDiscarded_rule, Machine.selectionPass_rule,
    Machine.selectionStopsAtFirstMisfit_rule⟩

end Sys2Proof

/-! PROOFS. The admission windows: their notices, how one opens, closes and is re-timed, and the requests and times that do it
(R96–R104, R107). -/

namespace Sys2Proof.Machine

/-! ## Notices (R88, R89, R96, R109) -/

theorem admissionNotices_rule : Rules.AdmissionNotices := by
  intro s
  refine ⟨fun n change => by cases change <;> rfl, fun h cause change => by cases cause <;> cases change <;> rfl,
    fun h before w => ?_, fun e => ⟨fun dark => ?_, fun l lamp => ?_⟩⟩
  · unfold closingNotice
    cases w.closing <;> cases before <;> rfl
  · simp only [refuseLamp, entranceOf, dark]
  · simp only [refuseLamp, entranceOf, lamp]
    rfl

/-- A WINDOW notice as the Notice unit is offered it. -/
def windowOffer (h : Hall) (cause : WindowCause) (change : Nat) (now : Clock) : Offer :=
  ⟨1, hallByte h, byteOf (8 * nameCode windowCauseNames cause + change), now, ⟨true, true, true⟩, none⟩

/-- R96: the notice of a change, and CLOSING after it where the change made the window enter it. -/
theorem closingNotice_windowNotice (h : Hall) (cause : WindowCause) (change : WindowChange) (before : Bool) (w : Window)
    (s : State) : closingNotice h before w (windowNotice h cause change s) =
      { s with mail := { s.mail with offers := s.mail.offers ++ windowOffer h cause change.code s.clock ::
        if w.closing ∧ before = false then [windowOffer h w.cause 2 s.clock] else [] } } := by
  have both : (s.mail.offers ++ [windowOffer h cause change.code s.clock]) ++ [windowOffer h w.cause 2 s.clock] =
      s.mail.offers ++ [windowOffer h cause change.code s.clock, windowOffer h w.cause 2 s.clock] := List.append_assoc _ _ _
  unfold closingNotice
  cases w.closing <;> cases before
  · rfl
  · rfl
  · simp only [and_self, if_true]
    rw [← both]
    rfl
  · rfl

/-! ## Who gained a place in a pass (R105, R107) -/

/-- A list after passes: each party as it stood, or ADMITTING. -/
abbrev Passed (l m : List Party) : Prop := List.Forall₂ (fun q r => r = q ∨ r = { q with state := .admitting }) l m

theorem Passed.refl (l : List Party) : Passed l l := List.forall₂_same.mpr fun _ _ => .inl rfl

theorem Passed.trans {l m n : List Party} (a : Passed l m) (b : Passed m n) : Passed l n := by
  induction a generalizing n with
  | nil => exact b
  | cons first _ ih =>
    cases b with
    | cons second rest =>
      refine .cons ?_ (ih rest)
      rcases first with rfl | rfl
      · exact second
      · exact .inr (second.elim id id)

theorem passed_selectAll (e : Fin 12) (l : List Party) : Passed l (selectAll e l) := by
  refine List.forall₂_map_right_iff.mpr (List.forall₂_same.mpr fun q _ => ?_)
  split
  · exact .inr rfl
  · exact .inl rfl

theorem passed_selectByRoom (e : Fin 12) (room : Nat) (l : List Party) : Passed l (selectByRoom e room l) := by
  induction l generalizing room with
  | nil => exact .nil
  | cons q l ih =>
    unfold selectByRoom
    split
    · split
      · exact .cons (.inr rfl) (ih _)
      · exact .refl _
    · exact .cons (.inl rfl) (ih _)

/-- An entrance gained an ADMITTING party between two lists. -/
def Gained (e : Fin 12) (l m : List Party) : Prop :=
  ∃ (i : Nat) (q : Party), l[i]? = some q ∧ q.entrance = e ∧ q.state = .held ∧ (m[i]?).map Party.state = some .admitting

theorem gained_cons {e : Fin 12} {q r : Party} {l m : List Party} : Gained e (q :: l) (r :: m) ↔
    (q.entrance = e ∧ q.state = .held ∧ r.state = .admitting) ∨ Gained e l m := by
  constructor
  · rintro ⟨i, x, at_i, here, held, after⟩
    cases i with
    | zero => cases at_i; exact .inl ⟨here, held, Option.some.inj after⟩
    | succ i => exact .inr ⟨i, x, at_i, here, held, after⟩
  · rintro (⟨here, held, after⟩ | ⟨i, x, at_i, here, held, after⟩)
    · exact ⟨0, q, rfl, here, held, congrArg some after⟩
    · exact ⟨i + 1, x, at_i, here, held, after⟩

theorem Passed.admitting_length_le {l m : List Party} (passed : Passed l m) (e : Fin 12) :
    (admittingIn e l).length ≤ (admittingIn e m).length := by
  induction passed with
  | nil => exact le_rfl
  | @cons q r l m step _ ih =>
    rw [admittingIn_cons, admittingIn_cons]
    by_cases was : q.entrance = e ∧ q.state = .admitting
    · have still : r.entrance = e ∧ r.state = .admitting := by rcases step with rfl | rfl <;> [exact was; exact ⟨was.1, rfl⟩]
      rw [if_pos was, if_pos still]
      exact Nat.succ_le_succ ih
    · rw [if_neg was]
      split
      · exact Nat.le_succ_of_le ih
      · exact ih

/-- R107: the ADMITTING parties of an entrance differ after passes exactly where it gained one. -/
theorem Passed.gained_iff {l m : List Party} (passed : Passed l m) (e : Fin 12) :
    admittingIn e l ≠ admittingIn e m ↔ Gained e l m := by
  induction passed with
  | nil => exact ⟨fun differ => absurd rfl differ, fun ⟨_, _, at_i, _⟩ => by cases at_i⟩
  | @cons q r l m step passed ih =>
    rw [gained_cons, admittingIn_cons, admittingIn_cons, ← ih]
    by_cases gains : q.entrance = e ∧ q.state = .held ∧ r.state = .admitting
    · obtain ⟨here, held, after⟩ := gains
      have entrance : r.entrance = e := by rcases step with rfl | rfl <;> exact here
      rw [if_neg (by simp [held]), if_pos ⟨entrance, after⟩]
      have longer : (admittingIn e l).length < (r :: admittingIn e m).length :=
        Nat.lt_succ_of_le (Passed.admitting_length_le passed e)
      exact ⟨fun _ => .inl ⟨here, held, after⟩, fun _ same => absurd (congrArg List.length same) (Nat.ne_of_lt longer)⟩
    · have same : (q.entrance = e ∧ q.state = .admitting) ∨ (r.entrance = e ∧ r.state = .admitting) → r = q := by
        rcases step with same | rfl
        · exact fun _ => same
        · intro counts
          have here : q.entrance = e := counts.elim And.left And.left
          have admitting : q.state = .admitting := by
            cases held : q.state
            · exact absurd ⟨here, held, rfl⟩ gains
            · rfl
          rw [← admitting]
      rw [or_iff_right gains]
      by_cases counts : q.entrance = e ∧ q.state = .admitting
      · rw [same (.inl counts), if_pos counts, if_pos counts, Ne, List.cons_inj_right]
      · rw [if_neg counts, if_neg fun counted => counts (same (.inr counted) ▸ counted)]

/-! ## The passes of a window that opens (R97, R105) -/

/-- The list that a pass at an entrance leaves where nobody has been seated in the window. -/
def passedAt (u : AdmissionUnit) (cause : WindowCause) (l : List Party) (e : Fin 12) : List Party :=
  if cause = .interval then selectAll e l
  else selectByRoom e ((u.entrances.get e).settings.quota - seats (l.filter fun q => q.entrance = e && q.state = .admitting)) l

/-- The list that the passes at all entrances of a hall leave. -/
def passedList (u : AdmissionUnit) (h : Hall) (cause : WindowCause) : List Party :=
  ((finUpTo 12).filter fun e => (u.entrances.get e).settings.hall = h).foldl (passedAt u cause) u.parties

theorem passed_foldl_passedAt (u : AdmissionUnit) (cause : WindowCause) (es : List (Fin 12)) (l : List Party) :
    Passed l (es.foldl (passedAt u cause) l) := by
  induction es generalizing l with
  | nil => exact .refl l
  | cons e es ih =>
    refine Passed.trans ?_ (ih _)
    unfold passedAt
    split
    · exact passed_selectAll e l
    · exact passed_selectByRoom e _ l

theorem passed_passedList (u : AdmissionUnit) (h : Hall) (cause : WindowCause) : Passed u.parties (passedList u h cause) :=
  passed_foldl_passedAt u cause _ _

theorem selected_openedUnit {u : AdmissionUnit} {h : Hall} {w : Window} {e : Fin 12}
    (hall : (u.entrances.get e).settings.hall = h) (l : List Party) :
    selected { openedUnit u h w with parties := l } w e = passedAt u w.cause l e := by
  have entrance : (openedUnit u h w).entrances.get e = { u.entrances.get e with admitted := 0 } := by
    rw [openedUnit, Table.get_map, if_pos hall]
  have room : roomAt { openedUnit u h w with parties := l } e =
      (u.entrances.get e).settings.quota - seats (l.filter fun q => q.entrance = e && q.state = .admitting) := by
    rw [roomAt, admittingAt, partiesAt_filter]
    dsimp only
    rw [entrance, Nat.sub_zero]
  rw [selected, room]
  rfl

theorem foldl_selectAt {u : AdmissionUnit} {h : Hall} {w : Window} {es : List (Fin 12)}
    (hall : ∀ e ∈ es, (u.entrances.get e).settings.hall = h) (l : List Party) {s : State}
    (opened : s.admission = { openedUnit u h w with parties := l }) :
    es.foldl (fun t e => selectAt w e t) s = setParties (es.foldl (passedAt u w.cause) l) s := by
  induction es generalizing l s with
  | nil =>
    have parties : s.admission.parties = l := by rw [opened]
    rw [List.foldl_nil, List.foldl_nil, ← parties]
    rfl
  | cons e es ih =>
    have first : selectAt w e s = setParties (passedAt u w.cause l e) s := by
      rw [← selected_openedUnit (w := w) (hall e List.mem_cons_self), ← opened]
      rfl
    have next : (setParties (passedAt u w.cause l e) s).admission =
        { openedUnit u h w with parties := passedAt u w.cause l e } := by
      rw [setParties_admission, opened]
    rw [List.foldl_cons, first, ih (fun x member => hall x (List.mem_cons_of_mem _ member)) _ next]
    rfl

/-! ## Opening (R97, R107) -/

/-- R97: the state with a window opened and its passes done, before the admission call and the notices. -/
def openedState (h : Hall) (w : Window) (s : State) : State :=
  setAdmission { openedUnit s.admission h w with parties := passedList s.admission h w.cause } s

theorem passes_eq (h : Hall) (w : Window) (s : State) :
    (entrancesOfHall (zeroCounts h (setWindow h (some w) s)) h).foldl (fun t e => selectAt w e t)
      (zeroCounts h (setWindow h (some w) s)) = openedState h w s := by
  have entrances : entrancesOfHall (zeroCounts h (setWindow h (some w) s)) h =
      (finUpTo 12).filter fun e => (s.admission.entrances.get e).settings.hall = h := List.filter_congr fun e _ =>
    congrArg (fun v : EntranceSettings => decide (v.hall = h)) (openedUnit_settings s.admission h w e)
  rw [entrances, foldl_selectAt (u := s.admission) (h := h) (fun e member => of_decide_eq_true (List.mem_filter.mp member).2)
    s.admission.parties rfl]
  rfl

/-- R107: the holding zones of the entrances of a hall that gained an ADMITTING party as a window opened. -/
theorem zoneIn_gainedZones (h : Hall) (w : Window) (s : State) (z : ZoneNo) :
    zoneIn z (gainedZones (zeroCounts h (setWindow h (some w) s)) (openedState h w s) h) = true ↔
      ∃ e f, (s.admission.entrances.get e).settings.hall = h ∧ (s.admission.entrances.get e).settings.zone = some f ∧
        z = foyerZone f ∧ Gained e s.admission.parties (passedList s.admission h w.cause) := by
  have settings : ∀ e, (entranceOf (openedState h w s) e).settings = (s.admission.entrances.get e).settings :=
    openedUnit_settings s.admission h w
  have gains : ∀ e, (admittingAt (zeroCounts h (setWindow h (some w) s)).admission e !=
      admittingAt (openedState h w s).admission e) = true ↔
        Gained e s.admission.parties (passedList s.admission h w.cause) := fun e =>
    bne_iff_ne.trans (Passed.gained_iff (passed_passedList s.admission h w.cause) e)
  simp only [gainedZones, zoneIn_zoneSetOf, List.any_eq_true, List.mem_filter, entrancesOfHall, Table.mem_finUpTo, true_and,
    decide_eq_true_eq, settings, gains, Option.map_eq_some_iff, eq_comm (a := z)]
  constructor
  · rintro ⟨e, ⟨hall, gained⟩, f, zone, at_z⟩
    exact ⟨e, f, hall, zone, at_z, gained⟩
  · rintro ⟨e, f, hall, zone, at_z, gained⟩
    exact ⟨e, ⟨hall, gained⟩, f, zone, at_z⟩

/-- R107: the admission call of a window, where there is one. -/
def admissionCalls (h : Hall) (w : Window) (targets : ZoneSet) (s : State) : List AdmissionOrder :=
  match w.deadline, (hallSettingsOf s h).phrase with
  | some d, some n => if targets = 0 then [] else [.submit (admissionCall h n targets d.close)]
  | _, _ => []

theorem submitAdmissionCall_eq (h : Hall) (w : Window) (targets : ZoneSet) (s : State) : submitAdmissionCall h w targets s =
    { s with mail := { s.mail with admissionToCall := s.mail.admissionToCall ++ admissionCalls h w targets s } } := by
  have idle : s = { s with mail := { s.mail with admissionToCall := s.mail.admissionToCall ++ [] } } := by rw [List.append_nil]
  unfold submitAdmissionCall admissionCalls
  cases w.deadline <;> cases (hallSettingsOf s h).phrase
  · exact idle
  · exact idle
  · exact idle
  · dsimp only
    split
    · exact idle
    · rfl

theorem admissionCalls_made {h : Hall} {w : Window} {targets : ZoneSet} {s : State} {d : Deadline} {n : Nat}
    (deadline : w.deadline = some d) (phrase : (hallSettingsOf s h).phrase = some n) (named : targets ≠ 0) :
    admissionCalls h w targets s = [.submit (admissionCall h n targets d.close)] := by
  simp only [admissionCalls, deadline, phrase]
  rw [if_neg named]

theorem admissionCalls_none {h : Hall} {w : Window} {targets : ZoneSet} {s : State}
    (silent : w.deadline = none ∨ (hallSettingsOf s h).phrase = none ∨ targets = 0) : admissionCalls h w targets s = [] := by
  unfold admissionCalls
  rcases silent with endless | mute | nobody
  · rw [endless]
  · rw [mute]
    cases w.deadline <;> rfl
  · cases w.deadline <;> cases (hallSettingsOf s h).phrase
    · rfl
    · rfl
    · rfl
    · exact if_pos nobody

theorem isClosing_iff {now : Clock} {d : Deadline} : isClosing now d = true ↔ reached now d.warn = true ∧ d.warn ≠ d.close := by
  rw [isClosing, Bool.and_eq_true, bne_iff_ne]

/-- R97: a window opened, with its admission call, its notices and what follows a change to the list. -/
theorem openWindow_eq (h : Hall) (cause : WindowCause) (length : Option Nat) (s : State) :
    let w := newWindow s h cause length
    let targets := gainedZones (zeroCounts h (setWindow h (some w) s)) (openedState h w s) h
    openWindow h cause length s = listChanged { openedState h w s with
      mail := { s.mail with
        admissionToCall := s.mail.admissionToCall ++ admissionCalls h w targets s
        offers := s.mail.offers ++ windowOffer h cause 0 s.clock ::
          if w.closing then [windowOffer h cause 2 s.clock] else [] } } := by
  intro w targets
  unfold openWindow
  dsimp only
  rw [passes_eq, submitAdmissionCall_eq, closingNotice_windowNotice]
  simp only [and_true]
  rfl

theorem windowOpens_rule : Rules.WindowOpens := by
  intro s h cause length
  refine ⟨newWindow s h cause length, _, _, rfl, rfl, rfl, fun endless => ?_, fun n timed => ?_,
    fun z => zoneIn_gainedZones h (newWindow s h cause length) s z, fun d n deadline phrase named => ?_, fun silent => ?_,
    openWindow_eq h cause length s⟩
  · subst endless
    exact ⟨rfl, rfl⟩
  · subst timed
    exact ⟨rfl, isClosing_iff⟩
  · exact admissionCalls_made deadline phrase named
  · exact admissionCalls_none silent

/-! ## Closing and re-timing (R98, R100) -/

theorem closeWindow_open {h : Hall} {w : Window} {s : State} (hw : windowOf s h = some w) :
    closeWindow h s = workLamps (windowNotice h w.cause .closed (orderAdmissionCall (.cancel h) (closedState h s))) := by
  simp only [closeWindow, hw]
  rfl

theorem windowCloses_rule : Rules.WindowCloses := fun _ _ =>
  ⟨closeWindow_none, fun _ open_ => closeWindow_open open_⟩

theorem windowRetimes_rule : Rules.WindowRetimes := by
  intro s h w _
  unfold retimeWindow
  dsimp only
  rw [closingNotice_windowNotice]
  rfl

end Sys2Proof.Machine

namespace Sys2Proof

/-- Settles O37: passes only make parties ADMITTING, so an entrance gained one exactly where its ADMITTING parties differ. -/
theorem windows : Obligations.Windows :=
  ⟨Machine.windowOpens_rule, Machine.windowCloses_rule, Machine.windowRetimes_rule⟩

end Sys2Proof

/-! PROOFS. The times and the requests of admission windows, and the phase events of the Admission unit (R85, R99, R101–R104). -/

namespace Sys2Proof.Machine

/-! ## Times (R101) -/

theorem windowWarn_due {h : Hall} {w : Window} {d : Deadline} {s : State} (hw : windowOf s h = some w)
    (timed : w.deadline = some d) (open_ : w.closing = false) (due : isClosing s.clock d = true) : exec (.windowWarn h) s =
      .next (workLamps (windowNotice h w.cause .closing (setWindow h (some { w with closing := true }) s))) := by
  show execWindowWarn h s = _
  simp only [execWindowWarn, hw, timed, open_, Option.any_some, due, Bool.not_false, Bool.and_self, if_true]

theorem windowDeadline_due {h : Hall} {w : Window} {d : Deadline} {s : State} (hw : windowOf s h = some w)
    (timed : w.deadline = some d) (due : reached s.clock d.close = true) :
    exec (.windowDeadline h) s = .next (closeWindow h s) := by
  show execWindowDeadline h s = _
  simp only [execWindowDeadline, hw, timed, Option.any_some, due, if_true]

/-! ## ADMIT_NOW (R102) -/

/-- R102: the phases in which ADMIT_NOW opens a window. -/
abbrev AdmitsNow (p : Phase) : Prop := p = .playing ∨ p = .gap ∨ p = .onBreak

theorem admitsNow_iff {p : Phase} :
    (decide (p = .playing) || decide (p = .gap) || decide (p = .onBreak)) = true ↔ AdmitsNow p := by
  rw [Bool.or_eq_true, Bool.or_eq_true, decide_eq_true_iff, decide_eq_true_iff, decide_eq_true_iff, or_assoc]

theorem notNow_iff {w : Option Window} {p : Phase} :
    (w.isSome || !(decide (p = .playing) || decide (p = .gap) || decide (p = .onBreak))) = true ↔ w ≠ none ∨ ¬AdmitsNow p := by
  rw [Bool.or_eq_true, Option.isSome_iff_ne_none, Bool.not_eq_true', Bool.eq_false_iff, ← admitsNow_iff]

section
variable {ps : List Byte} {h : Hall} {s : State} (named : nameAt hallNames ps 0 = some h)
include named

theorem admitNow_state (out : windowOf s h ≠ none ∨ ¬AdmitsNow (s.admission.view.get h)) : admitNow ps s = refuse .state s := by
  simp only [admitNow, named]
  exact if_pos (notNow_iff.mpr out)

theorem admitNow_opens (shut : windowOf s h = none) (now : AdmitsNow (s.admission.view.get h)) :
    let n := max 10 (min 300 (wordAt ps 1))
    admitNow ps s = accept (decide (wordAt ps 1 < 10 ∨ 300 < wordAt ps 1))
      (bytes4 s.clock.toNat ++ bytes4 (s.clock + BitVec.ofNat 32 (10 * n)).toNat) (openWindow h .manual (some n) s) := by
  simp only [admitNow, named]
  rw [if_neg (notNow_iff.not.mpr (not_or.mpr ⟨not_not_intro shut, not_not_intro now⟩)), clampNat_eq (by decide)]
  rfl

/-! ## ADMIT_EXTEND and ADMIT_CLOSE (R103, R104) -/

theorem admitExtend_shut (shut : windowOf s h = none) : admitExtend ps s = refuse .state s := by
  simp only [admitExtend, named, shut]

theorem admitExtend_fixed {w : Window} (hw : windowOf s h = some w) (fixed : w.cause = .interval ∨ w.extended = true) :
    admitExtend ps s = refuse .state s := by
  simp only [admitExtend, named, hw]
  cases w.deadline
  · rfl
  · exact if_pos fixed

theorem admitExtend_extends {w : Window} {d : Deadline} (hw : windowOf s h = some w) (timed : w.deadline = some d)
    (free : ¬(w.cause = .interval ∨ w.extended = true)) :
    let v := extendedWindow s h w d (max 15 (min 60 (natAt ps 1)))
    admitExtend ps s = accept (decide (natAt ps 1 < 15 ∨ 60 < natAt ps 1)) (windowTimes v)
      (workLamps (closingNotice h w.closing v (windowNotice h w.cause .extended (setWindow h (some v) s)))) := by
  simp only [admitExtend, named, hw, timed]
  rw [if_neg free, clampNat_eq (by decide)]

theorem admitClose_shut (shut : windowOf s h = none) : admitClose ps s = refuse .state s := by
  simp only [admitClose, named, shut]
  rfl

theorem admitClose_open (open_ : windowOf s h ≠ none) : admitClose ps s = accept false [] (closeWindow h s) := by
  simp only [admitClose, named]
  exact if_pos (Option.isSome_iff_ne_none.mpr open_)

end

theorem windowRequests_rule : Rules.WindowRequests := by
  intro s p
  refine ⟨fun b hi lo bad => ⟨fun asks => asks.refused ?_, fun asks => asks.refused ?_, fun asks => asks.refused ?_⟩,
    fun h => ⟨fun w d hw timed => ⟨fun open_ warn differ => ?_, windowDeadline_due hw timed⟩, fun hi lo asks => ?_,
      fun b asks => ?_, fun asks => ?_⟩⟩
  · simp only [admitNow, nameAt_hallByte_none bad]
  · simp only [admitExtend, nameAt_hallByte_none bad]
  · simp only [admitClose, nameAt_hallByte_none bad]
  · exact windowWarn_due hw timed open_ (isClosing_iff.mpr ⟨warn, differ⟩)
  · have named := nameAt_hallByte h [hi, lo]
    refine ⟨fun out => asks.refused (admitNow_state named ?_), fun shut now => asks.answered (admitNow_opens named shut now)⟩
    rw [not_or, not_or]
    exact out
  · have named := nameAt_hallByte h [b]
    refine ⟨fun out => asks.refused ?_, fun w d hw timed other fresh => asks.answered
      (admitExtend_extends named hw timed (not_or.mpr ⟨other, Bool.eq_false_iff.mp fresh⟩))⟩
    rcases out with shut | ⟨w, hw, fixed⟩
    · exact admitExtend_shut named shut
    · exact admitExtend_fixed named hw fixed
  · have named := nameAt_hallByte h []
    exact ⟨fun shut => asks.refused (admitClose_shut named shut), fun open_ => asks.answered (admitClose_open named open_)⟩

/-! ## The phase event (R99) -/

theorem exec_admissionPhaseEvent {ev : PhaseEvent} {rest : List PhaseEvent} {s : State}
    (front : s.mail.toAdmission = ev :: rest) :
    exec .admissionPhaseEvent s = .next (admissionAction ev (eventSeen ev rest s)) := by
  show execAdmissionPhaseEvent s = _
  simp only [execAdmissionPhaseEvent, front]
  rfl

theorem admits_iff {ended : Option Admission} : admits ended = true ↔ ∃ a, ended = some a ∧ a ≠ .never := by
  simp only [admits, Option.any_eq_true, bne_iff_ne]

theorem hallSettingsOf_closeWindow (h k : Hall) (s : State) : hallSettingsOf (closeWindow h s) k = hallSettingsOf s k := by
  have frame := closeWindow_frame h s
  unfold OnlyAdmission at frame
  rw [hallSettingsOf, frame]
  rfl

section
variable {ev : PhaseEvent} {s : State}

theorem admissionAction_opens (old : ev.old = .dark) (new : ev.new = .opened) :
    admissionAction ev s = setAdmission { s.admission with totals := s.admission.totals.set ev.hall 0 } s := by
  unfold admissionAction
  rw [old, new]

theorem admissionAction_reopens (old : ev.old = .ended) (new : ev.new = .onBreak) : admissionAction ev s = s := by
  unfold admissionAction
  rw [old, new]

theorem admissionAction_plays (old : ev.old = .opened ∨ ev.old = .onBreak ∨ ev.old = .interval ∨ ev.old = .gap)
    (new : ev.new = .playing) : admissionAction ev s = closeWindow ev.hall s := by
  unfold admissionAction
  rcases old with old | old | old | old <;> rw [old, new]

theorem admissionAction_interval (old : ev.old = .opened ∨ ev.old = .onBreak) (new : ev.new = .interval) :
    admissionAction ev s = openWindow ev.hall .interval none (closeWindow ev.hall s) := by
  unfold admissionAction
  rcases old with old | old <;> rw [old, new]

theorem admissionAction_endsInterval (old : ev.old = .interval) (new : ev.new = .onBreak) : admissionAction ev s =
    if admits ev.endedAdmission = true then
      openWindow ev.hall .brk (some (hallSettingsOf s ev.hall).breakWindow) (closeWindow ev.hall s)
    else closeWindow ev.hall s := by
  rw [← hallSettingsOf_closeWindow ev.hall ev.hall s]
  unfold admissionAction
  rw [old, new]
  rfl

theorem admissionAction_gap_shut (old : ev.old = .playing) (new : ev.new = .gap) (shut : windowOf s ev.hall = none) :
    admissionAction ev s = openWindow ev.hall .gap (some (hallSettingsOf s ev.hall).gapWindow) s := by
  unfold admissionAction
  rw [old, new]
  dsimp only
  rw [shut]

theorem admissionAction_gap_open (old : ev.old = .playing) (new : ev.new = .gap) {w : Window} (hw : windowOf s ev.hall = some w) :
    admissionAction ev s = s := by
  unfold admissionAction
  rw [old, new]
  dsimp only
  rw [hw]

variable (old : ev.old = .playing ∨ ev.old = .gap) (new : ev.new = .onBreak)
include old new

theorem admissionAction_break_without (notAdmitted : ¬admits ev.endedAdmission = true) : admissionAction ev s = s := by
  unfold admissionAction
  rcases old with old | old <;> rw [old, new] <;> exact if_neg notAdmitted

variable (admitted : admits ev.endedAdmission = true)
include admitted

theorem admissionAction_break_shut (shut : windowOf s ev.hall = none) :
    admissionAction ev s = openWindow ev.hall .brk (some (hallSettingsOf s ev.hall).breakWindow) s := by
  unfold admissionAction
  rcases old with old | old
  all_goals
    rw [old, new]
    dsimp only
    rw [if_pos admitted, shut]
    rfl

theorem admissionAction_break_open {w : Window} (hw : windowOf s ev.hall = some w) :
    admissionAction ev s = retimeWindow ev.hall w s := by
  unfold admissionAction
  rcases old with old | old
  all_goals
    rw [old, new]
    dsimp only
    rw [if_pos admitted, hw]

end

theorem admissionPhaseEvent_rule : Rules.AdmissionPhaseEvent := by
  intro s ev rest front
  dsimp only
  rw [exec_admissionPhaseEvent front, ← admits_iff]
  refine ⟨?_, ?_, ?_, ?_, ?_, ?_, ?_, ?_⟩
  · rintro ⟨old, new⟩
    exact congrArg _ (admissionAction_opens old new)
  · intro k
    have new : ev.new = .playing := by rcases k with k | k | k | k <;> exact k.2
    refine congrArg _ (admissionAction_plays ?_ new)
    exact k.imp And.left (Or.imp And.left (Or.imp And.left And.left))
  · intro k
    exact congrArg _ (admissionAction_interval (k.imp And.left And.left) (k.elim And.right And.right))
  · rintro ⟨old, new⟩
    rw [admissionAction_endsInterval old new]
    exact ⟨fun admitted => congrArg _ (if_pos admitted), fun notAdmitted => congrArg _ (if_neg notAdmitted)⟩
  · rintro ⟨old, new⟩
    refine ⟨fun shut => congrArg _ (admissionAction_gap_shut old new shut), fun open_ => ?_⟩
    obtain ⟨w, hw⟩ := Option.ne_none_iff_exists'.mp open_
    exact congrArg _ (admissionAction_gap_open old new hw)
  · intro k
    have old : ev.old = .playing ∨ ev.old = .gap := k.imp And.left And.left
    have new : ev.new = .onBreak := k.elim And.right And.right
    exact ⟨fun notAdmitted => congrArg _ (admissionAction_break_without old new notAdmitted),
      fun admitted shut => congrArg _ (admissionAction_break_shut old new admitted shut),
      fun admitted w hw => congrArg _ (admissionAction_break_open old new admitted hw)⟩
  · rintro ⟨old, new⟩
    exact congrArg _ (admissionAction_reopens old new)
  · intro ends
    exact congrArg _ (admissionAction_ends ends.symm)

end Sys2Proof.Machine

namespace Sys2Proof

/-- Settles O38, row by row of R99. -/
theorem admissionPhaseEvent : Obligations.AdmissionPhaseEvent :=
  ⟨Machine.admissionPhaseEvent_rule, Machine.partyDiscarded_rule⟩

/-- Settles O39, by the tests of each request in order. -/
theorem windowRequests : Obligations.WindowRequests := ⟨Machine.windowRequests_rule, Machine.admissionNotices_rule⟩

end Sys2Proof

/-! PROOFS. The entrance keys, and the parties they seat (R88–R90, R92, R106, R110). -/

namespace Sys2Proof.Machine

/-! ## The event that a key command takes (R118) -/

section
variable {s : State} {k : Fin 64} {event : KeyEvent} {roles : Fin 12 → Role} {rest : List EntranceKey} {e : Fin 12}

/-- The state in which the oldest entrance key event is taken. -/
def keyTaken (rest : List EntranceKey) (s : State) : State := { s with mail := { s.mail with entranceKeys := rest } }

/-- The oldest entrance key event, where its entrance's role and its kind are those that the command names. -/
theorem takeEntranceKey_front (front : s.mail.entranceKeys = ⟨k, roles e, event⟩ :: rest) (apart : roles.Injective) :
    takeEntranceKey event roles s = some (k, e, keyTaken rest s) := by
  have named : ((finUpTo 12).find? fun x => roles e = roles x) = some e :=
    finUpTo_find?_eq_some_iff.mpr ⟨decide_eq_true rfl, fun x before => decide_eq_false fun same =>
      absurd (apart same) (Fin.ne_of_gt before)⟩
  simp only [takeEntranceKey, front, named, if_true]
  rfl

end

theorem add_injective : Function.Injective Role.add := fun _ _ => Role.add.inj
theorem remove_injective : Function.Injective Role.remove := fun _ _ => Role.remove.inj
theorem done_injective : Function.Injective Role.done := fun _ _ => Role.done.inj
theorem usher_injective : Function.Injective Role.usher := fun _ _ => Role.usher.inj

/-! ## ADD keys (R89, R90) -/

section
variable {s : State} {k : Fin 64} {e : Fin 12}

theorem addKeyPress_closed (closed : mayWait (viewOf s e) = false) : addKeyPress k e s = refuseLamp e (setLink k none s) := by
  have view : mayWait (viewOf (setLink k none s) e) = false := closed
  simp only [addKeyPress, view, Bool.not_false, if_true]

variable (waits : mayWait (viewOf s e) = true)
include waits

theorem addKeyPress_full (full : partyLimit ≤ s.admission.parties.length) :
    addKeyPress k e s = partyNotice e.val .full (refuseLamp e (setLink k none s)) := by
  have view : mayWait (viewOf (setLink k none s) e) = true := waits
  simp only [addKeyPress, view, Bool.not_true, Bool.false_eq_true, if_false]
  exact if_pos full

theorem addKeyPress_joins (room : s.admission.parties.length < partyLimit) :
    addKeyPress k e s = setLink k (some (addParty e 1 .key false (setLink k none s)).1)
      (addParty e 1 .key false (setLink k none s)).2 := by
  have view : mayWait (viewOf (setLink k none s) e) = true := waits
  simp only [addKeyPress, view, Bool.not_true, Bool.false_eq_true, if_false]
  exact if_neg (Nat.not_le.mpr room)

end

/-- R105: the room at an entrance, with its ADMITTING parties written out. -/
theorem roomAt_eq (u : AdmissionUnit) (e : Fin 12) : roomAt u e =
    (u.entrances.get e).settings.quota - (u.entrances.get e).admitted -
    seats (u.parties.filter fun q => q.entrance = e && q.state = .admitting) := by
  rw [roomAt, admittingAt, partiesAt_filter]

/-- R90: a party may grow while it is HELD, and in a window with room for a seat more. -/
theorem mayGrow_iff {s : State} {q : Party} : mayGrow s q = true ↔ q.state = .held ∨
    ∃ w, s.admission.windows.get q.hall = some w ∧ (w.cause = .interval ∨ 1 ≤ roomAt s.admission q.entrance) := by
  unfold mayGrow windowOf
  cases s.admission.windows.get q.hall <;> simp

section
variable {s : State} {k : Fin 64} {e : Fin 12}

theorem addKeyRepeat_unlinked (unlinked : s.admission.links.get k = none) : addKeyRepeat k e s = refuseLamp e s := by
  simp only [addKeyRepeat, unlinked, Option.bind_none]

variable {n : Nat} {q : Party} (link : s.admission.links.get k = some n) (found : findParty s n = some q)
include link found

theorem addKeyRepeat_refused (stays : 8 ≤ q.size ∨ ¬mayGrow s q = true) : addKeyRepeat k e s = refuseLamp e s := by
  simp only [addKeyRepeat, link, Option.bind_some, found]
  by_cases large : 8 ≤ q.size
  · rw [if_pos large]
  · rw [if_neg large, if_pos ((Bool.not_eq_true' _).mpr (Bool.eq_false_iff.mpr (stays.resolve_left large)))]

theorem addKeyRepeat_grows (small : q.size < 8) (free : mayGrow s q = true) : addKeyRepeat k e s = setParties
    (s.admission.parties.map fun x => if x.number = n then { x with size := x.size + 1 } else x) s := by
  rw [← (findParty_mem found).2]
  simp only [addKeyRepeat, link, Option.bind_some, found]
  rw [if_neg (Nat.not_le.mpr small), free]
  rfl

end

/-! ## REMOVE and DONE keys (R92, R106) -/

section
variable {s : State} {e : Fin 12}

theorem removeKeyPress_nobody (nobody : heldAt s.admission e = []) : removeKeyPress e s = refuseLamp e s := by
  simp only [removeKeyPress, nobody, List.getLast?_nil]

theorem removeKeyPress_last {before : List Party} {q : Party} (held : heldAt s.admission e = before ++ [q]) :
    removeKeyPress e s = discard s q := by
  simp only [removeKeyPress, held, List.getLast?_concat]

theorem doneKeyPress_nobody (nobody : admittingAt s.admission e = []) :
    doneKeyPress e s = selectionPass e (refuseLamp e s) := by
  simp only [doneKeyPress, nobody]

theorem doneKeyPress_seats (somebody : admittingAt s.admission e ≠ []) :
    doneKeyPress e s = selectionPass e ((admittingAt s.admission e).foldl seat s) := by
  unfold doneKeyPress
  split
  · next nobody => exact absurd nobody somebody
  · rfl

end

theorem seatedPartyIsCounted_rule : Rules.SeatedPartyIsCounted := by
  intro s q
  unfold seat dropParty
  rw [dropParty_filter]
  rfl

/-! ## USHER keys (R110) -/

theorem usherCall_eq (e : Fin 12) (long : Bool) (s : State) :
    let urgent := (s.admission.entrances.get e).usherUrgent || long
    usherCall e long s = workLamps (offer 3 (byteOf e.val) (flagByte urgent)
      (modifyEntrance e (fun x => { x with usherPending := true, usherUrgent := urgent }) s)) := by
  intro urgent
  have flag : (entranceOf (modifyEntrance e (fun x => { x with usherPending := true, usherUrgent := x.usherUrgent || long }) s)
      e).usherUrgent = urgent := by
    rw [entranceOf, modifyEntrance, setAdmission_admission, Table.get_modify_self]
  unfold usherCall
  dsimp only
  rw [flag]
  rfl

/-! ## The commands -/

section
variable {s : State} {k : Fin 64} {rest : List EntranceKey} {e : Fin 12}

theorem exec_addKeyPress (front : s.mail.entranceKeys = ⟨k, .add e, .press⟩ :: rest) :
    exec .addKeyPress s = .next (addKeyPress k e (keyTaken rest s)) := by
  show execAddKeyPress s = _
  simp only [execAddKeyPress, takeEntranceKey_front front add_injective]

theorem exec_addKeyRepeat (front : s.mail.entranceKeys = ⟨k, .add e, .again⟩ :: rest) :
    exec .addKeyRepeat s = .next (addKeyRepeat k e (keyTaken rest s)) := by
  show execAddKeyRepeat s = _
  simp only [execAddKeyRepeat, takeEntranceKey_front front add_injective]

theorem exec_removeKeyPress (front : s.mail.entranceKeys = ⟨k, .remove e, .press⟩ :: rest) :
    exec .removeKeyPress s = .next (removeKeyPress e (keyTaken rest s)) := by
  show execRemoveKeyPress s = _
  simp only [execRemoveKeyPress, takeEntranceKey_front front remove_injective]

theorem exec_removeKeyLong (front : s.mail.entranceKeys = ⟨k, .remove e, .long⟩ :: rest) :
    exec .removeKeyLong s = .next ((heldAt s.admission e).foldl discard (keyTaken rest s)) := by
  show execRemoveKeyLong s = _
  simp only [execRemoveKeyLong, takeEntranceKey_front front remove_injective]
  rfl

theorem exec_doneKeyPress (front : s.mail.entranceKeys = ⟨k, .done e, .press⟩ :: rest) :
    exec .doneKeyPress s = .next (doneKeyPress e (keyTaken rest s)) := by
  show execDoneKeyPress s = _
  simp only [execDoneKeyPress, takeEntranceKey_front front done_injective]

theorem exec_usherKeyPress (front : s.mail.entranceKeys = ⟨k, .usher e, .press⟩ :: rest) :
    exec .usherKeyPress s = .next (usherCall e false (keyTaken rest s)) := by
  show execUsherKeyPress s = _
  simp only [execUsherKeyPress, takeEntranceKey_front front usher_injective]

theorem exec_usherKeyLong (front : s.mail.entranceKeys = ⟨k, .usher e, .long⟩ :: rest) :
    exec .usherKeyLong s = .next (usherCall e true (keyTaken rest s)) := by
  show execUsherKeyLong s = _
  simp only [execUsherKeyLong, takeEntranceKey_front front usher_injective]

end

theorem entranceKeys_rule : Rules.EntranceKeys := by
  intro s k e rest role event front
  dsimp only
  rw [← partiesAt_filter, ← partiesAt_filter]
  refine ⟨?_, ?_, ⟨?_, ?_, ?_⟩, ?_, ?_⟩
  · rintro rfl rfl
    rw [exec_addKeyPress front]
    exact ⟨fun closed => congrArg _ (addKeyPress_closed (mayWait_eq_false_iff.mpr closed)),
      fun waits full => congrArg _ (addKeyPress_full (mayWait_iff.mpr waits) full),
      fun waits room => congrArg _ (addKeyPress_joins (mayWait_iff.mpr waits) room)⟩
  · rintro rfl rfl
    rw [exec_addKeyRepeat front]
    refine ⟨fun unlinked => congrArg _ (addKeyRepeat_unlinked unlinked), fun n q link found => ?_⟩
    rw [← roomAt_eq, ← mayGrow_iff]
    exact ⟨fun stays => congrArg _ (addKeyRepeat_refused link found stays),
      fun small free => congrArg _ (addKeyRepeat_grows link found small free)⟩
  · rintro rfl rfl
    rw [exec_removeKeyPress front]
    exact ⟨fun nobody => congrArg _ (removeKeyPress_nobody nobody), fun before q held => congrArg _ (removeKeyPress_last held)⟩
  · rintro rfl rfl
    exact exec_removeKeyLong front
  · rintro rfl rfl
    rw [exec_doneKeyPress front]
    exact ⟨fun nobody => congrArg _ (doneKeyPress_nobody nobody), fun somebody => congrArg _ (doneKeyPress_seats somebody)⟩
  · rintro rfl rfl
    have called := usherCall_eq e false (keyTaken rest s)
    rw [Bool.or_false] at called
    exact (exec_usherKeyPress front).trans (congrArg _ called)
  · rintro rfl rfl
    have called := usherCall_eq e true (keyTaken rest s)
    rw [Bool.or_true] at called
    exact (exec_usherKeyLong front).trans (congrArg _ called)

end Sys2Proof.Machine

namespace Sys2Proof

/-- Settles O41: each key's command takes the oldest event, and each of its outcomes is one case of R89, R90, R92, R106 or
R110. -/
theorem entranceKeys : Obligations.EntranceKeys :=
  ⟨Machine.entranceKeys_rule, Machine.seatedPartyIsCounted_rule, Machine.partyDiscarded_rule, Machine.selectionPass_rule,
    Machine.admissionNotices_rule⟩

end Sys2Proof

/-! PROOFS. DOOR_SET and USHER_CLEAR (R84, R110). -/

namespace Sys2Proof.Machine

/-! ## The record of DOOR_SET (R84) -/

/-- The holding zone of an entrance's record, or NONE; the outer `none` is a byte that names no foyer zone. -/
def holdingZoneAt (ps : List Byte) (i : Nat) : Option (Option (Fin 6)) :=
  if byteAt ps i = 0xFF then some none
  else if 12 ≤ natAt ps i then ((finUpTo 6)[natAt ps i - 12]?).map some
  else none

theorem readEntranceSettings_eq (ps : List Byte) : readEntranceSettings ps =
    (nameAt hallNames ps 0).bind fun hall => (holdingZoneAt ps 1).bind fun zone => (nameAt flagNames ps 3).bind fun stepFree =>
      (optNameAt (finUpTo 12) ps 4).bind fun lamp =>
        some (⟨hall, zone, (clampNat 1 16 (natAt ps 2)).1, stepFree, lamp⟩, (clampNat 1 16 (natAt ps 2)).2) := by
  unfold readEntranceSettings holdingZoneAt
  refine congrArg (Option.bind _) (funext fun hall => ?_)
  dsimp only
  split
  · rfl
  · split <;> rfl

section
variable {ps : List Byte}

theorem holdingZoneAt_eq_none_iff {i : Nat} :
    holdingZoneAt ps i = none ↔ natAt ps i < 12 ∨ (17 < natAt ps i ∧ natAt ps i ≠ 255) := by
  unfold holdingZoneAt
  by_cases absent : byteAt ps i = 0xFF
  · rw [if_pos absent]
    simp [byteAt_eq_none_iff.mp absent]
  · rw [if_neg absent]
    have code : natAt ps i ≠ 255 := byteAt_eq_none_iff.not.mp absent
    by_cases low : 12 ≤ natAt ps i
    · rw [if_pos low, Option.map_eq_none_iff, finUpTo_eq_none_iff]
      omega
    · rw [if_neg low]
      simp [Nat.lt_of_not_le low]

theorem holdingZoneAt_val {i : Nat} {zone : Option (Fin 6)} (named : holdingZoneAt ps i = some zone) :
    zone.map (fun f => f.val + 12) = if natAt ps i = 255 then none else some (natAt ps i) := by
  unfold holdingZoneAt at named
  by_cases absent : byteAt ps i = 0xFF
  · rw [if_pos absent] at named
    cases named
    exact (if_pos (byteAt_eq_none_iff.mp absent)).symm
  · rw [if_neg absent] at named
    rw [if_neg (byteAt_eq_none_iff.not.mp absent)]
    split at named
    · next low =>
      obtain ⟨f, at_f, rfl⟩ := Option.map_eq_some_iff.mp named
      have := finUpTo_eq_some_iff.mp at_f
      exact congrArg some (show f.val + 12 = natAt ps i by omega)
    · cases named

theorem flag_of_code {i : Nat} {flag : Bool} (named : nameAt flagNames ps i = some flag) : flag = decide (natAt ps i = 1) := by
  unfold nameAt at named
  match code : natAt ps i with
  | 0 => rw [code] at named; exact (Option.some.inj named).symm
  | 1 => rw [code] at named; exact (Option.some.inj named).symm
  | n + 2 => rw [code] at named; cases named

theorem readEntranceSettings_eq_none_iff : readEntranceSettings ps = none ↔ 1 < natAt ps 0 ∨
    natAt ps 1 < 12 ∨ (17 < natAt ps 1 ∧ natAt ps 1 ≠ 255) ∨ 1 < natAt ps 3 ∨ (11 < natAt ps 4 ∧ natAt ps 4 ≠ 255) := by
  have hall : nameAt hallNames ps 0 = none ↔ 1 < natAt ps 0 := nameAt_eq_none_iff
  have flag : nameAt flagNames ps 3 = none ↔ 1 < natAt ps 3 := nameAt_eq_none_iff
  have lamp : optNameAt (finUpTo 12) ps 4 = none ↔ 11 < natAt ps 4 ∧ natAt ps 4 ≠ 255 := optNameAt_eq_none_iff
  rw [← hall, ← flag, ← lamp, ← or_assoc (a := natAt ps 1 < 12), ← holdingZoneAt_eq_none_iff, readEntranceSettings_eq]
  cases nameAt hallNames ps 0 with
  | none => simp
  | some _ => cases holdingZoneAt ps 1 with
    | none => simp
    | some _ => cases nameAt flagNames ps 3 <;> cases optNameAt (finUpTo 12) ps 4 <;> simp

theorem readEntranceSettings_fields {v : EntranceSettings} {adjusted : Bool}
    (read : readEntranceSettings ps = some (v, adjusted)) :
    byteAt ps 0 = hallByte v.hall ∧
      v.zone.map (fun f => f.val + 12) = (if natAt ps 1 = 255 then none else some (natAt ps 1)) ∧
      v.quota = max 1 (min 16 (natAt ps 2)) ∧ v.stepFree = decide (natAt ps 3 = 1) ∧
      v.lamp.map Fin.val = (if natAt ps 4 = 255 then none else some (natAt ps 4)) ∧
      (adjusted = true ↔ natAt ps 2 < 1 ∨ 16 < natAt ps 2) := by
  rw [readEntranceSettings_eq] at read
  obtain ⟨hall, hallNamed, read⟩ := Option.bind_eq_some_iff.mp read
  obtain ⟨zone, zoneNamed, read⟩ := Option.bind_eq_some_iff.mp read
  obtain ⟨flag, flagNamed, read⟩ := Option.bind_eq_some_iff.mp read
  obtain ⟨lamp, lampNamed, e⟩ := Option.bind_eq_some_iff.mp read
  cases e
  exact ⟨nameAt_hall_iff.mp hallNamed, holdingZoneAt_val zoneNamed, clampNat_fst (by decide), flag_of_code flagNamed,
    optNameAt_finUpTo_val lampNamed, clampNat_snd⟩

end

theorem doorDark_iff {s : State} {e : Fin 12} {ps : List Byte} : doorDark s e ps = true ↔
    s.admission.view.get (s.admission.entrances.get e).settings.hall = .dark ∧
      ∀ h, byteAt ps 1 = hallByte h → s.admission.view.get h = .dark := by
  simp only [doorDark, List.all_cons, Bool.and_eq_true, decide_eq_true_eq, List.all_eq_true, Option.mem_toList,
    nameAt_hall_iff]
  rfl

theorem moveLamp_same (l : Option (Fin 12)) (offered : EntranceLamp) (s : State) : moveLamp l l offered s = s := if_pos rfl

theorem moveLamp_moved {old new : Option (Fin 12)} (moved : old ≠ new) (offered : EntranceLamp) (s : State) :
    moveLamp old new offered s = { s with mail := { s.mail with lamps := s.mail.lamps ++
      (old.toList.map (fun l => LampMessage.offer l .off) ++ new.toList.map (fun l => LampMessage.offer l offered)) } } := by
  unfold moveLamp
  rw [if_neg moved]
  cases old with
  | none =>
    cases new with
    | none => exact absurd rfl moved
    | some l => rfl
  | some k =>
    cases new with
    | none => rfl
    | some l => simp only [handLamp, List.append_assoc]; rfl

theorem doorRecords_rule : Rules.DoorRecords :=
  ⟨fun _ => ⟨readEntranceSettings_eq_none_iff, fun _ _ => readEntranceSettings_fields⟩, fun _ _ _ => doorDark_iff,
    fun old _ offered s => ⟨fun same => same ▸ moveLamp_same old offered s, fun moved => moveLamp_moved moved offered s⟩⟩

/-! ## The tests of DOOR_SET -/

theorem lampsDistinct_iff_some {t : Table EntranceSettings 12} : lampsDistinct t = true ↔
    ∀ o o' l, (t.get o).lamp = some l → (t.get o').lamp = some l → o = o' := by
  rw [lampsDistinct_iff]
  constructor
  · exact fun distinct o o' l lit lit' => distinct o o' (by rw [lit]; exact Option.some_ne_none l) (lit.trans lit'.symm)
  · intro distinct o o' present same
    obtain ⟨l, lit⟩ := Option.ne_none_iff_exists'.mp present
    exact distinct o o' l lit (same ▸ lit)

theorem foyersOneHall_iff_some {t : Table EntranceSettings 12} : foyersOneHall t = true ↔
    ∀ o o' z, (t.get o).zone = some z → (t.get o').zone = some z → (t.get o).hall = (t.get o').hall := by
  rw [foyersOneHall_iff]
  constructor
  · exact fun one o o' z held held' => one o o' (by rw [held]; exact Option.some_ne_none z) (held.trans held'.symm)
  · intro one o o' present same
    obtain ⟨z, held⟩ := Option.ne_none_iff_exists'.mp present
    exact one o o' z held (same ▸ held)

theorem doorTable_entry (s : State) (e : Fin 12) (v : EntranceSettings) (o : Fin 12) :
    (doorTable s e v).get o = if o = e then v else (s.admission.entrances.get o).settings := by
  unfold doorTable
  split
  · next same => rw [same, Table.get_set_self]
  · next other => rw [Table.get_set_ne _ _ (Ne.symm other), Table.get_map]

section
variable {ps : List Byte} {s : State} {e : Fin 12} (entrance : entranceAt ps 0 = some e)
include entrance

theorem doorSet_busy (busy : saving s = true) : doorSet ps s = refuse .busy s := by
  simp only [doorSet, entrance, busy, if_true]

variable (idle : saving s = false)
include idle

theorem doorSet_lit (lit : doorDark s e ps = false) : doorSet ps s = refuse .state s := by
  simp only [doorSet, entrance, idle, lit, Bool.not_false, Bool.false_eq_true, if_true, if_false]

variable (dark : doorDark s e ps = true)
include dark

theorem doorSet_unread (unread : readEntranceSettings (ps.drop 1) = none) : doorSet ps s = refuse .range s := by
  simp only [doorSet, entrance, idle, dark, unread, Bool.not_true, Bool.false_eq_true, if_false]

variable {v : EntranceSettings} {adjusted : Bool} (read : readEntranceSettings (ps.drop 1) = some (v, adjusted))
include read

theorem doorSet_clash (clash : ¬(lampsDistinct (doorTable s e v) = true ∧ foyersOneHall (doorTable s e v) = true)) :
    doorSet ps s = refuse .range s := by
  simp only [doorSet, entrance, idle, dark, read, Bool.not_true, Bool.false_eq_true, if_false]
  exact if_neg (Bool.and_eq_true_iff.not.mpr clash)

theorem doorSet_fits (lamps : lampsDistinct (doorTable s e v) = true) (foyers : foyersOneHall (doorTable s e v) = true) :
    doorSet ps s = accept adjusted [] (moveLamp (entranceOf s e).settings.lamp v.lamp (entranceOf s e).offered
      (modifyEntrance e (fun x => { x with settings := v }) s)) := by
  simp only [doorSet, entrance, idle, dark, read, Bool.not_true, Bool.false_eq_true, if_false]
  exact if_pos (Bool.and_eq_true_iff.mpr ⟨lamps, foyers⟩)

end

theorem usherClear_named {ps : List Byte} {e : Fin 12} (entrance : entranceAt ps 0 = some e) (s : State) : usherClear ps s =
    accept false [] (workLamps (modifyEntrance e (fun x => { x with usherPending := false, usherUrgent := false }) s)) := by
  simp only [usherClear, entrance]

theorem doorSetAndUsherClear_rule : Rules.DoorSetAndUsherClear := by
  intro s p
  refine ⟨fun n asks => ⟨fun high => asks.refused ?_, fun e code => ?_⟩, fun ps asks => ⟨fun high => asks.refused ?_,
    fun e code => ?_⟩⟩
  · simp only [usherClear, entranceAt_none (ps := [n]) (i := 0) high]
  · subst code
    exact asks.answered (usherClear_named (entranceAt_some (ps := [byteOf e.val]) (toNat_byteOf_entrance e)) _)
  · simp only [doorSet, entranceAt_none high]
  · have entrance : entranceAt ps 0 = some e := entranceAt_some code
    refine ⟨fun busy => asks.refused (doorSet_busy entrance busy), fun idle lit => asks.refused (doorSet_lit entrance idle lit),
      fun idle dark unread => asks.refused (doorSet_unread entrance idle dark unread), fun new adjusted idle dark read => ?_⟩
    dsimp only
    simp only [← doorTable_entry, ← lampsDistinct_iff_some, ← foyersOneHall_iff_some]
    exact ⟨fun clash => asks.refused (doorSet_clash entrance idle dark read clash),
      fun lamps foyers => asks.answered (doorSet_fits (s := withoutRequest p s) entrance idle dark read lamps foyers)⟩

end Sys2Proof.Machine

namespace Sys2Proof

/-- Settles O42, by the tests of the two requests in order, the tests of all entrances together entry by entry. -/
theorem doorSetAndUsherClear : Obligations.DoorSetAndUsherClear :=
  ⟨Machine.doorSetAndUsherClear_rule, Machine.doorRecords_rule⟩

end Sys2Proof

/-! PROOFS. PARTY_LIST and CALL_LIST (R95, R154). -/

namespace Sys2Proof.Machine

/-- R95: the eight bytes of a party, its four flags in one byte. -/
theorem partyBytes_eq (q : Party) : partyBytes q = bytes2 (q.number + 1024 * q.entrance.val) ++ [byteOf q.size,
    byteOf ((if q.hall = .b then 1 else 0) + (if q.state = .admitting then 2 else 0) + (if q.origin = .port then 4 else 0) +
      (if q.access then 8 else 0))] ++ bytes4 q.arrived.toNat := by
  have hall : nameCode hallNames q.hall = if q.hall = .b then 1 else 0 := by cases q.hall <;> rfl
  have state : 2 * nameCode partyStateNames q.state = if q.state = .admitting then 2 else 0 := by cases q.state <;> rfl
  have origin : 4 * nameCode partyOriginNames q.origin = if q.origin = .port then 4 else 0 := by cases q.origin <;> rfl
  have access : 8 * nameCode flagNames q.access = if q.access then 8 else 0 := by cases q.access <;> rfl
  rw [partyBytes, hall, state, origin, access]

/-- R154: the eight bytes of a call, by its state and its content. -/
theorem callBytes_eq : callBytes = fun c : Call =>
    let state := match c.state with
      | .queued => (0, (0xFF : Byte))
      | .started r _ false => (1, nameByte sourceNames r)
      | .started r _ true => (2, nameByte sourceNames r)
    let kind := match c.content with
      | .phrases _ => 0
      | .chime _ _ => 1
      | .live _ => 2
    [byteOf c.id, byteOf (nameCode originNames c.origin + 8 * state.1), byteOf (c.priority + 8 * kind), state.2,
      optByte (nameCode hallNames) c.link] ++ bytes3 c.targets.toNat := by
  funext c
  obtain ⟨id, origin, priority, content, level, mode, targets, repeats, deadline, link, state, live⟩ := c
  cases state with
  | queued => cases content <;> rfl
  | started r coverage suspended => cases suspended <;> cases content <;> rfl

theorem partyList_reported {s : State} {p : Port} {index : Byte} (asks : Asks s p 0x34 [index]) (low : index.toNat ≤ 63) :
    exec (.partyList p) s = .next (replied p .ok
      ([byteOf s.admission.parties.length, byteOf index.toNat,
          flagByte (decide (index.toNat + 7 < s.admission.parties.length))] ++
        ((s.admission.parties.drop index.toNat).take 7).flatMap partyBytes) s) :=
  Asks.reported (a := false) asks (if_neg (Nat.not_lt.mpr low))

theorem callList_reported {s : State} {p : Port} {index : Byte} (asks : Asks s p 0x53 [index]) (low : index.toNat ≤ 15) :
    exec (.callList p) s = .next (replied p .ok
      ([byteOf s.call.queue.length, byteOf index.toNat, flagByte (decide (index.toNat + 7 < s.call.queue.length))] ++
        ((s.call.queue.drop index.toNat).take 7).flatMap callBytes) s) :=
  Asks.reported (a := false) asks (if_neg (Nat.not_lt.mpr low))

theorem partyAndCallLists_rule : Obligations.PartyAndCallLists := by
  intro s p index
  refine ⟨fun asks => ⟨fun high => asks.refused (if_pos high), fun low => ?_⟩,
    fun asks => ⟨fun high => asks.refused (if_pos high), fun low => ?_⟩⟩
  · rw [partyList_reported asks low, byteOf_toNat, funext partyBytes_eq]
    rfl
  · rw [callList_reported asks low, byteOf_toNat, callBytes_eq]
    rfl

end Sys2Proof.Machine

namespace Sys2Proof

/-- Settles O54: both lists answer a take of a drop of what their unit holds, entry by entry. -/
theorem partyAndCallLists : Obligations.PartyAndCallLists := Machine.partyAndCallLists_rule

end Sys2Proof

/-! PROOFS. What falls due on the keys, and the end of a sweep: the rules about the Panel unit's scanner (R111–R116, R118). -/

namespace Sys2Proof

theorem Table.all_iff {α : Type} {n : Nat} {t : Table α n} {p : α → Bool} : t.all p = true ↔ ∀ i, p (t.get i) = true := by
  simp [Table.all, Table.toList_eq, Table.mem_finUpTo]

theorem finUpTo_sorted (n : Nat) : (finUpTo n).Pairwise (· < ·) := by
  induction n with
  | zero => exact .nil
  | succ n ih =>
    refine List.pairwise_cons.mpr ⟨fun i member => ?_, ih.map _ fun _ _ => Fin.succ_lt_succ_iff.mpr⟩
    obtain ⟨j, _, rfl⟩ := List.mem_map.mp member
    exact Fin.succ_pos j

namespace Machine

/-! ## Events delivered (R118) -/

section
variable {s : State} {k j : Fin 64} {role : Role} {event : KeyEvent}

theorem deliver_setPanel (u : Panel) : deliver k role event (setPanel u s) = setPanel u (deliver k role event s) := by
  unfold deliver
  split
  · rfl
  · split <;> rfl
  · split <;> rfl
  · split <;> rfl

@[simp] theorem deliver_panel : (deliver k role event s).panel = s.panel := by
  have kept : deliver k role event s = setPanel s.panel (deliver k role event s) := deliver_setPanel s.panel
  rw [kept]
  rfl

/-! ## What is due (R112–R116) -/

theorem performDue_of_none (idle : (keyOf s k).due = none) : performDue s k = s := by
  unfold performDue
  dsimp only
  rw [idle]

/-- A key's record written, with nothing due on it, whatever its event then tells. -/
theorem performDue_wrote : ∃ r : KeyRecord, ((keyOf s k).due ≠ none → r.due = none) ∧
    (performDue s k).panel = { s.panel with keys := s.panel.keys.set k r } := by
  unfold performDue
  dsimp only
  split
  · next idle =>
    refine ⟨keyOf s k, fun due => absurd idle due, ?_⟩
    rw [Table.set_eq_self (show s.panel.keys.get k = keyOf s k from rfl)]
  · split
    · exact ⟨_, fun _ => rfl, rfl⟩
    · exact ⟨_, fun _ => rfl, deliver_panel⟩
  · exact ⟨_, fun _ => rfl, deliver_panel⟩
  · exact ⟨_, fun _ => rfl, deliver_panel⟩
  · exact ⟨_, fun _ => rfl, deliver_panel⟩
  · split
    · exact ⟨upKey, fun _ => rfl, rfl⟩
    · exact ⟨upKey, fun _ => rfl, deliver_panel⟩

theorem performDue_due : (keyOf (performDue s k) j).due = if j = k then none else (keyOf s j).due := by
  by_cases idle : (keyOf s k).due = none
  · rw [performDue_of_none idle]
    split
    · next same => rw [same, idle]
    · rfl
  · obtain ⟨r, clear, wrote⟩ := performDue_wrote (s := s) (k := k)
    rw [keyOf, wrote]
    split
    · next same => rw [same, Table.get_set_self, clear idle]
    · next other => rw [Table.get_set_ne _ _ (Ne.symm other), keyOf]

end

section
variable {s : State} {l : List (Fin 64)}

theorem foldl_performDue_due (j : Fin 64) :
    (keyOf (l.foldl performDue s) j).due = if j ∈ l then none else (keyOf s j).due := by
  induction l generalizing s with
  | nil => rfl
  | cons k l ih =>
    rw [List.foldl_cons, ih, performDue_due]
    by_cases later : j ∈ l <;> by_cases same : j = k <;> simp [later, same]

theorem foldl_performDue_idle (idle : ∀ j ∈ l, (keyOf s j).due = none) : l.foldl performDue s = s := by
  induction l with
  | nil => rfl
  | cons k l ih =>
    rw [List.foldl_cons, performDue_of_none (idle k List.mem_cons_self)]
    exact ih fun j member => idle j (List.mem_cons_of_mem k member)

/-- Where something is due on one key of a list at most, that key alone has its step. -/
theorem foldl_performDue_only {k : Fin 64} (once : l.Nodup) (member : k ∈ l)
    (idle : ∀ j ∈ l, j ≠ k → (keyOf s j).due = none) : l.foldl performDue s = performDue s k := by
  induction l with
  | nil => cases member
  | cons x l ih =>
    obtain ⟨new, once⟩ := List.nodup_cons.mp once
    rw [List.foldl_cons]
    by_cases same : x = k
    · subst same
      refine foldl_performDue_idle fun j later => ?_
      rw [performDue_due, if_neg (ne_of_mem_of_not_mem later new)]
      exact idle j (List.mem_cons_of_mem x later) (ne_of_mem_of_not_mem later new)
    · rw [performDue_of_none (idle x List.mem_cons_self same)]
      exact ih once ((List.mem_cons.mp member).resolve_left (Ne.symm same)) fun j later =>
        idle j (List.mem_cons_of_mem x later)

end

/-! ## The end of a sweep (R113) -/

section
variable {s : State}

theorem closeSweep_shut (shut : s.panel.sweepOpen = false) : closeSweep s = s := by
  rw [closeSweep, shut]
  rfl

theorem closeSweep_left (left : ∃ k, (keyOf s k).due ≠ none) : closeSweep s = s := by
  obtain ⟨k, due⟩ := left
  refine if_neg fun ends => due ?_
  exact Option.isNone_iff_eq_none.mp (Table.all_iff.mp (Bool.and_eq_true_iff.mp ends).2 k)

theorem closeSweep_ends (isOpen : s.panel.sweepOpen = true) (idle : ∀ k, (keyOf s k).due = none) :
    closeSweep s = setPanel (endSweep s.panel) s := by
  have ends : s.panel.keys.all (fun r => r.due.isNone) = true :=
    Table.all_iff.mpr fun k => Option.isNone_iff_eq_none.mpr (idle k)
  exact if_pos (Bool.and_eq_true_iff.mpr ⟨isOpen, ends⟩)

theorem recheckKey_due (keys : Table KeyRecord 64) (down : BitVec 64) (k : Fin 64) (r : KeyRecord) :
    (recheckKey keys down k r).due = r.due := by
  unfold recheckKey
  split <;> rfl

/-- A sweep that ends leaves nothing due, and is over. -/
theorem closeSweep_cases (s : State) : closeSweep s = s ∨
    ((∀ k, (keyOf s k).due = none) ∧ (∀ k, (keyOf (closeSweep s) k).due = none) ∧ (closeSweep s).panel.sweepOpen = false) := by
  cases isOpen : s.panel.sweepOpen with
  | false => exact .inl (closeSweep_shut isOpen)
  | true =>
    by_cases left : ∃ k, (keyOf s k).due ≠ none
    · exact .inl (closeSweep_left left)
    · have idle : ∀ k, (keyOf s k).due = none := fun k => not_not.mp (not_exists.mp left k)
      refine .inr ⟨idle, fun k => ?_, ?_⟩
      · rw [closeSweep_ends isOpen idle, keyOf, setPanel_panel, endSweep, Table.get_mapIdx, recheckKey_due]
        exact idle k
      · rw [closeSweep_ends isOpen idle]
        rfl

theorem closeSweep_due (k : Fin 64) : (keyOf (closeSweep s) k).due = (keyOf s k).due := by
  obtain same | ⟨before, after, -⟩ := closeSweep_cases s
  · rw [same]
  · rw [after, before]

theorem closeSweep_closeSweep : closeSweep (closeSweep s) = closeSweep s := by
  obtain same | ⟨-, -, shut⟩ := closeSweep_cases s
  · rw [same, same]
  · exact closeSweep_shut shut

/-- A sweep that ends has nothing left to come about. -/
theorem closeSweep_foldl_closeSweep (l : List (Fin 64)) :
    closeSweep (l.foldl performDue (closeSweep s)) = closeSweep (l.foldl performDue s) := by
  obtain same | ⟨before, after, -⟩ := closeSweep_cases s
  · rw [same]
  · rw [foldl_performDue_idle fun k _ => before k, foldl_performDue_idle fun k _ => after k, closeSweep_closeSweep]

end

/-! ## The commands of a key (R112–R116) -/

section
variable {s : State} {k : Fin 64}

theorem performUpTo_first (first : ∀ j, j < k → (keyOf s j).due = none) : performUpTo k s = closeSweep (performDue s k) := by
  refine congrArg closeSweep (foldl_performDue_only ((nodup_finUpTo 64).filter _) ?_ fun j member other => ?_)
  · exact List.mem_filter.mpr ⟨Table.mem_finUpTo k, decide_eq_true (le_refl k.val)⟩
  · exact first j (lt_of_le_of_ne (of_decide_eq_true (List.mem_filter.mp member).2) other)

theorem performUpTo_due : (keyOf (performUpTo k s) k).due = none := by
  rw [performUpTo, closeSweep_due, foldl_performDue_due, if_pos]
  exact List.mem_filter.mpr ⟨Table.mem_finUpTo k, decide_eq_true (le_refl k.val)⟩

/-- The command under which what is due on a key comes about. -/
def dueCommand (k : Fin 64) : KeyDue → Instr
  | .debounced => .keyDebounceDone k
  | .long => .keyLong k
  | .again => .keyRepeat k
  | .stuck => .keyStuck k
  | .release => .keyRelease k

/-- What that command leaves. -/
def afterDue (k : Fin 64) (s : State) (due : KeyDue) : State := if (keyOf s k).due = some due then performUpTo k s else s

theorem exec_dueCommand (k : Fin 64) (s : State) (due : KeyDue) : exec (dueCommand k due) s = .next (afterDue k s due) := by
  cases due <;> exact (apply_ite Host.Outcome.next _ _ _).symm

theorem afterDue_other {due : KeyDue} (other : (keyOf s k).due ≠ some due) : afterDue k s due = s := if_neg other

theorem exec_dueCommand_first {due : KeyDue} {t : State} (first : ∀ j, j < k → (keyOf s j).due = none)
    (isDue : (keyOf s k).due = some due) (does : performDue s k = t) :
    exec (dueCommand k due) s = .next (closeSweep t) := by
  rw [exec_dueCommand, afterDue, if_pos isDue, performUpTo_first first, does]

/-- What the five commands of a key leave, one after another: at most one of them does anything. -/
def afterCommands (s : State) (k : Fin 64) : State := if (keyOf s k).due = none then s else performUpTo k s

theorem foldl_afterDue_idle (idle : (keyOf s k).due = none) (l : List KeyDue) : l.foldl (afterDue k) s = s := by
  induction l with
  | nil => rfl
  | cons due l ih => rw [List.foldl_cons, afterDue_other (by rw [idle]; exact (Option.some_ne_none due).symm), ih]

theorem foldl_afterDue_due {due : KeyDue} (isDue : (keyOf s k).due = some due) {l : List KeyDue} (member : due ∈ l) :
    l.foldl (afterDue k) s = performUpTo k s := by
  induction l with
  | nil => cases member
  | cons x l ih =>
    rw [List.foldl_cons]
    by_cases same : x = due
    · rw [same, afterDue, if_pos isDue, foldl_afterDue_idle performUpTo_due]
    · rw [afterDue_other (by rw [isDue]; exact fun e => same (Option.some.inj e).symm)]
      exact ih ((List.mem_cons.mp member).resolve_left (Ne.symm same))

theorem foldl_afterDue {l : List KeyDue} (every : ∀ due, due ∈ l) : l.foldl (afterDue k) s = afterCommands s k := by
  unfold afterCommands
  split
  · next idle => exact foldl_afterDue_idle idle l
  · next left =>
    obtain ⟨due, isDue⟩ := Option.ne_none_iff_exists'.mp left
    exact foldl_afterDue_due isDue (every due)

end

/-! ## What the sweep before left due (log 8) -/

/-- The commands key by key and the rest of the sweep done at once leave the same, but that the sweep may end earlier. -/
theorem closeSweep_foldl_afterCommands {l : List (Fin 64)} (sorted : l.Pairwise (· < ·)) {s : State}
    (others : ∀ j, j ∉ l → (keyOf s j).due = none) :
    closeSweep (l.foldl afterCommands s) = closeSweep (l.foldl performDue s) := by
  induction l generalizing s with
  | nil => rfl
  | cons k l ih =>
    obtain ⟨least, sorted⟩ := List.pairwise_cons.mp sorted
    have first : ∀ j, j < k → (keyOf s j).due = none := fun j lt => others j fun member =>
      (List.mem_cons.mp member).elim (ne_of_lt lt) fun later => lt_asymm lt (least j later)
    have done : closeSweep (l.foldl performDue (afterCommands s k)) = closeSweep (l.foldl performDue (performDue s k)) := by
      unfold afterCommands
      split
      · next idle => rw [performDue_of_none idle]
      · rw [performUpTo_first first, closeSweep_foldl_closeSweep]
    have rest : ∀ j, j ∉ l → (keyOf (afterCommands s k) j).due = none := by
      intro j past
      have due : (keyOf (performDue s k) j).due = none := by
        rw [performDue_due]
        split
        · rfl
        · next other => exact others j fun member => (List.mem_cons.mp member).elim other past
      unfold afterCommands
      split
      · next idle => rwa [performDue_of_none idle] at due
      · rw [performUpTo_first first, closeSweep_due, due]
    rw [List.foldl_cons, ih sorted rest, done, List.foldl_cons]

theorem finishSweep_eq (s : State) : finishSweep s = closeSweep ((finUpTo 64).foldl afterCommands s) :=
  (closeSweep_foldl_afterCommands (finUpTo_sorted 64) fun j absent => absurd (Table.mem_finUpTo j) absent).symm

theorem finishSweep_idle {s : State} (shut : s.panel.sweepOpen = false) (idle : ∀ k, (keyOf s k).due = none) :
    finishSweep s = s := by
  rw [finishSweep, foldl_performDue_idle fun k _ => idle k, closeSweep_shut shut]

/-- The commands of every key, one after another. -/
theorem foldl_keyCommands {run : Step → Instr → Step} (runs : ∀ t c, run (.next t) c = exec c t) (l : List (Fin 64)) (s : State) :
    (l.flatMap fun k => [Instr.keyDebounceDone k, .keyLong k, .keyRepeat k, .keyStuck k, .keyRelease k]).foldl run (.next s) =
      .next (l.foldl afterCommands s) := by
  induction l generalizing s with
  | nil => rfl
  | cons k l ih =>
    have five : [Instr.keyDebounceDone k, .keyLong k, .keyRepeat k, .keyStuck k, .keyRelease k].foldl run (.next s) =
        .next (afterCommands s k) := by
      rw [← foldl_afterDue (l := [.debounced, .long, .again, .stuck, .release]) (fun due => by cases due <;> decide),
        ← foldl_commands runs (exec_dueCommand k)]
      rfl
    rw [List.flatMap_cons, List.foldl_append, five, ih, List.foldl_cons]

/-! ## Sweeps (R111–R116) -/

section
variable {t : ScanTimings} {down : Bool} {r : KeyRecord}

theorem sweepKey_free (free : r.state = .up ∨ r.state = .arming) :
    sweepKey t down r = sweepFree t down (if r.state = .up then { r with count := 0 } else r) := by
  obtain up | arming := free
  · rw [sweepKey, up, if_pos rfl]
  · rw [sweepKey, arming, if_neg (by decide)]

theorem sweepKey_ghost (ghost : r.state = .ghost) : sweepKey t down r = r := by rw [sweepKey, ghost]

theorem sweepKey_held (held : r.state = .down ∨ r.state = .longHeld ∨ r.state = .stuck) :
    sweepKey t down r = sweepHeld t down r := by
  unfold sweepKey
  obtain state | state | state := held <;> rw [state]

theorem sweepHeld_release (long : t.debounce ≤ (sweepHeld t down r).count) : (sweepHeld t down r).due = some .release :=
  if_pos long

theorem sweepHeld_stuck (short : (sweepHeld t down r).count < t.debounce) (stuck : r.state = .stuck) :
    (sweepHeld t down r).due = none := (if_neg (Nat.not_le.mpr short)).trans (if_pos stuck)

/-- A key in DOWN or LONG_HELD whose release is not accepted: its hold count decides. -/
theorem sweepHeld_holds (short : (sweepHeld t down r).count < t.debounce) (held : r.state ≠ .stuck) :
    (sweepHeld t down r).due = if 1000 * t.stuck ≤ (sweepHeld t down r).hold then some .stuck
      else if r.state = .down then (if 100 * t.long ≤ (sweepHeld t down r).hold then some .long else none)
      else if r.next ≤ (sweepHeld t down r).hold then some .again else none :=
  (if_neg (Nat.not_le.mpr short)).trans (if_neg held)

end

theorem sweepOfAKey_rule : Rules.SweepOfAKey := by
  intro t down r q held
  refine ⟨sweepKey_ghost, ?_, fun up pressed => ?_, fun arming pressed => ?_, ?_, fun holds => ?_, fun holds long => ?_,
    fun stuck short => ?_, fun holds short => ?_⟩
  · rintro free rfl
    have swept : q = _ := sweepKey_free free
    rw [swept]
    exact ⟨rfl, rfl, rfl⟩
  · have swept : q = _ := sweepKey_free (.inl up)
    rw [swept, pressed, if_pos up]
    exact ⟨rfl, rfl⟩
  · have swept : q = _ := sweepKey_free (.inr arming)
    rw [swept, pressed, if_neg (by rw [arming]; decide)]
    exact ⟨rfl, rfl⟩
  · rintro free rfl
    have swept : q = _ := sweepKey_free free
    rw [swept]
    rfl
  · have swept : q = _ := sweepKey_held holds
    rw [swept]
    exact ⟨rfl, rfl, rfl, rfl⟩
  · have swept : q = _ := sweepKey_held holds
    rw [swept] at long ⊢
    exact sweepHeld_release long
  · have swept : q = _ := sweepKey_held (.inr (.inr stuck))
    rw [swept] at short ⊢
    exact sweepHeld_stuck short stuck
  · have swept : q = _ := sweepKey_held (holds.imp_right .inl)
    have notStuck : r.state ≠ .stuck := by obtain state | state := holds <;> rw [state] <;> decide
    rw [swept] at short ⊢
    rw [sweepHeld_holds short notStuck]
    refine ⟨fun long => if_pos long, fun brief isDown => ?_, fun brief isLong => ?_⟩
    · rw [if_neg (Nat.not_le.mpr brief), if_pos isDown]
    · rw [if_neg (Nat.not_le.mpr brief), if_neg (by rw [isLong]; decide)]

/-- The keys brought up to date from their raw levels. -/
def swept (down : BitVec 64) (s : State) : State :=
  setPanel { s.panel with
    keys := s.panel.keys.mapIdx fun k r => sweepKey s.panel.timings (down.getLsbD k.val) r
    down := down
    sweepOpen := true } s

theorem exec_keyScanSweep {s t : State} {down : BitVec 64} (started : s.engine.started = true) (finished : finishSweep s = t) :
    exec (.keyScanSweep down) s = .next (closeSweep (swept down t)) := by
  subst finished
  exact if_pos started

theorem swept_key (down : BitVec 64) (s : State) (k : Fin 64) :
    (swept down s).panel.keys.get k = sweepKey s.panel.timings (down.getLsbD k.val) (s.panel.keys.get k) := Table.get_mapIdx _ _ k

theorem keyScanSweep_rule : Rules.KeyScanSweep := by
  intro s down
  refine ⟨fun still => if_neg (by rw [still]; decide), fun started shut idle => ?_, fun started => ?_⟩
  · exact ⟨swept down s, exec_keyScanSweep started (finishSweep_idle shut idle), rfl, swept_key down s⟩
  · exact ⟨_, foldl_keyCommands (fun _ _ => rfl) _ s, swept down _,
      exec_keyScanSweep started (finishSweep_eq s), rfl, swept_key down _⟩

/-! ## Ghost keys (R113) -/

theorem heldKey_iff {r : KeyRecord} : heldKey r = true ↔ r.state = .down ∨ r.state = .longHeld ∨ r.state = .stuck := by
  simp only [heldKey, Bool.or_eq_true, decide_eq_true_eq, or_assoc]

theorem eq_keyAt_iff {k : Fin 64} {row column : Fin 8} : k = keyAt row column ↔ rowOf k = row ∧ columnOf k = column := by
  simp only [keyAt, rowOf, columnOf, Fin.ext_iff]
  omega

theorem completesRectangle_iff {keys : Table KeyRecord 64} {k : Fin 64} :
    completesRectangle keys k = true ↔ ∃ r2 c2 : Fin 8, r2 ≠ rowOf k ∧ c2 ≠ columnOf k ∧
      heldKey (keys.get (keyAt (rowOf k) c2)) = true ∧ heldKey (keys.get (keyAt r2 (columnOf k))) = true ∧
      heldKey (keys.get (keyAt r2 c2)) = true := by
  simp only [completesRectangle, List.any_eq_true, Table.mem_finUpTo, true_and, Bool.and_eq_true, bne_iff_ne]
  constructor
  · rintro ⟨r2, ⟨row, side⟩, c2, ⟨column, along⟩, opposite⟩
    exact ⟨r2, c2, row, column, along, side, opposite⟩
  · rintro ⟨r2, c2, row, column, along, side, opposite⟩
    exact ⟨r2, ⟨row, side⟩, c2, ⟨column, along⟩, opposite⟩

theorem recheckKey_eq (keys : Table KeyRecord 64) (down : BitVec 64) (k : Fin 64) (r : KeyRecord) : recheckKey keys down k r =
    if r.state = .ghost ∧ completesRectangle keys k = false then
      { r with state := if down.getLsbD k.val then .arming else .up, count := 0 }
    else r := by
  simp only [recheckKey, Bool.and_eq_true, decide_eq_true_eq, Bool.not_eq_true']

theorem ghostKeys_rule : Rules.GhostKeys := by
  refine ⟨fun r => heldKey_iff, fun k row column => ⟨eq_keyAt_iff, rfl⟩, fun keys k => completesRectangle_iff,
    fun s => closeSweep_shut, fun s isOpen => ⟨closeSweep_left, fun idle => ?_⟩⟩
  rw [closeSweep_ends isOpen idle]
  exact ⟨rfl, fun k => (Table.get_mapIdx _ _ k).trans (recheckKey_eq _ _ k _)⟩

end Machine

/-- Settles O43: the commands of what a sweep made due, key by key, leave what the rest of the sweep done at once leaves, and
a sweep rewrites every key by its own state. -/
theorem keyScan : Obligations.KeyScan := ⟨Machine.sweepOfAKey_rule, Machine.keyScanSweep_rule, Machine.ghostKeys_rule⟩

end Sys2Proof

/-! PROOFS. What comes about on a key, and who hears of it (R112–R116, R118). -/

namespace Sys2Proof.Machine

section
variable {s : State} {k : Fin 64}

/-- A debounced key that would complete a rectangle is a GHOST (R113). -/
theorem performDue_ghost (isDue : (keyOf s k).due = some .debounced) (ghost : completesRectangle s.panel.keys k = true) :
    performDue s k = setKey k { keyOf s k with state := .ghost, count := 0, due := none } s := by
  simp only [performDue, isDue, ghost, if_true]

theorem performDue_press (isDue : (keyOf s k).due = some .debounced) (clear : completesRectangle s.panel.keys k = false) :
    performDue s k = deliver k (s.panel.roles.get k) .press
      (setKey k { keyOf s k with state := .down, count := 0, hold := 0, due := none } s) := by
  simp only [performDue, isDue, clear, Bool.false_eq_true, if_false]

theorem performDue_long (isDue : (keyOf s k).due = some .long) : performDue s k = deliver k (s.panel.roles.get k) .long
    (setKey k { keyOf s k with
      state := .longHeld, next := 100 * s.panel.timings.long + s.panel.timings.again, due := none } s) := by
  simp only [performDue, isDue, ScanTimings.longMs]

theorem performDue_again (isDue : (keyOf s k).due = some .again) : performDue s k = deliver k (s.panel.roles.get k) .again
    (setKey k { keyOf s k with next := (keyOf s k).next + s.panel.timings.again, due := none } s) := by
  simp only [performDue, isDue]

theorem performDue_stuck (isDue : (keyOf s k).due = some .stuck) : performDue s k = stuckNotice k (s.panel.roles.get k)
    (deliver k (s.panel.roles.get k) .stuck (setKey k { keyOf s k with state := .stuck, due := none } s)) := by
  simp only [performDue, isDue]

/-- The release of a STUCK key is told to nobody (R116). -/
theorem performDue_unstuck (isDue : (keyOf s k).due = some .release) (stuck : (keyOf s k).state = .stuck) :
    performDue s k = setKey k upKey s := by
  simp only [performDue, isDue, stuck, if_true]

theorem performDue_release (isDue : (keyOf s k).due = some .release) (free : (keyOf s k).state ≠ .stuck) :
    performDue s k = deliver k (s.panel.roles.get k) .release (setKey k upKey s) := by
  simp only [performDue, isDue, free, if_false]

end

theorem keyEvents_rule : Rules.KeyEvents := by
  intro s k first
  refine ⟨fun isDue => ⟨fun ghost => ?_, fun clear => ?_⟩, fun isDue => ?_, fun isDue => ?_, fun isDue => ?_,
    fun isDue => ⟨fun stuck => ?_, fun free => ?_⟩⟩
  · exact exec_dueCommand_first first isDue (performDue_ghost isDue ghost)
  · exact exec_dueCommand_first first isDue (performDue_press isDue clear)
  · exact exec_dueCommand_first first isDue (performDue_long isDue)
  · exact exec_dueCommand_first first isDue (performDue_again isDue)
  · exact exec_dueCommand_first first isDue (performDue_stuck isDue)
  · exact exec_dueCommand_first first isDue (performDue_unstuck isDue stuck)
  · exact exec_dueCommand_first first isDue (performDue_release isDue free)

theorem keyDelivery_rule : Rules.KeyDelivery := by
  intro s k event
  refine ⟨rfl, ?_, ?_, ?_, ?_, fun e => ⟨?_, ?_, ?_⟩⟩
  · rintro d (rfl | rfl | rfl) <;> rfl
  · rintro d (rfl | rfl) <;> rfl
  · rintro p (rfl | rfl | rfl) <;> rfl
  · rintro p (rfl | rfl) <;> rfl
  · rintro rfl; exact ⟨rfl, rfl, rfl, rfl⟩
  · rintro rfl; rfl
  · rintro rfl; exact ⟨rfl, rfl⟩

end Sys2Proof.Machine

namespace Sys2Proof

/-- Settles O44: each event is one case of what is due on a key, and each listener one case of its role. -/
theorem keyEvents : Obligations.KeyEvents := ⟨Machine.keyEvents_rule, Machine.keyDelivery_rule⟩

end Sys2Proof

/-! PROOFS. SCAN_SET, KEYMAP_SET and LAMP_TEST, and the records of the first two (R117–R121, R128). -/

namespace Sys2Proof

namespace Table
variable {α : Type} {n : Nat} (t : Table α n) (f : Fin n → α → α) {i : Fin n} {l : List (Fin n)}

theorem get_mapOn (i : Fin n) : (t.mapOn f l).get i = if i ∈ l then f i (t.get i) else t.get i := get_mapIdx _ _ i

/-- One number more rewritten. -/
theorem mapOn_concat {g : Fin n → α → α} (new : i ∉ l) (same : g i (t.get i) = f i (t.get i)) :
    (t.mapOn f l).mapOn g [i] = t.mapOn f (l ++ [i]) :=
  ext fun j => by
    simp only [get_mapOn, List.mem_append, List.mem_singleton]
    by_cases e : j = i
    · subst e; simp only [new, same, if_true, if_false, or_true]
    · simp only [e, if_false, or_false]

end Table

namespace Machine

/-! ## The records (R117, R120, R121) -/

theorem readTimings_fst (ps : List Byte) : (readTimings ps).1 =
    { debounce := max 5 (min 40 (natAt ps 0)), long := max 5 (min 50 (natAt ps 1)),
      again := max 100 (min 1000 (natAt ps 2 * 256 + natAt ps 3)), stuck := max 10 (min 120 (natAt ps 4)) } := by
  simp [readTimings, clampNat_fst, wordAt]

theorem readTimings_snd (ps : List Byte) : (readTimings ps).2 = true ↔ natAt ps 0 < 5 ∨ 40 < natAt ps 0 ∨ natAt ps 1 < 5 ∨
    50 < natAt ps 1 ∨ natAt ps 2 * 256 + natAt ps 3 < 100 ∨ 1000 < natAt ps 2 * 256 + natAt ps 3 ∨ natAt ps 4 < 10 ∨
    120 < natAt ps 4 := by
  simp only [readTimings, Bool.or_eq_true, clampNat_snd, wordAt, or_assoc]

theorem readRoles_cons (b : Byte) (bs : List Byte) : readRoles (b :: bs) = match readRole b, readRoles bs with
    | some r, some rest => some (r :: rest)
    | _, _ => none := by
  cases read : readRole b <;> cases reads : readRoles bs <;> simp [readRoles, read, reads]

/-- Every byte that is a role's is that role's byte: all 256 of them. -/
theorem writeRole_readRole : ∀ b r, readRole b = some r → writeRole r = b := by
  have each : ∀ b : Byte, (readRole b).all (fun r => writeRole r = b) = true := by decide +kernel
  intro b r read
  have same := each b
  rw [read] at same
  exact of_decide_eq_true same

theorem readRole_eq_none_iff : ∀ b : Byte, readRole b = none ↔ ¬(b = 0x00 ∨
    (0x10 ≤ b.toNat ∧ b.toNat ≤ 0x4B ∧ b.toNat % 16 ≤ 11) ∨
    (0x50 ≤ b.toNat ∧ b.toNat ≤ 0x53) ∨ (0x60 ≤ b.toNat ∧ b.toNat ≤ 0x62)) := by decide +kernel

theorem panelRecords_rule : Rules.PanelRecords :=
  ⟨fun ps => ⟨readTimings_fst ps, readTimings_snd ps⟩, by decide, by decide, by decide, by decide, by decide +kernel,
    by decide +kernel, readRole_eq_none_iff, writeRole_readRole, rfl, readRoles_cons⟩

/-! ## Roles written (R120) -/

/-- A held key whose role changes: it is RELEASED under its old role. -/
abbrev losesRole (role : Fin 64 → Role) (u : Panel) (k : Fin 64) : Prop :=
  role k ≠ u.roles.get k ∧ ((u.keys.get k).state = .down ∨ (u.keys.get k).state = .longHeld)

/-- Such a key starts again from its raw level. -/
def keyRestarted (role : Fin 64 → Role) (u : Panel) (k : Fin 64) (r : KeyRecord) : KeyRecord :=
  if losesRole role u k then ⟨if u.down.getLsbD k.val then .arming else .up, 0, 0, 0, none⟩ else r

/-- The roles of some positions written, and their keys with them. -/
def Panel.withRoles (role : Fin 64 → Role) (l : List (Fin 64)) (u : Panel) : Panel :=
  { u with roles := u.roles.mapOn (fun k _ => role k) l, keys := u.keys.mapOn (keyRestarted role u) l }

/-- The RELEASEs of some keys, each under its role in a panel. -/
def released (u : Panel) (l : List (Fin 64)) (s : State) : State := l.foldl (fun t k => deliver k (u.roles.get k) .release t) s

/-- The roles of some positions written, and the RELEASEs that this brings about. -/
def rolesWritten (role : Fin 64 → Role) (l : List (Fin 64)) (s : State) : State :=
  released s.panel (l.filter fun k => losesRole role s.panel k) (setPanel (s.panel.withRoles role l) s)

section
variable {role : Fin 64 → Role} {u : Panel} {l : List (Fin 64)} {k : Fin 64} {s : State}

theorem released_panel : (released u l s).panel = s.panel := by
  induction l generalizing s with
  | nil => rfl
  | cons k l ih => exact ih.trans deliver_panel

theorem released_setPanel (v : Panel) : released u l (setPanel v s) = setPanel v (released u l s) := by
  induction l generalizing s with
  | nil => rfl
  | cons k l ih =>
    rw [released, List.foldl_cons, deliver_setPanel]
    exact ih

theorem released_append (l m : List (Fin 64)) : released u (l ++ m) s = released u m (released u l s) := List.foldl_append

theorem released_filter_singleton (p : Fin 64 → Prop) [DecidablePred p] : released u ([k].filter fun k => p k) s =
    if p k then deliver k (u.roles.get k) .release s else s := by
  by_cases loses : p k
  · rw [List.filter_cons_of_pos (p := fun k => p k) (decide_eq_true loses), if_pos loses]
    rfl
  · rw [List.filter_cons_of_neg (p := fun k => p k) (mt of_decide_eq_true loses), if_neg loses]
    rfl

@[simp] theorem rolesWritten_panel : (rolesWritten role l s).panel = s.panel.withRoles role l := released_panel

theorem withRoles_role_of_not_mem (new : k ∉ l) : (u.withRoles role l).roles.get k = u.roles.get k :=
  (Table.get_mapOn _ _ k).trans (if_neg new)

theorem withRoles_key_of_not_mem (new : k ∉ l) : (u.withRoles role l).keys.get k = u.keys.get k :=
  (Table.get_mapOn _ _ k).trans (if_neg new)

theorem losesRole_withRoles (new : k ∉ l) : losesRole role (u.withRoles role l) k ↔ losesRole role u k := by
  rw [losesRole, withRoles_role_of_not_mem new, withRoles_key_of_not_mem new]

theorem withRoles_concat (new : k ∉ l) : (u.withRoles role l).withRoles role [k] = u.withRoles role (l ++ [k]) := by
  have roles := u.roles.mapOn_concat (fun k _ => role k) (g := fun k _ => role k) new rfl
  have restarted : keyRestarted role (u.withRoles role l) k (u.keys.get k) = keyRestarted role u k (u.keys.get k) := by
    simp only [keyRestarted, losesRole_withRoles new]
    rfl
  have keys := u.keys.mapOn_concat (keyRestarted role u) new restarted
  rw [Panel.withRoles]
  simp only [Panel.withRoles] at keys ⊢
  rw [roles, keys]

theorem rolesWritten_nil : rolesWritten role [] s = s := by
  simp only [rolesWritten, Panel.withRoles, Table.mapOn_nil]
  rfl

theorem rolesWritten_singleton : rolesWritten role [k] s = if losesRole role s.panel k then
    deliver k (s.panel.roles.get k) .release (setPanel (s.panel.withRoles role [k]) s)
      else setPanel (s.panel.withRoles role [k]) s :=
  released_filter_singleton (losesRole role s.panel)

/-- One position more written. -/
theorem rolesWritten_concat (new : k ∉ l) : rolesWritten role [k] (rolesWritten role l s) = rolesWritten role (l ++ [k]) s := by
  have written : setPanel ((s.panel.withRoles role l).withRoles role [k]) (rolesWritten role l s) =
      released s.panel (l.filter fun k => losesRole role s.panel k) (setPanel (s.panel.withRoles role (l ++ [k])) s) := by
    rw [withRoles_concat new, rolesWritten, ← released_setPanel]
    rfl
  rw [rolesWritten_singleton, rolesWritten_panel, written]
  simp only [losesRole_withRoles new, withRoles_role_of_not_mem new]
  rw [rolesWritten, List.filter_append, released_append, released_filter_singleton (losesRole role s.panel)]

theorem withRoles_singleton : u.withRoles role [k] =
    { u with roles := u.roles.set k (role k), keys := u.keys.set k (keyRestarted role u k (u.keys.get k)) } := by
  rw [Panel.withRoles, ← Table.mapOn_cons _ _ List.not_mem_nil, ← Table.mapOn_cons _ _ List.not_mem_nil, Table.mapOn_nil,
    Table.mapOn_nil]
  rfl

theorem keyRestarted_keeps (keeps : ¬losesRole role u k) (r : KeyRecord) : keyRestarted role u k r = r := if_neg keeps

theorem changeRole_same (k : Fin 64) (s : State) : changeRole k (s.panel.roles.get k) s = s := if_pos rfl

/-- R120: one position written. -/
theorem changeRole_eq (role : Fin 64 → Role) (k : Fin 64) (s : State) : changeRole k (role k) s = rolesWritten role [k] s := by
  rw [rolesWritten_singleton, withRoles_singleton]
  by_cases same : role k = s.panel.roles.get k
  · have keeps : ¬losesRole role s.panel k := fun loses => loses.1 same
    rw [if_neg keeps, keyRestarted_keeps keeps, same, changeRole_same, Table.set_eq_self rfl, Table.set_eq_self rfl]
    rfl
  · rw [changeRole]
    dsimp only
    rw [if_neg same]
    by_cases held : (s.panel.keys.get k).state = .down ∨ (s.panel.keys.get k).state = .longHeld
    · have loses : losesRole role s.panel k := ⟨same, held⟩
      rw [if_pos loses, keyRestarted, if_pos loses]
      exact if_pos held
    · have keeps : ¬losesRole role s.panel k := fun loses => held loses.2
      rw [if_neg keeps, keyRestarted_keeps keeps, Table.set_eq_self rfl]
      exact if_neg held

end

/-- The role a position has after roles written from a position onward. -/
def roleWritten (first : Nat) (roles : List Role) (u : Panel) (k : Fin 64) : Role :=
  if first ≤ k.val then (roles[k.val - first]?).getD (u.roles.get k) else u.roles.get k

section
variable {first : Nat} {roles : List Role} {s : State}

theorem foldl_writeRole {l : List (Fin 64)} (once : l.Nodup) :
    l.foldl (fun t k => changeRole k (roleWritten first roles t.panel k) t) s =
      rolesWritten (roleWritten first roles s.panel) l s := by
  induction l using List.reverseRecOn with
  | nil => rw [List.foldl_nil, rolesWritten_nil]
  | append_singleton l k ih =>
    obtain ⟨distinct, -, apart⟩ := List.nodup_append.mp once
    have new : k ∉ l := fun member => apart k member k List.mem_cons_self rfl
    have role : roleWritten first roles (s.panel.withRoles (roleWritten first roles s.panel) l) k =
        roleWritten first roles s.panel k := by
      rw [roleWritten, withRoles_role_of_not_mem new, roleWritten]
    rw [List.foldl_concat, ih distinct, rolesWritten_panel, role, changeRole_eq, rolesWritten_concat new]

theorem writeRoles_eq (first : Nat) (roles : List Role) (s : State) :
    writeRoles first roles s = rolesWritten (roleWritten first roles s.panel) (finUpTo 64) s := by
  unfold writeRoles
  rw [← foldl_writeRole (nodup_finUpTo 64)]
  refine congrArg (fun step => (finUpTo 64).foldl step s) (funext fun t => funext fun k => ?_)
  unfold roleWritten
  split
  · cases roles[k.val - first]? with
    | none => exact (changeRole_same k t).symm
    | some r => rfl
  · exact (changeRole_same k t).symm

end

/-! ## KEYMAP_SET and SCAN_SET (R120, R121) -/

section
variable {s : State} {p : Port} {ps : List Byte}

theorem scanSet_busy (busy : saving s = true) : scanSet ps s = refuse .busy s := if_pos busy

theorem scanSet_lit (idle : saving s = false) (lit : bothHallsDark s = false) : scanSet ps s = refuse .state s := by
  simp only [scanSet, idle, lit, Bool.not_false, Bool.false_eq_true, if_true, if_false]

theorem scanSet_dark (idle : saving s = false) (dark : bothHallsDark s = true) :
    scanSet ps s = accept (readTimings ps).2 [] (setPanel { s.panel with timings := (readTimings ps).1 } s) := by
  simp only [scanSet, idle, dark, Bool.not_true, Bool.false_eq_true, if_false]

/-- The first test of KEYMAP_SET (log 30). -/
abbrev keymapBad (ps : List Byte) : Prop :=
  63 < natAt ps 0 ∨ natAt ps 1 = 0 ∨ 32 < natAt ps 1 ∨ 64 < natAt ps 0 + natAt ps 1 ∨ ps.length ≠ 2 + natAt ps 1

theorem keymapSet_bad (bad : keymapBad ps) : keymapSet ps s = refuse .range s := if_pos bad

variable (good : ¬keymapBad ps)
include good

theorem keymapSet_busy (busy : saving s = true) : keymapSet ps s = refuse .busy s := (if_neg good).trans (if_pos busy)

variable (idle : saving s = false)
include idle

theorem keymapSet_lit (lit : bothHallsDark s = false) : keymapSet ps s = refuse .state s := by
  refine (if_neg good).trans ?_
  simp only [idle, lit, Bool.not_false, Bool.false_eq_true, if_true, if_false]

variable (dark : bothHallsDark s = true)
include dark

theorem keymapSet_unread (unread : readRoles (ps.drop 2) = none) : keymapSet ps s = refuse .range s := by
  refine (if_neg good).trans ?_
  simp only [idle, dark, unread, Bool.not_true, Bool.false_eq_true, if_false]

theorem keymapSet_reads {roles : List Role} (read : readRoles (ps.drop 2) = some roles) :
    keymapSet ps s = accept false [] (rolesWritten (roleWritten (natAt ps 0) roles s.panel) (finUpTo 64) s) := by
  refine (if_neg good).trans ?_
  simp only [idle, dark, read, writeRoles_eq, Bool.not_true, Bool.false_eq_true, if_false]

end

theorem exec_keymapSet_reads {s : State} {p : Port} {ps : List Byte} {roles : List Role} (asks : Asks s p 0x40 ps)
    (good : ¬keymapBad ps) (idle : saving s = false) (dark : bothHallsDark s = true) (read : readRoles (ps.drop 2) = some roles) :
    exec (.keymapSet p) s = .next (answer p .ok []
      (rolesWritten (roleWritten (natAt ps 0) roles s.panel) (finUpTo 64) (withoutRequest p s))) :=
  Asks.answered (a := false) asks (keymapSet_reads (s := withoutRequest p s) good idle dark read)

theorem withRoles_role (role : Fin 64 → Role) (u : Panel) (k : Fin 64) : (u.withRoles role (finUpTo 64)).roles.get k = role k :=
  (Table.get_mapOn _ _ k).trans (if_pos (Table.mem_finUpTo k))

theorem withRoles_key (role : Fin 64 → Role) (u : Panel) (k : Fin 64) :
    (u.withRoles role (finUpTo 64)).keys.get k = keyRestarted role u k (u.keys.get k) :=
  (Table.get_mapOn _ _ k).trans (if_pos (Table.mem_finUpTo k))

/-! ## LAMP_TEST (R128) -/

theorem not_boothEntrance {p : Port} {l : Fin 16} (allowed : p ≠ .booth ∨ 12 ≤ l.val) :
    ¬(decide (p = .booth) && decide (l.val < 12)) = true := by
  rw [Bool.and_eq_true, decide_eq_true_eq, decide_eq_true_eq]
  rintro ⟨booth, entrance⟩
  exact allowed.elim (fun other => other booth) (Nat.not_le.mpr entrance)

section
variable {s : State} {p : Port} {ps : List Byte}

theorem lampTest_noLamp (high : 15 < natAt ps 0) : lampTest p ps s = refuse .range s := by
  simp only [lampTest, finUpTo_eq_none_iff.mpr high]

variable {l : Fin 16} (lamp : (finUpTo 16)[natAt ps 0]? = some l)
include lamp

theorem lampTest_badCode (bad : 5 < natAt ps 1) : lampTest p ps s = refuse .range s := by
  simp only [lampTest, lamp]
  exact if_pos bad

variable (code : natAt ps 1 ≤ 5)
include code

theorem lampTest_denied (booth : p = .booth) (entrance : l.val < 12) : lampTest p ps s = refuse .denied s := by
  simp only [lampTest, lamp]
  refine (if_neg (Nat.not_lt.mpr code)).trans (if_pos ?_)
  exact Bool.and_eq_true_iff.mpr ⟨decide_eq_true booth, decide_eq_true entrance⟩

variable (allowed : p ≠ .booth ∨ 12 ≤ l.val)
include allowed

/-- Past the tests of R128 the pattern's byte decides. -/
theorem lampTest_cancels (cancel : nameAt patternNames ps 1 = none) :
    lampTest p ps s = accept false [] (setLamp l { s.panel.lamps.get l with testNew := some none } s) := by
  simp only [lampTest, lamp, cancel]
  exact (if_neg (Nat.not_lt.mpr code)).trans (if_neg (not_boothEntrance allowed))

theorem lampTest_sets {pattern : Pattern} (named : nameAt patternNames ps 1 = some pattern) :
    lampTest p ps s = accept (decide (natAt ps 2 < 1 ∨ 30 < natAt ps 2)) [] (setLamp l { s.panel.lamps.get l with
      testNew := some (some ⟨pattern, 0, 8 * max 1 (min 30 (natAt ps 2))⟩) } s) := by
  simp only [lampTest, lamp, named, clampNat_eq (show 1 ≤ 30 by decide)]
  exact (if_neg (Nat.not_lt.mpr code)).trans (if_neg (not_boothEntrance allowed))

end

theorem panelRequests_rule : Rules.PanelRequests := by
  intro s p ps
  refine ⟨fun asks => ⟨fun busy => asks.refused (scanSet_busy busy), fun idle lit => asks.refused (scanSet_lit idle lit),
      fun idle dark => ?_⟩,
    fun asks => ⟨fun bad => asks.refused (keymapSet_bad bad), fun good busy => asks.refused (keymapSet_busy good busy),
      fun good idle lit => asks.refused (keymapSet_lit good idle lit),
      fun good idle dark unread => asks.refused (keymapSet_unread good idle dark unread), fun roles good idle dark read => ?_⟩,
    fun l code seconds asks high => asks.refused (lampTest_noLamp high), fun l code seconds asks => ?_⟩
  · exact asks.accepted (setPanel { s.panel with timings := (readTimings ps).1 }) (scanSet_dark idle dark) fun _ => rfl
  · refine ⟨(s.panel.withRoles (roleWritten (natAt ps 0) roles s.panel) (finUpTo 64)).roles,
      (s.panel.withRoles (roleWritten (natAt ps 0) roles s.panel) (finUpTo 64)).keys,
      exec_keymapSet_reads asks good idle dark read, fun k => ⟨withRoles_role _ _ k, fun loses => ?_, fun keeps => ?_⟩⟩
    · exact (withRoles_key _ _ k).trans (if_pos loses)
    · exact (withRoles_key _ _ k).trans (if_neg fun loses => keeps.elim loses.1 fun free => free loses.2)
  · have lamp : (finUpTo 16)[natAt [byteOf l.val, code, seconds] 0]? = some l := finUpTo_byteOf l (by decide) _
    refine ⟨fun bad => asks.refused (lampTest_badCode lamp bad),
      fun low booth entrance => asks.refused (lampTest_denied lamp low booth entrance), fun allowed => ⟨?_, fun pattern named => ?_⟩⟩
    · rintro rfl
      exact asks.accepted (setLamp l { s.panel.lamps.get l with testNew := some none })
        (lampTest_cancels lamp (le_refl 5) allowed rfl) fun _ => rfl
    · have low : code.toNat < 5 := (List.getElem?_eq_some_iff.mp named).1
      exact asks.accepted (setLamp l { s.panel.lamps.get l with
        testNew := some (some ⟨pattern, 0, 8 * max 1 (min 30 seconds.toNat)⟩) })
        (lampTest_sets lamp (Nat.le_of_lt low) allowed named) fun _ => rfl

end Machine

/-- Settles O45: the tests of the three requests in order; the roles written position by position are all written at once,
and the RELEASEs follow in position order. -/
theorem panelRequests : Obligations.PanelRequests := ⟨Machine.panelRequests_rule, Machine.panelRecords_rule⟩

end Sys2Proof

/-! PROOFS. The lamps: what each shows, a frame boundary, and what is taken between boundaries (R123–R128). -/

namespace Sys2Proof.Machine

/-! ## Which unit's state a lamp shows -/

theorem lampOwner_lampOf (e : Fin 12) : lampOwner (lampOf e) = .inl e := dif_pos e.isLt

theorem lampOwner_tallyLamp (d : Fin 4) : lampOwner (tallyLamp d) = .inr d :=
  (dif_neg (show ¬d.val + 12 < 12 by omega)).trans (congrArg Sum.inr (Fin.ext (Nat.add_sub_cancel d.val 12)))

theorem lampPatterns_rule : Rules.LampPatterns := by
  refine ⟨fun s l count => decide_eq_true_iff, fun f => ⟨rfl, rfl, rfl, rfl, rfl⟩, fun r => ⟨fun t test => ?_,
    fun n test refuse _ => ?_, fun test refuse => ?_⟩, fun state => ?_, fun y => ?_⟩
  · rw [Lamp.shown, test]
  · rw [Lamp.shown, test, refuse]
  · obtain refuse | refuse := refuse <;> rw [Lamp.shown, test, refuse]
  · cases state <;> rfl
  · unfold tallyPattern
    cases y.offered <;> rfl

/-! ## A frame boundary (R123–R128) -/

namespace Lamp
variable (r : Lamp)

theorem endRefuse_eq : r.endRefuse = { r with refuse := if r.refuse = some 0 then none else r.refuse } := by
  unfold endRefuse
  split <;> rfl

theorem endTest_eq : r.endTest = { r with test := if r.test.any (fun x : LampTest => x.left = 0) then none else r.test } := by
  obtain ⟨pattern, frame, refuse, refuseNew, test, testNew, brightness⟩ := r
  cases test with
  | none => rfl
  | some t =>
    simp only [endTest, Option.any_some, decide_eq_true_eq]
    split <;> rfl

theorem take_eq (pattern : Pattern) :
    r.take pattern = { r with pattern := pattern, frame := if pattern = r.pattern then r.frame else 0 } := by
  unfold take
  split
  · next same => rw [same]
  · rfl

/-- The lamp that shows a frame: the overlay and the test of this frame, and its pattern with the frame it is at. -/
def framed (pattern : Pattern) (frame : Nat) : Lamp :=
  let refuse := if r.refuseNew then some 8 else if r.refuse = some 0 then none else r.refuse
  let test := match r.testNew with
    | some test => test
    | none => if r.test.any (fun x : LampTest => x.left = 0) then none else r.test
  { r with
    pattern := pattern
    frame := (frame + 1) % 8
    refuse := refuse.map fun n => n - 1
    refuseNew := false
    test := test.map fun x : LampTest => ⟨x.pattern, (x.frame + 1) % 8, x.left - 1⟩
    testNew := none
    brightness := Lamp.shown { r with pattern := pattern, frame := frame, refuse := refuse, test := test } }

theorem begin_show (pattern : Pattern) (frame : Nat) :
    ({ r.endRefuse.endTest with pattern := pattern, frame := frame } : Lamp).begin.show = r.framed pattern frame := by
  rw [endTest_eq, endRefuse_eq, framed, begin]
  cases r.testNew <;> rfl

/-- The frame a pattern is at: it goes on, or starts where it differs from the present one (R125). -/
theorem take_begin_show (pattern : Pattern) :
    (r.endRefuse.endTest.take pattern).begin.show = r.framed pattern (if pattern = r.pattern then r.frame else 0) := by
  rw [take_eq, begin_show, endTest_eq, endRefuse_eq]

end Lamp

theorem TallyRecord.begin_show (y : TallyRecord) :
    y.begin.show = ⟨y.offered, if y.offered = .cut then min 16 ((if y.cutNew then 0 else y.cut) + 1) else 0, false⟩ := by
  have begun : y.begin = ⟨y.offered, if y.cutNew then 0 else y.cut, false⟩ := by
    obtain ⟨offered, cut, cutNew⟩ := y
    cases cutNew <;> rfl
  rw [begun, TallyRecord.show]
  dsimp only
  split <;> rfl

/-- The panel after a frame boundary. -/
def framedPanel (u : Panel) : Panel :=
  { u with lamps := u.lamps.mapIdx (frameLamp u), tallies := u.tallies.map fun y => y.begin.show }

theorem exec_lampFrame {s : State} (started : s.engine.started = true) :
    exec .lampFrame s = .next (setPanel (framedPanel s.panel) s) := if_pos started

section
variable (u : Panel)

theorem framedPanel_lamp (l : Fin 16) : (framedPanel u).lamps.get l = frameLamp u l (u.lamps.get l) := Table.get_mapIdx _ _ l

theorem framedPanel_tally (d : Fin 4) : (framedPanel u).tallies.get d = (u.tallies.get d).begin.show := Table.get_map _ _ d

theorem framedPanel_entranceLamp (e : Fin 12) : (framedPanel u).lamps.get (lampOf e) =
    (u.lamps.get (lampOf e)).framed (entrancePattern (u.entranceLamps.get e))
      (if entrancePattern (u.entranceLamps.get e) = (u.lamps.get (lampOf e)).pattern then (u.lamps.get (lampOf e)).frame
      else 0) := by
  simp only [framedPanel_lamp, frameLamp, lampOwner_lampOf]
  exact Lamp.take_begin_show _ _

variable {u} {d : Fin 4}

theorem framedPanel_tallyLamp_anew (anew : (u.tallies.get d).cutNew = true) :
    (framedPanel u).lamps.get (tallyLamp d) = (u.lamps.get (tallyLamp d)).framed .fast 0 := by
  simp only [framedPanel_lamp, frameLamp, lampOwner_tallyLamp, anew, if_true]
  exact Lamp.begin_show _ _ _

theorem framedPanel_tallyLamp (old : (u.tallies.get d).cutNew = false) : (framedPanel u).lamps.get (tallyLamp d) =
    (u.lamps.get (tallyLamp d)).framed (tallyPattern (u.tallies.get d))
      (if tallyPattern (u.tallies.get d) = (u.lamps.get (tallyLamp d)).pattern then (u.lamps.get (tallyLamp d)).frame
      else 0) := by
  simp only [framedPanel_lamp, frameLamp, lampOwner_tallyLamp, old, Bool.false_eq_true, if_false]
  exact Lamp.take_begin_show _ _

end

theorem lampFrame_rule : Rules.LampFrame := by
  intro s started
  refine ⟨_, exec_lampFrame started, rfl, ⟨fun e => ?_, fun d => ⟨fun anew => ?_, fun old => ?_⟩⟩, fun d => ?_⟩
  · exact framedPanel_entranceLamp s.panel e
  · exact framedPanel_tallyLamp_anew anew
  · exact framedPanel_tallyLamp old
  · exact (framedPanel_tally s.panel d).trans (TallyRecord.begin_show _)

/-! ## Between boundaries (R125–R128) -/

section
variable {s : State}

theorem exec_lampStateOffer {e : Fin 12} {state : EntranceLamp} {rest : List LampMessage}
    (front : s.mail.lamps = .offer e state :: rest) :
    exec .lampStateOffer s = .next { s with
      panel := { s.panel with entranceLamps := s.panel.entranceLamps.set e state }, mail := { s.mail with lamps := rest } } := by
  show execLampStateOffer s = _
  simp only [execLampStateOffer, front]

theorem exec_refuseIndication {e : Fin 12} {rest : List LampMessage} (front : s.mail.lamps = .refuse e :: rest) :
    exec .refuseIndication s = .next { s with
      panel := { s.panel with
        lamps := s.panel.lamps.set (lampOf e) { s.panel.lamps.get (lampOf e) with refuseNew := true } }
      mail := { s.mail with lamps := rest } } := by
  show execRefuseIndication s = _
  simp only [execRefuseIndication, front]
  rfl

theorem exec_tallyStateOffer {d : Fin 4} {state : TalkState} {rest : List (Fin 4 × TalkState)}
    (front : s.mail.tallies = (d, state) :: rest) :
    exec .tallyStateOffer s = .next { s with
      panel := { s.panel with
        tallies := s.panel.tallies.set d ⟨state, if state = .cut then (s.panel.tallies.get d).cut else 0, state = .cut⟩ }
      mail := { s.mail with tallies := rest } } := by
  show execTallyStateOffer s = _
  simp only [execTallyStateOffer, front]

end

theorem Lamp.endRefuse_shown {r : Lamp} (shown : r.refuse = some 0) : r.endRefuse = { r with refuse := none } := if_pos shown

theorem Lamp.endTest_shown {r : Lamp} {t : LampTest} (test : r.test = some t) (shown : t.left = 0) :
    r.endTest = { r with test := none } := by
  simp only [endTest, test, shown, if_true]

/-- R126: sixteen frames of CUT shown FAST, and the lamp changes to DIM. -/
theorem exec_cutFlashEnd {s : State} {d : Fin 4} (cut : (s.panel.tallies.get d).offered = .cut)
    (shown : 16 ≤ (s.panel.tallies.get d).cut) (old : (s.panel.tallies.get d).cutNew = false) :
    exec (.cutFlashEnd d) s = .next (setLamp (tallyLamp d) ((s.panel.lamps.get (tallyLamp d)).take .dim) s) := by
  refine if_pos ?_
  simp only [cut, old, cutFrames, shown, decide_true, Bool.not_false, Bool.and_self]

theorem lampOffersAndEnds_rule : Rules.LampOffersAndEnds := by
  refine ⟨fun _ => rfl, fun d => Nat.add_comm d.val 12, fun s => ⟨fun e state rest => exec_lampStateOffer,
    fun e rest => exec_refuseIndication, fun d state rest => exec_tallyStateOffer, fun l shown => ?_, fun l t test shown => ?_,
    fun d cut shown old other => ?_⟩⟩
  · exact congrArg (fun r => Host.Outcome.next (setLamp l r s)) (Lamp.endRefuse_shown shown)
  · exact congrArg (fun r => Host.Outcome.next (setLamp l r s)) (Lamp.endTest_shown test shown)
  · exact (exec_cutFlashEnd cut shown old).trans
      (congrArg (fun r => Host.Outcome.next (setLamp (tallyLamp d) r s)) (if_neg (Ne.symm other)))

end Sys2Proof.Machine

namespace Sys2Proof

/-- Settles O46: a lamp at a boundary as one record of its pattern, its frame, its overlay and its test, for every lamp; each
offer and each end is one case of its command. -/
theorem lamps : Obligations.Lamps :=
  ⟨Machine.lampPatterns_rule, Machine.lampFrame_rule, Machine.lampOffersAndEnds_rule⟩

end Sys2Proof

/-! PROOFS. The call queue: the place and the id of a call, what each operation of the Call unit makes of the queue, and what a
pass leaves waiting (R130, R139). -/

namespace Sys2Proof.Machine

/-! ## A call's place and its id (R130) -/

/-- R130: the order of the queue. -/
abbrev InOrder (queue : List Call) : Prop := queue.Pairwise fun a b => b.priority ≤ a.priority

theorem insertCall_split (c : Call) {queue : List Call} (ordered : InOrder queue) :
    ∃ before after, queue = before ++ after ∧ insertCall c queue = before ++ c :: after ∧
      (∀ d ∈ before, c.priority ≤ d.priority) ∧ ∀ d ∈ after, d.priority < c.priority := by
  induction queue with
  | nil => exact ⟨[], [], rfl, rfl, by simp, by simp⟩
  | cons d queue ih =>
    obtain ⟨below, rest⟩ := List.pairwise_cons.mp ordered
    unfold insertCall
    split
    · next higher =>
      obtain ⟨before, after, rfl, place, first, last⟩ := ih rest
      exact ⟨d :: before, after, rfl, congrArg _ place, List.forall_mem_cons.mpr ⟨higher, first⟩, last⟩
    · next lower =>
      have lower := Nat.lt_of_not_le lower
      exact ⟨[], d :: queue, rfl, rfl, by simp,
        List.forall_mem_cons.mpr ⟨lower, fun e member => (below e member).trans_lt lower⟩⟩

theorem counterAt_zero_id {n : Nat} (low : 1 ≤ n) (high : n ≤ 255) : counterAt 255 n 0 = n := by
  unfold counterAt; omega

theorem counterAt_nextId {n : Nat} (low : 1 ≤ n) (high : n ≤ 255) (j : Nat) :
    counterAt 255 (nextId n) j = counterAt 255 n (j + 1) := by
  unfold counterAt nextId; split <;> omega

theorem nextId_range {n : Nat} (low : 1 ≤ n) (high : n ≤ 255) : 1 ≤ nextId n ∧ nextId n ≤ 255 := by
  unfold nextId; split <;> omega

/-- R130: the walk to a free id stops at an id of the counter, and every id before it is held. -/
theorem freeId_first (queue : List Call) (tries : Nat) {n : Nat} (low : 1 ≤ n) (high : n ≤ 255) :
    ∃ k, freeId queue tries n = counterAt 255 n k ∧ ∀ j, j < k → ∃ c ∈ queue, c.id = counterAt 255 n j := by
  induction tries generalizing n with
  | zero => exact ⟨0, (counterAt_zero_id low high).symm, fun j before => absurd before (Nat.not_lt_zero j)⟩
  | succ tries ih =>
    unfold freeId
    split
    · next held =>
      obtain ⟨low', high'⟩ := nextId_range low high
      obtain ⟨k, stops, earlier⟩ := ih low' high'
      refine ⟨k + 1, stops.trans (counterAt_nextId low high k), fun j before => ?_⟩
      cases j with
      | zero => rw [counterAt_zero_id low high]; simpa using held
      | succ j => rw [← counterAt_nextId low high]; exact earlier j (Nat.lt_of_succ_lt_succ before)
    · exact ⟨0, (counterAt_zero_id low high).symm, fun j before => absurd before (Nat.not_lt_zero j)⟩

theorem queueOrderAndFreeIds_rule : Obligations.QueueOrderAndFreeIds := by
  refine ⟨fun c queue ordered => insertCall_split c ordered, fun queue n low high few => ?_⟩
  obtain ⟨k, stops, earlier⟩ := freeId_first queue 255 low high
  have fresh := (freeId_fresh queue n ⟨low, high⟩ (by omega)).1
  exact ⟨k, stops, fun c member same => fresh (List.mem_map.mpr ⟨c, member, same⟩), earlier⟩

/-! ## Operations that bring no call -/

/-- What the law of the queue sees of a queue. -/
def places (queue : List Call) : List (Nat × Nat) := queue.map fun c => (c.id, c.priority)

/-- Calls may leave the queue or change their state; none comes, moves, or changes its id or its priority. -/
structure Thins (u v : CallUnit) : Prop where
  places : (places v.queue).Sublist (places u.queue)
  counter : v.counter = u.counter

theorem Thins.refl (u : CallUnit) : Thins u u := ⟨.refl _, rfl⟩

theorem Thins.trans {u v w : CallUnit} (a : Thins u v) (b : Thins v w) : Thins u w :=
  ⟨b.places.trans a.places, b.counter.trans a.counter⟩

theorem Thins.of_queue {u v : CallUnit} (queue : v.queue = u.queue) (counter : v.counter = u.counter) : Thins u v :=
  ⟨by rw [queue], counter⟩

theorem Thins.leave (u : CallUnit) (stays : Call → Bool) : Thins u { u with queue := u.queue.filter stays } :=
  ⟨List.filter_sublist.map _, rfl⟩

theorem Thins.update (u : CallUnit) (id : Nat) {f : Call → Call} (same : ∀ c, (f c).id = c.id ∧ (f c).priority = c.priority) :
    Thins u (u.update id f) where
  places := by
    have kept : Machine.places (u.update id f).queue = Machine.places u.queue := by
      rw [Machine.places, CallUnit.update, List.map_map]
      refine List.map_congr_left fun c _ => ?_
      simp only [Function.comp]
      split
      · rw [(same c).1, (same c).2]
      · rfl
    rw [kept]
  counter := rfl

theorem QueueLaw.thin {u v : CallUnit} (law : QueueLaw u) (thins : Thins u v) : QueueLaw v := by
  have ids {w : CallUnit} : (places w.queue).map Prod.fst = w.queue.map Call.id := by simp [places, Function.comp_def]
  have ordered {w : CallUnit} : (places w.queue).Pairwise (fun a b => b.2 ≤ a.2) ↔ InOrder w.queue := List.pairwise_map
  have sublist := thins.places.map Prod.fst
  rw [ids, ids] at sublist
  exact
    { few := by simpa using sublist.length_le.trans (by simpa using law.few)
      distinct := sublist.nodup law.distinct
      inRange := fun c member => by
        obtain ⟨d, old, same⟩ := List.mem_map.mp (sublist.subset (List.mem_map_of_mem (f := Call.id) member))
        exact same ▸ law.inRange d old
      counter := thins.counter.symm ▸ law.counter
      ordered := ordered.mp ((ordered.mpr law.ordered).sublist thins.places) }

theorem foldl_thins {α : Type} {f : State → α → State} (step : ∀ s a, Thins s.call (f s a).call) (l : List α) (s : State) :
    Thins s.call (l.foldl f s).call :=
  foldl_frame (R := fun s t => Thins s.call t.call) (fun s => .refl s.call) (fun a b => a.trans b) step l s

theorem takeResource_thins (dir : Table (Option Clip) 128) (c : Call) (r : Source) (u : CallUnit) :
    Thins u (takeResource dir c r u) := by
  unfold takeResource; split <;> exact .of_queue rfl rfl

theorem freeUp_thins (r : Source) (u : CallUnit) : Thins u (freeUp r u) := by
  unfold freeUp; split <;> exact .of_queue rfl rfl

theorem holdResource_thins (r : Source) (u : CallUnit) : Thins u (holdResource r u) := by
  unfold holdResource; split <;> exact .of_queue rfl rfl

theorem resumeResource_thins (r : Source) (u : CallUnit) : Thins u (resumeResource r u) := by
  unfold resumeResource; split <;> exact .of_queue rfl rfl

@[simp] theorem remove_call (o : Owner) (zones : ZoneSet) (s : State) : (remove o zones s).call = s.call := by
  unfold remove; dsimp only; split <;> rfl

/-- R140: a call that starts stays at its place. -/
theorem startCall_thins (c : Call) (r : Source) (s : State) : Thins s.call (startCall c r s).2.call := by
  cases accepted : (push (callPush c r) s).1 with
  | true =>
    rw [startCall_accepted accepted]
    exact (Thins.update s.call c.id (f := startedCall s.clock r) fun _ => ⟨rfl, rfl⟩).trans (takeResource_thins _ c r _)
  | false =>
    rw [startCall_refused accepted, push_call]
    exact .refl _

theorem tryCall_thins (blocked : ZoneSet) (c : Call) (s : State) : Thins s.call (tryCall blocked c s).2.call := by
  unfold tryCall
  split
  · split
    · exact startCall_thins c _ s
    · exact .refl _
  · exact .refl _

theorem passOver_thins (l : List Call) (blocked : ZoneSet) (s : State) : Thins s.call (passOver l blocked s).call := by
  induction l generalizing blocked s with
  | nil => exact .refl _
  | cons c l ih => exact (tryCall_thins blocked c s).trans (ih _ _)

theorem pass_thins (s : State) : Thins s.call (pass s).call := passOver_thins _ _ s

theorem leaveQueue_thins (c : Call) (o : CallOutcome) (s : State) : Thins s.call (leaveQueue c o s).call := .leave _ _

theorem endCall_thins (o : CallOutcome) (s : State) (c : Call) : Thins s.call (endCall o s c).call := by
  unfold endCall
  split
  · exact leaveQueue_thins c o s
  · refine .trans ?_ (leaveQueue_thins c o _)
    rw [setCalls_call, remove_call]
    exact freeUp_thins _ s.call

theorem endWithPass_thins (o : CallOutcome) (c : Call) (s : State) : Thins s.call (endWithPass o c s).call :=
  (endCall_thins o s c).trans (pass_thins _)

theorem endAll_thins (which : Call → Bool) (s : State) : Thins s.call (endAll which s).call := by
  unfold endAll
  dsimp only
  split
  · exact .refl _
  · exact (foldl_thins (endCall_thins .cancelled) _ s).trans (pass_thins _)

theorem takeCoverage_thins (u : CallUnit) (entry : Owner × ZoneSet) : Thins u (takeCoverage u entry) := by
  unfold takeCoverage
  split
  · exact .refl u
  · split
    · exact .refl u
    · split
      · exact .refl u
      · dsimp only
        split
        · refine .trans ?_ (holdResource_thins _ _)
          exact .update u _ fun _ => ⟨rfl, rfl⟩
        · split
          · refine .trans ?_ (resumeResource_thins _ _)
            exact .update u _ fun _ => ⟨rfl, rfl⟩
          · exact .update u _ fun _ => ⟨rfl, rfl⟩

theorem foldl_takeCoverage_thins (l : List (Owner × ZoneSet)) (u : CallUnit) : Thins u (l.foldl takeCoverage u) := by
  induction l generalizing u with
  | nil => exact .refl u
  | cons e l ih => exact (takeCoverage_thins u e).trans (ih _)

theorem contentEnd_thins (id : Nat) (s : State) : Thins s.call (contentEnd id s).call := by
  unfold contentEnd
  split
  · exact endWithPass_thins _ _ s
  · exact .refl _

theorem phraseEnd_thins (s : State) (n : Fin 3) : Thins s.call (phraseEnd s n).call := by
  unfold phraseEnd
  split
  · split
    · split
      · exact .of_queue rfl rfl
      · exact contentEnd_thins _ s
    · exact .refl _
  · exact .refl _

theorem repeatSilenceEnd_thins (s : State) (n : Fin 3) : Thins s.call (repeatSilenceEnd s n).call := by
  unfold repeatSilenceEnd
  split
  · split
    · exact .of_queue rfl rfl
    · exact .refl _
  · exact .refl _

theorem chimeNoteEnd_thins (s : State) : Thins s.call (chimeNoteEnd s).call := by
  unfold chimeNoteEnd
  split
  · split
    · exact .of_queue rfl rfl
    · exact .refl _
  · exact .refl _

theorem chimeStrikeEnd_thins (s : State) : Thins s.call (chimeStrikeEnd s).call := by
  unfold chimeStrikeEnd
  split
  · split
    · split
      · exact .of_queue rfl rfl
      · exact contentEnd_thins _ s
    · exact .refl _
  · exact .refl _

theorem advanceResources_thins (u : CallUnit) : Thins u (advanceResources u) := .of_queue rfl rfl

/-- What a block settles, and the block that follows, bring no call. -/
theorem mixBlock_thins (sense : List (List Sample)) (s : State) :
    Thins s.call (mixFrom sense (aimZones (settleBlock s))).call := by
  have ramps : (settleRamps s).call = s.call := rfl
  have settled : Thins s.call (settleBlock s).call := by
    unfold settleBlock
    rw [← ramps]
    refine .trans ?_ (chimeStrikeEnd_thins _)
    refine .trans ?_ (chimeNoteEnd_thins _)
    exact (foldl_thins phraseEnd_thins _ _).trans (foldl_thins repeatSilenceEnd_thins _ _)
  rw [mixFrom_call, blockStart_call]
  exact settled.trans (advanceResources_thins _)

/-! ## A call that comes (R130, R134, R136) -/

/-- R130: a call with an id that is free comes to its place while there is room. -/
theorem QueueLaw.insert {u : CallUnit} {c : Call} {n : Nat} (law : QueueLaw u) (room : u.queue.length < 16)
    (fresh : c.id ∉ u.queue.map Call.id) (id : 1 ≤ c.id ∧ c.id ≤ 255) (counter : 1 ≤ n ∧ n ≤ 255) :
    QueueLaw { u with queue := insertCall c u.queue, counter := n } := by
  obtain ⟨before, after, whole, place, first, last⟩ := insertCall_split c law.ordered
  have perm : (before ++ c :: after).Perm (c :: u.queue) := whole ▸ List.perm_middle
  have ordered := law.ordered
  rw [whole, List.pairwise_append] at ordered
  obtain ⟨front, back, across⟩ := ordered
  rw [place]
  exact
    { few := perm.length_eq.trans_le room
      distinct := (perm.map Call.id).nodup_iff.mpr (List.nodup_cons.mpr ⟨fresh, law.distinct⟩)
      inRange := fun d member => by
        rcases List.mem_cons.mp (perm.mem_iff.mp member) with rfl | old
        · exact id
        · exact law.inRange d old
      counter := counter
      ordered := by
        refine List.pairwise_append.mpr ⟨front, List.pairwise_cons.mpr ⟨fun d member => (last d member).le, back⟩, ?_⟩
        intro d early e late
        rcases List.mem_cons.mp late with rfl | late
        · exact first d early
        · exact across d early e late }

/-- R130: a call taken into the queue. -/
theorem enqueue_law {s : State} (c : Call) (law : QueueLaw s.call) (room : s.call.queue.length < 16) :
    QueueLaw (enqueue c s).2.call := by
  obtain ⟨fresh, low, high⟩ := freeId_fresh s.call.queue s.call.counter law.counter (by omega)
  exact law.insert (c := { c with id := freeId s.call.queue 255 s.call.counter }) room fresh ⟨low, high⟩ (nextId_range low high)

theorem takeSubmission_law {s : State} (c : Call) (law : QueueLaw s.call) (room : s.call.queue.length < 16) :
    QueueLaw (takeSubmission c s).call := by
  unfold takeSubmission
  refine ((enqueue_law c law room).thin ?_).thin (pass_thins _)
  exact .of_queue rfl rfl

theorem mem_of_victim {queue : List Call} {n : Nat} {v : Call} (found : victim queue n = some v) : v ∈ queue := by
  unfold victim at found
  split at found
  · next c last =>
    split at found
    · cases found
      exact (List.mem_filter.mp (List.mem_of_getLast? last)).1
    · cases found
  · cases found

/-- R136: a queue that a call has left has room. -/
theorem length_without_lt {queue : List Call} {v : Call} (member : v ∈ queue) (few : queue.length ≤ 16) :
    (queue.filter fun d => d.id != v.id).length < 16 :=
  (List.length_filter_lt_length_iff_exists.mpr ⟨v, member, by simp⟩).trans_le few

theorem submit_law {s : State} (c : Submission) (law : QueueLaw s.call) : QueueLaw (submit c s).call := by
  unfold submit
  split
  · unfold stepLost
    split <;> exact law.thin (.of_queue rfl rfl)
  · dsimp only
    split
    · next room => exact takeSubmission_law _ law room
    · split
      · next v found =>
        exact takeSubmission_law _ (law.thin (.leave _ _)) (length_without_lt (mem_of_victim found) law.few)
      · exact law.thin (.of_queue rfl rfl)

/-! ## No call overtakes (R139) -/

section
variable {blocked : ZoneSet} {z : ZoneNo} {n id : Nat} {c : Call} {s : State}

theorem tryCall_cases (blocked : ZoneSet) (c : Call) (s : State) : tryCall blocked c s = (false, s) ∨
    ∃ r, ¬HeldBack blocked c s ∧ tryCall blocked c s = startCall c r s := by
  by_cases held : HeldBack blocked c s
  · exact .inl (tryCall_held held)
  · cases resource : freeResource s.call c.content with
    | none => exact .inl (tryCall_no_resource resource)
    | some r => exact .inr ⟨r, held, tryCall_free held resource⟩

/-- The top overlay of a zone has this priority or a higher one. -/
def Tops (z : ZoneNo) (n : Nat) (s : State) : Prop :=
  ∃ top, (s.zoneUnit.zones.get z).stack.head? = some top ∧ n ≤ top.priority

/-- R38: an accepted push has the top place of each of its zones. -/
theorem tops_of_push {q : PushRequest} (accepted : (push q s).1 = true) (target : zoneIn z q.targets = true) :
    Tops z q.priority (push q s).2 := by
  rw [Tops, push_accepted_stack accepted, if_pos target]
  exact ⟨_, rfl, Nat.le_refl _⟩

/-- R38: what a push puts above an overlay is higher. -/
theorem Tops.push (tops : Tops z n s) (q : PushRequest) : Tops z n (push q s).2 := by
  obtain ⟨top, head, high⟩ := tops
  cases accepted : (Machine.push q s).1 with
  | false => exact ⟨top, by rwa [push_refused_zones accepted], high⟩
  | true =>
    by_cases target : zoneIn z q.targets = true
    · obtain ⟨-, notLow, -⟩ := (pushTest_eq_none_iff _ q z).mp ((push_accepted_iff q s).mp accepted z target)
      have above : top.priority < q.priority := Nat.lt_of_not_le fun le => notLow ⟨top, head, le⟩
      obtain ⟨new, place, level⟩ := tops_of_push accepted target
      exact ⟨new, place, (high.trans above.le).trans level⟩
    · refine ⟨top, ?_, high⟩
      rwa [push_accepted_stack accepted, if_neg target]

theorem startCall_zoneUnit (c : Call) (r : Source) (s : State) :
    (startCall c r s).2.zoneUnit = (push (callPush c r) s).2.zoneUnit := by
  unfold startCall; dsimp only; split <;> rfl

theorem startCall_fst (c : Call) (r : Source) (s : State) : (startCall c r s).1 = (push (callPush c r) s).1 := by
  cases accepted : (push (callPush c r) s).1 with
  | true => rw [startCall_accepted accepted]
  | false => rw [startCall_refused accepted]

/-- R139: a zone that stands against calls of a priority: an earlier call blocks it, or its top overlay is not below them. -/
def Barred (z : ZoneNo) (n : Nat) (blocked : ZoneSet) (s : State) : Prop := zoneIn z blocked = true ∨ Tops z n s

theorem zoneIn_or (z : ZoneNo) (a b : ZoneSet) : zoneIn z (a ||| b) = (zoneIn z a || zoneIn z b) := by simp [zoneIn]

theorem zoneIn_and (z : ZoneNo) (a b : ZoneSet) : zoneIn z (a &&& b) = (zoneIn z a && zoneIn z b) := by simp [zoneIn]

theorem Barred.heldBack (barred : Barred z n blocked s) (target : zoneIn z c.targets = true) (low : c.priority ≤ n) :
    HeldBack blocked c s := by
  rcases barred with early | ⟨top, head, high⟩
  · refine .inr fun none => ?_
    have shared := zoneSet_eq_zero.mp none z
    rw [zoneIn_and, target, early] at shared
    cases shared
  · refine .inl ⟨z, target, Bool.eq_false_iff.mpr fun free => ?_⟩
    obtain ⟨-, below, -⟩ := available_iff.mp free
    exact absurd (below top head) (Nat.not_lt.mpr (low.trans high))

/-- R139: the zones blocked after a call was tried. -/
def blockedAfter (blocked : ZoneSet) (c : Call) (s : State) : ZoneSet :=
  if (tryCall blocked c s).1 then blocked else blocked ||| c.targets

/-- R139: a zone that stands against later calls goes on doing so. -/
theorem Barred.tryCall (barred : Barred z n blocked s) (c : Call) :
    Barred z n (blockedAfter blocked c s) (tryCall blocked c s).2 := by
  refine barred.imp (fun early => ?_) fun tops => ?_
  · unfold blockedAfter
    split
    · exact early
    · rw [zoneIn_or, early, Bool.true_or]
  · rcases tryCall_cases blocked c s with still | ⟨r, -, starts⟩
    · rwa [still]
    · rw [starts, Tops, startCall_zoneUnit]
      exact tops.push _

/-- R139: a call that was tried bars its zones to later calls, started or not. -/
theorem barred_of_tried (target : zoneIn z c.targets = true) (low : n ≤ c.priority) :
    Barred z n (blockedAfter blocked c s) (tryCall blocked c s).2 := by
  cases started : (Machine.tryCall blocked c s).1 with
  | false =>
    refine .inl ?_
    rw [blockedAfter, started, if_neg Bool.false_ne_true, zoneIn_or, target, Bool.or_true]
  | true =>
    rcases tryCall_cases blocked c s with still | ⟨r, -, starts⟩
    · rw [still] at started; cases started
    · rw [starts, startCall_fst] at started
      obtain ⟨top, head, high⟩ := tops_of_push started target
      refine .inr ⟨top, ?_, low.trans high⟩
      rwa [starts, startCall_zoneUnit]

/-- Every call of an id is QUEUED. -/
def Waits (id : Nat) (s : State) : Prop := ∀ c ∈ s.call.queue, c.id = id → c.state = .queued

/-- R139, R140: a call waits on while another is tried, or while it is itself held back. -/
theorem Waits.tryCall (waits : Waits id s) (other : c.id = id → HeldBack blocked c s) :
    Waits id (tryCall blocked c s).2 := by
  rcases tryCall_cases blocked c s with still | ⟨r, free, starts⟩
  · rwa [still]
  · have other : c.id ≠ id := fun same => free (other same)
    rw [starts]
    cases accepted : (push (callPush c r) s).1 with
    | false =>
      rw [startCall_refused accepted, Waits, push_call]
      exact waits
    | true =>
      rw [startCall_accepted accepted]
      intro d member same
      rw [takeResource_queue] at member
      obtain ⟨old, held, rfl⟩ := List.mem_map.mp member
      by_cases hit : old.id = c.id
      · rw [if_pos hit] at same
        exact absurd (hit.symm.trans same) other
      · rw [if_neg hit] at same ⊢
        exact waits old held same

/-- R139: a call that a zone stands against is still QUEUED after the rest of the pass. -/
theorem Barred.passOver_waits {l : List Call} (barred : Barred z n blocked s) (waits : Waits id s)
    (names : ∀ c ∈ l, c.id = id → zoneIn z c.targets = true ∧ c.priority ≤ n) : Waits id (passOver l blocked s) := by
  induction l generalizing blocked s with
  | nil => exact waits
  | cons c l ih =>
    obtain ⟨here, rest⟩ := List.forall_mem_cons.mp names
    refine ih (barred.tryCall c) (waits.tryCall fun same => ?_) rest
    obtain ⟨target, low⟩ := here same
    exact barred.heldBack target low

/-- R139: once an earlier call that names the zone was tried, a later call on it stays QUEUED to the end of the pass. -/
theorem passOver_waits {ahead later : List Call} {first : Call} (waits : Waits id s) (others : ∀ c ∈ ahead, c.id ≠ id)
    (other : first.id ≠ id) (target : zoneIn z first.targets = true)
    (names : ∀ c ∈ later, c.id = id → zoneIn z c.targets = true ∧ c.priority ≤ first.priority) :
    Waits id (passOver (ahead ++ first :: later) blocked s) := by
  induction ahead generalizing blocked s with
  | nil =>
    exact (barred_of_tried target (Nat.le_refl first.priority)).passOver_waits (waits.tryCall fun same => absurd same other) names
  | cons c ahead ih =>
    obtain ⟨here, rest⟩ := List.forall_mem_cons.mp others
    exact ih (waits.tryCall fun same => absurd same here) rest

end

theorem noCallOvertakes_rule : Obligations.NoCallOvertakes := by
  intro s before between after first second law whole queued waiting shared
  obtain ⟨z, both⟩ := not_forall.mp (mt zoneSet_eq_zero.mpr shared)
  rw [zoneIn_and, Bool.not_eq_false, Bool.and_eq_true] at both
  obtain ⟨target, target'⟩ := both
  have distinct := law.distinct
  have ordered := law.ordered
  rw [whole, List.map_append, List.map_cons, List.nodup_append, List.nodup_cons] at distinct
  rw [whole, List.pairwise_append, List.pairwise_cons] at ordered
  obtain ⟨-, ⟨fresh, -⟩, apart⟩ := distinct
  obtain ⟨-, ⟨below, -⟩, -⟩ := ordered
  have late : second ∈ between ++ second :: after := by simp
  have tail : second.id ∈ (between ++ second :: after).map Call.id := List.mem_map_of_mem late
  have only : ∀ c ∈ s.call.queue, c.id = second.id → c = second := fun c member same =>
    List.inj_on_of_nodup_map law.distinct member (by rw [whole]; simp) same
  have waits : Waits second.id s := fun c member same => only c member same ▸ waiting
  have tried : s.call.queue.filter isQueued =
      before.filter isQueued ++ first :: (between ++ second :: after).filter isQueued := by
    rw [whole, List.filter_append, List.filter_cons_of_pos (by simpa [isQueued] using queued)]
  unfold pass
  rw [tried]
  refine passOver_waits waits (fun c member => ?_) (fun same => fresh (same ▸ tail)) target fun c member same => ?_
  · exact apart c.id (List.mem_map_of_mem (List.mem_of_mem_filter member)) second.id (List.mem_cons_of_mem _ tail)
  · have member : c ∈ between ++ second :: after := List.mem_of_mem_filter member
    obtain rfl := only c (by rw [whole]; exact List.mem_append_right _ (List.mem_cons_of_mem _ member)) same
    exact ⟨target', below c late⟩

end Sys2Proof.Machine

namespace Sys2Proof

/-- Settles O25, by induction on the queue for the place, and on the walk of the counter for the id. -/
theorem queueOrderAndFreeIds : Obligations.QueueOrderAndFreeIds := Machine.queueOrderAndFreeIds_rule

/-- Settles O26: from the moment the earlier call is tried, a zone that both name is blocked or topped by an overlay that is not
below the later call. -/
theorem noCallOvertakes : Obligations.NoCallOvertakes := Machine.noCallOvertakes_rule

end Sys2Proof

/-! PROOFS. O57: what the other units do leaves the calls, and what the Call unit and a block do keeps the law of the queue (R130). -/

namespace Sys2Proof.Machine

/-! ## What leaves the calls -/

section
variable {s t : State}

theorem OnlyDescription.call (h : OnlyDescription s t) : t.call = s.call := by unfold OnlyDescription at h; rw [h]
theorem OnlyAdmission.call (h : OnlyAdmission s t) : t.call = s.call := by unfold OnlyAdmission at h; rw [h]
theorem OnlyPanel.call (h : OnlyPanel s t) : t.call = s.call := by unfold OnlyPanel at h; rw [h]
theorem OnlyProgramme.call (h : OnlyProgramme s t) : t.call = s.call := by unfold OnlyProgramme at h; rw [h]

end

theorem foldl_call {α : Type} {f : State → α → State} (step : ∀ s a, (f s a).call = s.call) (l : List α) (s : State) :
    (l.foldl f s).call = s.call :=
  foldl_frame (R := fun s t => t.call = s.call) (fun _ => rfl) (fun a b => b.trans a) step l s

section
variable (s : State)

@[simp] theorem enter_call (c : Fin 4) (v : TalkState) (e : Option Clock) : (enter c v e s).call = s.call :=
  (enter_frame c v e s).call
@[simp] theorem withdraw_call (c : Fin 4) : (withdraw c s).call = s.call := (withdraw_frame c s).call
@[simp] theorem evaluate_call (c : Fin 4) : (evaluate s c).call = s.call := (evaluate_frame s c).call
@[simp] theorem evaluateAll_call (w : ChannelSettings → Bool) : (evaluateAll w s).call = s.call := (evaluateAll_frame w s).call
@[simp] theorem changeDescriber_call (d : Fin 4) (r : Describer) : (changeDescriber d r s).call = s.call :=
  (changeDescriber_frame d r s).call
@[simp] theorem handTallies_call : (handTallies s).call = s.call := (handTallies_frame s).call

@[simp] theorem workLamps_call : (workLamps s).call = s.call := (workLamps_frame s).call
@[simp] theorem listChanged_call : (listChanged s).call = s.call := (listChanged_frame s).call
@[simp] theorem selectionPass_call (e : Fin 12) : (selectionPass e s).call = s.call := (selectionPass_frame e s).call
@[simp] theorem addParty_call (e : Fin 12) (n : Nat) (o : PartyOrigin) (a : Bool) : (addParty e n o a s).2.call = s.call :=
  (addParty_frame e n o a s).call
@[simp] theorem discard_call (q : Party) : (discard s q).call = s.call := (discard_frame s q).call
@[simp] theorem discardHall_call (h : Hall) : (discardHall h s).call = s.call := (discardHall_frame h s).call
@[simp] theorem closeWindow_call (h : Hall) : (closeWindow h s).call = s.call := (closeWindow_frame h s).call
@[simp] theorem closingNotice_call (h : Hall) (b : Bool) (w : Window) : (closingNotice h b w s).call = s.call :=
  (closingNotice_frame h b w s).call
@[simp] theorem openWindow_call (h : Hall) (c : WindowCause) (n : Option Nat) : (openWindow h c n s).call = s.call :=
  (openWindow_frame h c n s).call
@[simp] theorem openBreak_call (h : Hall) : (openBreak h s).call = s.call := openWindow_call s h _ _
@[simp] theorem retimeWindow_call (h : Hall) (w : Window) : (retimeWindow h w s).call = s.call := (retimeWindow_frame h w s).call

@[simp] theorem deliver_call (k : Fin 64) (r : Role) (e : KeyEvent) : (deliver k r e s).call = s.call :=
  (deliver_frame k r e s).call
@[simp] theorem closeSweep_call : (closeSweep s).call = s.call := (closeSweep_frame s).call
@[simp] theorem finishSweep_call : (finishSweep s).call = s.call := (finishSweep_frame s).call
@[simp] theorem performUpTo_call (k : Fin 64) : (performUpTo k s).call = s.call := (performUpTo_frame k s).call

@[simp] theorem fireStep_call (h : Hall) : (fireStep h s).call = s.call := (fireStep_frame h s).call
@[simp] theorem fireAtOnce_call (h : Hall) (n : Nat) : (fireAtOnce h n s).call = s.call := (fireAtOnce_frame h n s).call
@[simp] theorem changePhase_call (h : Hall) (r : HallRecord) (a : Option Admission) (c : Cause) :
    (changePhase h r a c s).call = s.call := rfl
@[simp] theorem teardown_call (h : Hall) : (teardown h s).call = s.call := rfl
@[simp] theorem cancelPlanCalls_call (h : Hall) : (cancelPlanCalls h s).call = s.call := rfl

@[simp] theorem handHush_call (flags : List (ZoneNo × Bool)) : (handHush flags s).call = s.call := by rw [handHush_eq]

@[simp] theorem overCurrent_call (l : Fin 8) : (overCurrent l s).call = s.call := by
  unfold overCurrent
  dsimp only
  split
  · rfl
  · split <;> rfl

@[simp] theorem setOpen_call (l : Fin 8) (flag : Bool) (code : Byte) : (setOpen l flag code s).call = s.call := by
  unfold setOpen
  dsimp only
  split <;> rfl

theorem loopsPeriod_call : (loopsPeriod s).call = s.call := rfl

theorem nextPeriod_call : (nextPeriod s).call = s.call := rfl

theorem sensePeriod_call (l : Fin 8) : (sensePeriod s l).call = s.call := rfl

theorem soundPeriod_call (c : Fin 6) : (soundPeriod s c).call = s.call := by
  unfold soundPeriod
  dsimp only
  split <;> rfl

@[simp] theorem startSegment_call (h : Hall) (r : HallRecord) (g : Segment) : (startSegment h r g s).call = s.call := by
  dsimp only [startSegment]
  repeat' split
  all_goals simp

@[simp] theorem refuseLamp_call (e : Fin 12) : (refuseLamp e s).call = s.call := by
  unfold refuseLamp
  split <;> rfl

@[simp] theorem moveLamp_call (old new : Option (Fin 12)) (o : EntranceLamp) : (moveLamp old new o s).call = s.call := by
  dsimp only [moveLamp]
  repeat' split
  all_goals rfl

@[simp] theorem changeRole_call (k : Fin 64) (r : Role) : (changeRole k r s).call = s.call := by
  dsimp only [changeRole]
  repeat' split
  all_goals simp

@[simp] theorem setChannelSettings_call (c : Fin 4) (v : ChannelSettings) : (setChannelSettings c v s).call = s.call := by
  dsimp only [setChannelSettings, reportChannel]
  rw [handTallies_call]
  split <;> rfl

@[simp] theorem writeRoles_call (first : Nat) (roles : List Role) : (writeRoles first roles s).call = s.call := by
  refine foldl_call (fun t k => ?_) _ s
  repeat' split
  all_goals simp

@[simp] theorem admissionAction_call (ev : PhaseEvent) : (admissionAction ev s).call = s.call := by
  dsimp only [admissionAction]
  repeat' split
  all_goals simp

end

/-! ### Requests -/

/-- A request's unit leaves the calls: behind its tests it refuses, or does one of the operations above. -/
def LeavesCalls (unit : List Byte → State → Answer) : Prop := ∀ ps s, (unit ps s).state.call = s.call

theorem programmeRequest_call {unit : List Byte → State → Answer}
    (one : unit ∈ [orderClear, orderPut, orderAppend, hallOpen, segStart, segEnd, gapMark, gapEnd, hallDarkRequest, planPut,
      hallSet, hallStatus]) : LeavesCalls unit := by
  intro ps s
  fin_cases one
  all_goals
    dsimp only [orderClear, orderPut, orderAppend, hallOpen, segStart, segEnd, gapMark, gapEnd, hallDarkRequest, planPut,
      hallSet, hallStatus]
    repeat' split
    all_goals simp [setPlan]

theorem zoneRequest_call {unit : List Byte → State → Answer}
    (one : unit ∈ [zoneSet, zoneStatus, loopReset, levelSet, levelRead]) : LeavesCalls unit := by
  intro ps s
  fin_cases one
  all_goals
    dsimp only [zoneSet, zoneStatus, loopReset, levelSet, levelRead]
    repeat' split
    all_goals simp

theorem admissionRequest_call {unit : List Byte → State → Answer}
    (one : unit ∈ [doorSet, partyAdd, partyRemove, partyMove, partyList, admitNow, admitExtend, admitClose, usherClear]) :
    LeavesCalls unit := by
  intro ps s
  fin_cases one
  all_goals
    dsimp only [doorSet, partyAdd, partyRemove, partyMove, partyList, admitNow, admitExtend, admitClose, usherClear]
    repeat' split
    all_goals simp

theorem otherRequest_call {unit : List Byte → State → Answer}
    (one : unit ∈ [keymapSet, scanSet, keyStatus, callList, descSet, descStatus, talkLatch true, talkLatch false,
      settingsSave, restart, partInfo]) : LeavesCalls unit := by
  intro ps s
  fin_cases one
  all_goals
    dsimp only [keymapSet, scanSet, keyStatus, callList, descSet, descStatus, talkLatch, settingsSave, restart, partInfo]
    repeat' split
    all_goals simp

theorem portRequest_call {unit : Port → List Byte → State → Answer}
    (one : unit ∈ [lampTest, storeOpenRequest, storeRead, noticeRead, noticeAck, noticeSet]) (p : Port) :
    LeavesCalls (unit p) := by
  intro ps s
  fin_cases one
  all_goals
    dsimp only [lampTest, storeOpenRequest, storeRead, noticeRead, noticeAck, noticeSet]
    repeat' split
    all_goals simp

theorem ownersRequest_call {unit : Port → List Byte → State → Answer}
    (one : unit ∈ [storeFill, storeProgram, storeErase, storeClose]) (p : Port) : LeavesCalls (unit p) := by
  intro ps s
  fin_cases one
  all_goals
    dsimp only [storeFill, storeProgram, storeErase, storeClose, ownerRequest]
    repeat' split
    all_goals rfl

/-! ## What a command makes of the queue -/

/-- A command after which the law of the queue holds if it held before. -/
def KeepsQueue (s : State) (o : Step) : Prop := ∀ t, o = .next t → QueueLaw s.call → QueueLaw t.call

theorem KeepsQueue.next {s t : State} (keeps : QueueLaw s.call → QueueLaw t.call) : KeepsQueue s (.next t) :=
  fun _ e => Host.Outcome.next.inj e ▸ keeps

theorem KeepsQueue.thin {s t : State} (thins : Thins s.call t.call) : KeepsQueue s (.next t) := .next fun law => law.thin thins

theorem KeepsQueue.same {s t : State} (same : t.call = s.call) : KeepsQueue s (.next t) := .next fun law => same ▸ law

theorem request_keepsQueue {code : Byte} {p : Port} {s : State} {unit : List Byte → State → Answer}
    (keeps : ∀ ps s, QueueLaw s.call → QueueLaw (unit ps s).state.call) : KeepsQueue s (takeRequest code p s unit) := by
  intro t taken law
  obtain rfl | ⟨ps, rfl⟩ := takeRequest_leaves taken
  · exact law
  · have law' := keeps ps (withoutRequest p s) law
    unfold respond
    split
    · exact law'
    · exact law'

theorem LeavesCalls.keepsQueue {code : Byte} {p : Port} {s : State} {unit : List Byte → State → Answer}
    (leaves : LeavesCalls unit) : KeepsQueue s (takeRequest code p s unit) :=
  request_keepsQueue fun ps s law => leaves ps s ▸ law

/-! ### Requests of the Call unit -/

theorem submitRefusal_room {p : Port} {f : CallForm} {s : State} (sound : submitRefusal p f s = none) :
    s.call.queue.length < 16 := by
  by_contra room
  have full : queueLimit ≤ s.call.queue.length := Nat.le_of_not_lt room
  unfold submitRefusal at sound
  rw [if_pos full] at sound
  repeat' split at sound
  all_goals cases sound

theorem callSubmit_law (p : Port) (ps : List Byte) (s : State) (law : QueueLaw s.call) :
    QueueLaw (callSubmit p ps s).state.call := by
  unfold callSubmit
  split
  · exact law
  · split
    · exact law
    · next sound => exact (enqueue_law _ law (submitRefusal_room sound)).thin (pass_thins _)

theorem callCancel_law (p : Port) (ps : List Byte) (s : State) (law : QueueLaw s.call) :
    QueueLaw (callCancel p ps s).state.call := by
  unfold callCancel
  split
  · exact law
  · split
    · exact law
    · exact law.thin (endWithPass_thins _ _ s)

theorem liveEnd_law (p : Port) (ps : List Byte) (s : State) (law : QueueLaw s.call) :
    QueueLaw (liveEnd p ps s).state.call := by
  unfold liveEnd
  split
  · exact law
  · split
    · exact law
    · split
      · exact law
      · exact law.thin (endWithPass_thins _ _ s)

/-! ### Events and times of the Call unit -/

section
variable (s : State)

theorem unitCallSubmission_keepsQueue (u : Submitter) : KeepsQueue s (execUnitCallSubmission u s) := by
  unfold execUnitCallSubmission
  split
  · split
    · exact .next fun law => submit_law _ (s := takeProgrammeOrder _ s) law
    · exact .same rfl
  · split
    · exact .next fun law => submit_law _ (s := takeAdmissionOrder _ s) law
    · exact .same rfl

theorem callStackReport_keepsQueue : KeepsQueue s (execCallStackReport s) := by
  unfold execCallStackReport
  split
  · refine .thin (.trans ?_ (pass_thins _))
    exact foldl_takeCoverage_thins _ s.call
  · exact .same rfl

theorem callHushChange_keepsQueue : KeepsQueue s (execCallHushChange s) := by
  unfold execCallHushChange
  split
  · refine .thin (.trans ?_ (pass_thins _))
    exact .refl s.call
  · exact .same rfl

theorem callPhaseEvent_keepsQueue : KeepsQueue s (execCallPhaseEvent s) := by
  unfold execCallPhaseEvent
  split
  · refine .thin (.trans ?_ (pass_thins _))
    exact .of_queue rfl rfl
  · exact .same rfl

theorem hallCallCancel_keepsQueue : KeepsQueue s (execHallCallCancel s) := by
  unfold execHallCallCancel
  split
  · refine .thin (.trans ?_ (endAll_thins _ _))
    exact .of_queue rfl rfl
  · exact .same rfl

theorem planCallCancel_keepsQueue : KeepsQueue s (execPlanCallCancel s) := by
  unfold execPlanCallCancel
  split
  · refine .thin (.trans ?_ (endAll_thins _ _))
    exact .refl s.call
  · exact .same rfl

theorem admissionCallCancel_keepsQueue : KeepsQueue s (execAdmissionCallCancel s) := by
  unfold execAdmissionCallCancel
  split
  · refine .thin (.trans ?_ (endAll_thins _ _))
    exact .refl s.call
  · exact .same rfl

theorem callDeadlineExpiry_keepsQueue (id : Nat) : KeepsQueue s (execCallDeadlineExpiry id s) := by
  unfold execCallDeadlineExpiry
  split
  · split
    · exact .thin (endWithPass_thins _ _ s)
    · exact .same rfl
  · exact .same rfl

theorem liveTimeout_keepsQueue (id : Nat) : KeepsQueue s (execLiveTimeout id s) := by
  unfold execLiveTimeout
  split
  · split
    · exact .thin (endWithPass_thins _ _ s)
    · exact .same rfl
  · exact .same rfl

theorem overlayPush_keepsQueue (q : PushRequest) : KeepsQueue s (execOverlayPush q s) := by
  unfold execOverlayPush
  split
  · split
    · split
      · exact .thin (startCall_thins _ _ s)
      · exact .same rfl
    · exact .same rfl
  · split
    · exact .same (evaluate_call s _)
    · exact .same rfl

theorem overlayRemoval_keepsQueue (o : Owner) (zones : ZoneSet) : KeepsQueue s (execOverlayRemoval o zones s) := by
  unfold execOverlayRemoval
  split
  · exact .same (remove_call o zones s)
  · split
    · split
      · split
        · exact .thin (endWithPass_thins _ _ s)
        · exact .same rfl
      · exact .same rfl
    · split
      · exact .same (evaluate_call s _)
      · exact .same rfl

/-! ### Commands of the other units that act in several ways -/

theorem mixBlock_keepsQueue (sense : List (List Sample)) : KeepsQueue s (exec (.mixBlock sense) s) := by
  rw [exec_mixBlock]
  exact .thin (mixBlock_thins sense s)

theorem levelPeriodEnd_keepsQueue : KeepsQueue s (execLevelPeriodEnd s) := by
  unfold execLevelPeriodEnd
  split
  · refine .same ((nextPeriod_call _).trans ?_)
    rw [foldl_call sensePeriod_call, foldl_call soundPeriod_call, loopsPeriod_call]
  · exact .same rfl

theorem keyStep_keepsQueue (due : KeyDue) (k : Fin 64) : KeepsQueue s (keyStep due k s) := by
  unfold keyStep
  split
  · exact .same (performUpTo_call s k)
  · exact .same rfl

theorem startUp_keepsQueue (straps : BitVec 2) : KeepsQueue s (.next (startUp straps s)) :=
  .next fun _ => ⟨Nat.zero_le _, .nil, fun _ h => (List.not_mem_nil h).elim, ⟨Nat.le_refl 1, show 1 ≤ 255 by decide⟩, .nil⟩

theorem restartTakesEffect_keepsQueue (straps : BitVec 2) : KeepsQueue s (execRestartTakesEffect straps s) := by
  unfold execRestartTakesEffect
  split
  · exact startUp_keepsQueue s straps
  · exact .same rfl

end

theorem takeEntranceKey_call {event : KeyEvent} {role : Fin 12 → Role} {s : State} {k : Fin 64 × Fin 12 × State}
    (taken : takeEntranceKey event role s = some k) : k.2.2.call = s.call := by
  unfold takeEntranceKey at taken
  repeat' split at taken
  all_goals cases taken
  rfl

/-- A command of the entrance keys: what it does with the event it names, or nothing. -/
theorem keyCommand_keepsQueue {event : KeyEvent} {role : Fin 12 → Role} {act : Fin 64 × Fin 12 × State → State} {s : State}
    (same : ∀ k, (act k).call = k.2.2.call) {o : Step}
    (command : o = match takeEntranceKey event role s with | some k => .next (act k) | none => .next s) : KeepsQueue s o := by
  rw [command]
  split
  · next taken => exact .same ((same _).trans (takeEntranceKey_call taken))
  · exact .same rfl

/-! ## Every command -/

theorem exec_keepsQueue (c : Instr) (s : State) : KeepsQueue s (exec c s) := by
  cases c with
  | powerOn straps | resetLine straps => exact startUp_keepsQueue s straps
  | restartTakesEffect straps => exact restartTakesEffect_keepsQueue s straps
  | callSubmit p => exact request_keepsQueue (callSubmit_law p)
  | callCancel p => exact request_keepsQueue (callCancel_law p)
  | liveEnd p => exact request_keepsQueue (liveEnd_law p)
  | unitCallSubmission u => exact unitCallSubmission_keepsQueue s u
  | callStackReport => exact callStackReport_keepsQueue s
  | callHushChange => exact callHushChange_keepsQueue s
  | callPhaseEvent => exact callPhaseEvent_keepsQueue s
  | hallCallCancel => exact hallCallCancel_keepsQueue s
  | planCallCancel => exact planCallCancel_keepsQueue s
  | admissionCallCancel => exact admissionCallCancel_keepsQueue s
  | callDeadlineExpiry id => exact callDeadlineExpiry_keepsQueue s id
  | liveTimeout id => exact liveTimeout_keepsQueue s id
  | overlayPush q => exact overlayPush_keepsQueue s q
  | overlayRemoval o zones => exact overlayRemoval_keepsQueue s o zones
  | playerPhraseEnd n => exact .thin (phraseEnd_thins s n)
  | repeatSilenceEnd n => exact .thin (repeatSilenceEnd_thins s n)
  | chimeNoteEnd => exact .thin (chimeNoteEnd_thins s)
  | chimeStrikeEnd => exact .thin (chimeStrikeEnd_thins s)
  | mixBlock sense => exact mixBlock_keepsQueue s sense
  | orderClear p | orderPut p | orderAppend p | hallOpen p | segStart p | segEnd p | gapMark p | gapEnd p | hallDark p
  | planPut p | hallSet p | hallStatus p =>
    exact (programmeRequest_call (by simp)).keepsQueue
  | zoneSet p | zoneStatus p | loopReset p | levelSet p | levelRead p => exact (zoneRequest_call (by simp)).keepsQueue
  | doorSet p | partyAdd p | partyRemove p | partyMove p | partyList p | admitNow p | admitExtend p | admitClose p
  | usherClear p =>
    exact (admissionRequest_call (by simp)).keepsQueue
  | keymapSet p | scanSet p | keyStatus p | callList p | descSet p | descStatus p | talkOpen p | talkClose p
  | settingsSave p | restart p | partInfo p =>
    exact (otherRequest_call (by simp)).keepsQueue
  | lampTest p | storeOpen p | storeRead p | noticeRead p | noticeAck p | noticeSet p =>
    exact (portRequest_call (by simp) p).keepsQueue
  | storeFill p | storeProgram p | storeErase p | storeClose p => exact (ownersRequest_call (by simp) p).keepsQueue
  | keyDebounceDone k | keyLong k | keyRepeat k | keyStuck k | keyRelease k => exact keyStep_keepsQueue s _ k
  | addKeyPress | addKeyRepeat | removeKeyPress | doneKeyPress | usherKeyPress | usherKeyLong =>
    refine keyCommand_keepsQueue (fun k => ?_) rfl
    dsimp only [addKeyPress, addKeyRepeat, removeKeyPress, doneKeyPress, usherCall]
    repeat' split
    all_goals simp [foldl_call fun s q => (seat_frame s q).call, setLink]
  | removeKeyLong => exact keyCommand_keepsQueue (fun k => foldl_call discard_call _ k.2.2) rfl
  | levelPeriodEnd => exact levelPeriodEnd_keepsQueue s
  | i2cWriteStart p addr data | i2cWriteEnd p | writeTimeout p | i2cRead p addr count | stretchLimit p =>
    dsimp only [exec, execI2cWriteStart, execI2cWriteEnd, execWriteTimeout, execI2cRead, execStretchLimit]
    repeat' split
    all_goals exact .same rfl
  | hallQuietEvent h | hallSoundEvent h | planStepFire h | intervalDue h =>
    dsimp only [exec, execHallQuietEvent, execHallSoundEvent, execPlanStepFire, execIntervalDue]
    repeat' split
    all_goals exact .same (by simp [takeHallLevel])
  | zonePhaseEvent | relayRequest | channelChangeReport | overCurrentEvent l | foldBackRecovery l | openLoopBegin l
  | openLoopEnd l | rampStep z | inputFrame lane good slots =>
    dsimp only [exec, execZonePhaseEvent, execRelayRequest, execChannelChangeReport, execOverCurrentEvent, execFoldBackRecovery,
      execOpenLoopBegin, execOpenLoopEnd, execRampStep, execInputFrame, lockNotice]
    repeat' split
    all_goals exact .same (by simp [takeLoopEvent])
  | admissionPhaseEvent | windowWarn h | windowDeadline h =>
    dsimp only [exec, execAdmissionPhaseEvent, execWindowWarn, execWindowDeadline]
    repeat' split
    all_goals exact .same (by simp)
  | keyScanSweep down | lampStateOffer | tallyStateOffer | refuseIndication | lampFrame | refuseOverlayEnd l
  | lampTestEnd l | cutFlashEnd d =>
    dsimp only [exec, execKeyScanSweep, execLampStateOffer, execTallyStateOffer, execRefuseIndication, execLampFrame,
      execRefuseOverlayEnd, execLampTestEnd, execCutFlashEnd]
    repeat' split
    all_goals exact .same (by simp)
  | talkKeyPress | talkKeyRelease | describerLevelEvent d | descPhaseEvent | descStackReport | graceExpiry c =>
    dsimp only [exec, execTalkKeyPress, execTalkKeyRelease, execDescriberLevelEvent, execDescPhaseEvent, execDescStackReport,
      execGraceExpiry]
    repeat' split
    all_goals exact .same (by simp [takeTalkKey])
  | programComplete | eraseComplete left | storeReadDone p | saveComplete left | noticeOffer n | houseClockTick =>
    dsimp only [exec, execProgramComplete, execEraseComplete, execStoreReadDone, execSaveComplete, execNoticeOffer,
      execHouseClockTick]
    repeat' split
    all_goals exact .same rfl

theorem step_keepsQueue (s : State) : KeepsQueue s (step s) := by
  unfold step
  split
  · exact .same rfl
  · next c rest _ => exact exec_keepsQueue c { s with pending := rest }

end Sys2Proof.Machine

namespace Sys2Proof

/-- Settles O57: what brings a call finds room and gives it a free id and its place; nothing else brings or moves one. -/
theorem queueKept : Obligations.QueueKept := fun s t law does => Machine.step_keepsQueue s t does law

end Sys2Proof

/-! PROOFS. How calls end, what the Call unit takes from the other units, and the ends of phrases, silences, notes and strikes
(R129, R138, R142, R144–R153). -/

namespace Sys2Proof.Machine

/-! ## A call that is found -/

theorem findCall_id {s : State} {id : Nat} {c : Call} (found : findCall s id = some c) : c.id = id :=
  of_decide_eq_true (List.find?_some (p := fun d : Call => decide (d.id = id)) found)

theorem isLive_eq_true_iff {content : Content} : isLive content = true ↔ ∃ mic, content = .live mic := by
  cases content <;> simp [isLive]

theorem isLive_eq_false_iff {content : Content} : isLive content = false ↔ ∀ mic, content ≠ .live mic := by
  rw [← Bool.not_eq_true, isLive_eq_true_iff, not_exists]

theorem isQueued_iff {c : Call} : isQueued c = true ↔ c.state = .queued := decide_eq_true_iff

/-! ## Endings (R147) -/

theorem leaveQueue_eq (c : Call) (outcome : CallOutcome) (s : State) : leaveQueue c outcome s =
    offerTo (onlyPort (originPort c.origin)) 4 (byteOf c.id) (nameByte outcomeNames outcome) none
      { s with call := { s.call with queue := s.call.queue.filter fun d => d.id ≠ c.id } } := by
  have others : s.call.queue.filter (fun d => d.id != c.id) = s.call.queue.filter fun d => d.id ≠ c.id :=
    List.filter_congr fun d _ => by simp [bne, beq_eq_decide]
  unfold leaveQueue
  rw [others]
  rfl

theorem endCall_queued {outcome : CallOutcome} {s : State} {c : Call} (queued : c.state = .queued) :
    endCall outcome s c = leaveQueue c outcome s := by
  unfold endCall
  rw [queued]

theorem endCall_started {outcome : CallOutcome} {s : State} {c : Call} {r : Source} {cov : ZoneSet} {suspended : Bool}
    (started : c.state = .started r cov suspended) : endCall outcome s c =
      leaveQueue c outcome { remove (.call c.id) c.targets s with call := freeUp r s.call } := by
  unfold endCall
  rw [started]
  dsimp only
  rw [remove_call]
  rfl

theorem callEnding_rule : Rules.CallEnding := by
  intro outcome s c
  refine ⟨fun queued => ?_, fun r cov suspended started => ?_⟩
  · rw [endCall_queued queued, leaveQueue_eq]
    rfl
  · rw [endCall_started started, leaveQueue_eq]
    cases r <;> rfl

/-! ## CALL_CANCEL and LIVE_END (R149, R150) -/

section
variable {s : State} {p : Port} {id : Byte} {c : Call}

theorem callCancel_absent (none : findCall s id.toNat = none) : callCancel p [id] s = refuse .notFound s := by
  unfold callCancel
  rw [show natAt [id] 0 = id.toNat from rfl, none]

theorem callCancel_found (found : findCall s id.toNat = some c) : callCancel p [id] s =
    if p = .booth ∧ c.origin ≠ .booth then refuse .denied s else accept false [] (pass (endCall .cancelled s c)) := by
  unfold callCancel
  rw [show natAt [id] 0 = id.toNat from rfl, found]
  dsimp only
  simp only [Bool.and_eq_true, decide_eq_true_eq, bne_iff_ne]
  rfl

theorem liveEnd_absent (none : findCall s id.toNat = none) : liveEnd p [id] s = refuse .notFound s := by
  unfold liveEnd
  rw [show natAt [id] 0 = id.toNat from rfl, none]

theorem liveEnd_found (found : findCall s id.toNat = some c) : liveEnd p [id] s =
    if isLive c.content = false then refuse .state s
    else if c.origin ≠ originOf p then refuse .denied s
    else accept false [] (pass (endCall (if c.state = .queued then .cancelled else .done) s c)) := by
  unfold liveEnd
  rw [show natAt [id] 0 = id.toNat from rfl, found]
  dsimp only
  simp only [Bool.not_eq_true', bne_iff_ne, isQueued_iff]
  rfl

end

theorem callCancelAndLiveEnd_rule : Rules.CallCancelAndLiveEnd := by
  intro s p id
  have same : findCall (withoutRequest p s) id.toNat = findCall s id.toNat := rfl
  refine ⟨fun asks => ⟨fun none => ?_, fun c found => ⟨fun booth other => ?_, fun may => ?_⟩⟩,
    fun asks => ⟨fun none => ?_, fun c found => ⟨fun other => ?_, fun mic live => ⟨fun stranger => ?_, fun own => ?_⟩⟩⟩⟩
  · exact asks.refused (callCancel_absent (same.trans none))
  · exact asks.refused ((callCancel_found (same.trans found)).trans (if_pos ⟨booth, other⟩))
  · refine (takeRequest_waiting _ asks).trans (congrArg _ ?_)
    rw [callCancel_found (same.trans found), if_neg fun k => may.elim (fun ne => ne k.1) fun own => k.2 own]
    rfl
  · exact asks.refused (liveEnd_absent (same.trans none))
  · exact asks.refused ((liveEnd_found (same.trans found)).trans (if_pos (isLive_eq_false_iff.mpr other)))
  all_goals
    have isLive : ¬isLive c.content = false := by rw [live]; exact Bool.true_eq_false.mp
  · exact asks.refused ((liveEnd_found (same.trans found)).trans ((if_neg isLive).trans (if_pos stranger)))
  · refine (takeRequest_waiting _ asks).trans (congrArg _ ?_)
    rw [liveEnd_found (same.trans found), if_neg isLive, if_neg (not_not.mpr own)]
    rfl

/-! ## Expiry and timeout (R146, R148) -/

theorem callExpiryAndTimeout_rule : Rules.CallExpiryAndTimeout := by
  intro s c found
  refine ⟨fun deadline queued set due => ?_, fun started => ?_, fun start set due => ?_⟩
  · have ends : expired s.clock c = true := by simp [expired, isQueued, queued, set, due]
    show execCallDeadlineExpiry c.id s = _
    unfold execCallDeadlineExpiry
    rw [found]
    exact if_pos ends
  · have live : ¬expired s.clock c = true := by simp [expired, isQueued, started]
    show execCallDeadlineExpiry c.id s = _
    unfold execCallDeadlineExpiry
    rw [found]
    exact if_neg live
  · have ends : pageOver s.clock c = true := by
      rw [pageOver, set]
      exact due
    show execLiveTimeout c.id s = _
    unfold execLiveTimeout
    rw [found]
    exact if_pos ends

/-! ## Phase events and cancellations (R129, R138, R151–R153) -/

theorem callPhaseAndCancels_rule : Rules.CallPhaseAndCancels := by
  intro s h
  refine ⟨fun ev rest front => ?_, fun rest front => ?_, fun rest front => ?_, fun rest front => ?_⟩
  · show execCallPhaseEvent s = _
    unfold execCallPhaseEvent
    rw [front]
    rfl
  · show execHallCallCancel s = _
    unfold execHallCallCancel
    rw [front]
    rfl
  · show execPlanCallCancel s = _
    unfold execPlanCallCancel
    rw [front]
    rfl
  · show execAdmissionCallCancel s = _
    unfold execAdmissionCallCancel
    rw [front]
    rfl

/-! ## Stack reports (R142) -/

section
variable {u : CallUnit} {c : Call} {r : Source} {old : ZoneSet} {suspended : Bool} (cov : ZoneSet)

/-- R142: the record of a call after its coverage was reported, PLAYING or SUSPENDED. -/
def CallUnit.covers (u : CallUnit) (c : Call) (r : Source) (cov : ZoneSet) (hold : Bool) : CallUnit :=
  u.update c.id fun d => { d with state := .started r cov hold }

/-- R142: what a report makes of a started call: SUSPENDED where no zone is left to it and it is no LIVE call; its resource is
told where that changes. -/
theorem takeCoverage_started (found : u.queue.find? (fun d => d.id = c.id) = some c)
    (started : c.state = .started r old suspended) {covered : Bool} (covers : (cov = 0 && !isLive c.content) = covered) :
    takeCoverage u (.call c.id, cov) =
      if covered = suspended then u.covers c r cov covered
      else if covered then holdResource r (u.covers c r cov true)
      else resumeResource r (u.covers c r cov false) := by
  unfold takeCoverage
  dsimp only
  rw [found]
  dsimp only
  simp only [started, covers]
  cases covered <;> cases suspended <;> rfl

end

theorem callStackReport_rule : Rules.CallStackReport := by
  refine ⟨fun s r rest front => ?_, fun s flags rest front => ?_, fun u c r old cov suspended found started => ⟨?_, ?_⟩⟩
  · show execCallStackReport s = _
    unfold execCallStackReport
    rw [front]
    rfl
  · show execCallHushChange s = _
    unfold execCallHushChange
    rw [front]
    rfl
  · rintro mic live rfl
    exact takeCoverage_started cov found started (covered := false) (by simp [isLive, live])
  · intro other
    have notLive := isLive_eq_false_iff.mpr other
    refine ⟨?_, ?_, ?_, ?_⟩
    · rintro gone rfl
      exact takeCoverage_started cov found started (covered := true) (by simp [notLive, gone])
    · rintro gone rfl
      exact takeCoverage_started cov found started (covered := true) (by simp [notLive, gone])
    · rintro left rfl
      exact takeCoverage_started cov found started (covered := false) (by rw [decide_eq_false left]; rfl)
    · rintro left rfl
      exact takeCoverage_started cov found started (covered := false) (by rw [decide_eq_false left]; rfl)

/-! ## Phrases, silences, notes and strikes (R144, R145, R147) -/

section
variable {s : State} {n : Fin 3} {c : Call}

theorem contentEnd_found {id : Nat} (found : findCall s id = some c) : contentEnd id s = pass (endCall .done s c) := by
  unfold contentEnd
  rw [found]
  rfl

section
variable {p : Player} {list : List Nat} {repeats : Nat} (holds : s.call.players.get n = some p)
  (found : findCall s p.call = some c) (content : c.content = .phrases list) (times : c.repeats = some repeats)
include holds found content times

/-- R144, R147: a phrase's end by what follows it. -/
theorem phraseEnd_reported (ended : p.stage = .ended) : phraseEnd s n =
    (p.afterPhrase s.store.directory list repeats).elim (pass (endCall .done s c)) fun q => setPlayer n (some q) s := by
  have id := findCall_id found
  have plays : playList s.call p.call = (list, repeats) := id ▸ playList_of_phrases (id ▸ found) content times
  unfold phraseEnd
  rw [holds]
  dsimp only
  rw [if_pos ended, phraseTaken, plays, contentEnd_found found]
  cases p.afterPhrase s.store.directory list repeats <;> rfl

/-- R144: the end of a silence. -/
theorem repeatSilenceEnd_over {k : Nat} (silence : p.stage = .silence k) (due : 1000 ≤ k) :
    repeatSilenceEnd s n = setPlayer n (some (p.afterSilence s.store.directory list)) s := by
  have id := findCall_id found
  have plays : playList s.call p.call = (list, repeats) := id ▸ playList_of_phrases (id ▸ found) content times
  have isOver : silenceOver p = true := by
    rw [silenceOver, silence]
    exact decide_eq_true due
  unfold repeatSilenceEnd
  rw [holds]
  dsimp only
  rw [if_pos isOver, plays]

end

section
variable {g : ChimeGenerator} (holds : s.call.chime = some g)
include holds

/-- R50: the end of a note. -/
theorem chimeNoteEnd_over {note : Note} (plays : (chimeNotes g.pattern)[g.note]? = some note) (due : note.blocks ≤ g.noteBlocks) :
    chimeNoteEnd s = setChime (some g.nextNote) s := by
  have isOver : noteOver g = true := by
    rw [noteOver, ChimeGenerator.current, plays]
    exact decide_eq_true due
  unfold chimeNoteEnd
  rw [holds]
  exact if_pos isOver

/-- R145, R147: a strike's end by what follows it. -/
theorem chimeStrikeEnd_over (found : findCall s g.call = some c) (due : 1200 ≤ g.strikeBlocks) : chimeStrikeEnd s =
    g.afterStrike.elim (pass (endCall .done s c)) fun q => setChime (some q) s := by
  unfold chimeStrikeEnd
  rw [holds]
  dsimp only
  rw [if_pos (strikeOver_iff.mpr due), contentEnd_found found]
  cases g.afterStrike <;> rfl

end

end

theorem playersAndChime_rule : Obligations.PlayersAndChime := by
  intro s n c
  constructor
  · intro list repeats p holds found content times
    refine ⟨fun ended => ?_, fun k silence due => ?_⟩
    · have does := phraseEnd_reported holds found content times ended
      refine ⟨fun more => ?_, fun last again => ?_, fun last due => ?_⟩
      · rw [Player.afterPhrase, if_pos more] at does
        exact congrArg _ does
      · rw [Player.afterPhrase, if_neg (Nat.not_lt.mpr last), if_pos again] at does
        exact congrArg _ does
      · rw [afterPhrase_eq_none_iff.mpr ⟨last, due⟩] at does
        exact congrArg _ does
    · exact congrArg _ (repeatSilenceEnd_over holds found content times silence due)
  · intro g holds found
    refine ⟨fun note plays due => congrArg _ (chimeNoteEnd_over holds plays due), fun due more => ?_, fun due last => ?_⟩
    · have does := chimeStrikeEnd_over holds found due
      rw [ChimeGenerator.afterStrike, if_pos more] at does
      exact congrArg _ does
    · have does := chimeStrikeEnd_over holds found due
      rw [afterStrike_eq_none_iff.mpr last] at does
      exact congrArg _ does

end Sys2Proof.Machine

namespace Sys2Proof

/-- Settles O28: each request, expiry and timeout ends the call found, and an ending is its removal, its resource freed and its
leaving. -/
theorem callsEnd : Obligations.CallsEnd :=
  ⟨Machine.callEnding_rule, Machine.callCancelAndLiveEnd_rule, Machine.callExpiryAndTimeout_rule⟩

/-- Settles O29: each event at the front is taken, and a report turns a call due by its coverage. -/
theorem callEvents : Obligations.CallEvents := ⟨Machine.callPhaseAndCancels_rule, Machine.callStackReport_rule⟩

/-- Settles O31, by what follows a phrase, a silence, a note and a strike. -/
theorem playersAndChime : Obligations.PlayersAndChime := Machine.playersAndChime_rule

end Sys2Proof

/-! PROOFS. CALL_SUBMIT: the form of its nineteen bytes, its tests, and the call taken (R132, R133). -/

namespace Sys2Proof.Machine

/-! ## The content of a form (R132) -/

/-- R132: the content that the bytes give. -/
def formContent (ps : List Byte) : Option Content :=
  match natAt ps 1 with
  | 0 => (readPhrases (ps.drop 2)).bind fun list =>
      if list.all (fun n => n ≤ 127) then some (Content.phrases list) else none
  | 1 => ((finUpTo 8)[natAt ps 2]?).map fun p => Content.chime p (natAt ps 3)
  | 2 => ((finUpTo 2)[natAt ps 2]?).map Content.live
  | _ => none

/-- R132: a number of phrases out of range, or a phrase number. -/
def BadPhrases (ps : List Byte) : Prop :=
  natAt ps 2 = 0 ∨ 6 < natAt ps 2 ∨ ∃ i, i < natAt ps 2 ∧ 127 < natAt ps (3 + i)

/-- R132: the phrase numbers listed. -/
def formPhrases (ps : List Byte) : List Nat := (List.range (natAt ps 2)).map fun i => natAt ps (3 + i)

section
variable {ps : List Byte}

theorem map_toNat_take_drop {k n : Nat} (fits : k + n ≤ ps.length) :
    ((ps.drop k).take n).map BitVec.toNat = (List.range n).map fun i => natAt ps (k + i) := by
  refine List.ext_getElem (by simp; omega) fun i low _ => ?_
  have inside : k + i < ps.length := by simp at low; omega
  simp [natAt, byteAt, List.getD_eq_getElem?_getD, List.getElem?_eq_getElem inside]

theorem readPhrases_form (length : ps.length = 19) : readPhrases (ps.drop 2) =
    if 1 ≤ natAt ps 2 ∧ natAt ps 2 ≤ 6 then some (formPhrases ps) else none := by
  unfold readPhrases
  dsimp only
  rw [natAt_drop, List.drop_drop]
  refine if_ctx_congr .rfl (fun few : 1 ≤ natAt ps 2 ∧ natAt ps 2 ≤ 6 => congrArg some ?_) fun _ => rfl
  exact map_toNat_take_drop (k := 3) (n := natAt ps 2) (by omega)

/-- R132: the content of a PHRASES form. -/
theorem formContent_phrases (length : ps.length = 19) (kind : natAt ps 1 = 0) {content : Content} :
    formContent ps = some content ↔ ¬BadPhrases ps ∧ content = .phrases (formPhrases ps) := by
  have known : (formPhrases ps).all (fun n => n ≤ 127) = true ↔ ¬∃ i, i < natAt ps 2 ∧ 127 < natAt ps (3 + i) := by
    simp [formPhrases]
  simp only [formContent, BadPhrases, kind, readPhrases_form length]
  by_cases few : 1 ≤ natAt ps 2 ∧ natAt ps 2 ≤ 6
  · rw [if_pos few, Option.bind_some, Option.ite_none_right_eq_some, known, Option.some.injEq, eq_comm (a := content)]
    refine and_congr_left fun _ => ⟨fun all bad => ?_, fun sound bad => sound (.inr (.inr bad))⟩
    rcases bad with none | many | bad
    · omega
    · omega
    · exact all bad
  · rw [if_neg few]
    exact iff_of_false nofun fun sound => sound.1 (by omega)

/-- R132: the content of a CHIME form. -/
theorem formContent_chime (kind : natAt ps 1 = 1) {content : Content} : formContent ps = some content ↔
    ∃ pattern : Fin 8, pattern.val = natAt ps 2 ∧ content = .chime pattern (natAt ps 3) := by
  simp only [formContent, kind, Option.map_eq_some_iff]
  exact exists_congr fun named => and_congr (finUpTo_eq_some_iff.trans eq_comm) eq_comm

/-- R132: the content of a LIVE form. -/
theorem formContent_live (kind : natAt ps 1 = 2) {content : Content} : formContent ps = some content ↔
    ∃ mic : Fin 2, mic.val = natAt ps 2 ∧ content = .live mic := by
  simp only [formContent, kind, Option.map_eq_some_iff]
  exact exists_congr fun named => and_congr (finUpTo_eq_some_iff.trans eq_comm) eq_comm

theorem formContent_other (kind : 2 < natAt ps 1) : formContent ps = none := by
  unfold formContent
  split
  · omega
  · omega
  · omega
  · rfl

/-- R132: the bytes give no content. -/
def BadContent (ps : List Byte) : Prop :=
  2 < natAt ps 1 ∨ (natAt ps 1 = 0 ∧ BadPhrases ps) ∨ (natAt ps 1 = 1 ∧ 7 < natAt ps 2) ∨ (natAt ps 1 = 2 ∧ 1 < natAt ps 2)

theorem formContent_eq_none_iff (length : ps.length = 19) : formContent ps = none ↔ BadContent ps := by
  have kinds : natAt ps 1 = 0 ∨ natAt ps 1 = 1 ∨ natAt ps 1 = 2 ∨ 2 < natAt ps 1 := by omega
  rw [Option.eq_none_iff_forall_ne_some]
  rcases kinds with kind | kind | kind | kind
  · simp [BadContent, formContent_phrases length kind, kind]
  · have bad : BadContent ps ↔ 7 < natAt ps 2 := by simp [BadContent, kind]
    simp only [bad, ne_eq, formContent_chime kind]
    refine ⟨fun absent => ?_, fun high content ⟨pattern, same, _⟩ => by have := pattern.isLt; omega⟩
    by_contra low
    exact absent _ ⟨⟨natAt ps 2, by omega⟩, rfl, rfl⟩
  · have bad : BadContent ps ↔ 1 < natAt ps 2 := by simp [BadContent, kind]
    simp only [bad, ne_eq, formContent_live kind]
    refine ⟨fun absent => ?_, fun high content ⟨mic, same, _⟩ => by have := mic.isLt; omega⟩
    by_contra low
    exact absent _ ⟨⟨natAt ps 2, by omega⟩, rfl, rfl⟩
  · simp [BadContent, formContent_other kind, kind]

/-! ## The form (R132) -/

/-- R132: a form is its content and its other fields, one after the other. -/
theorem readCall_eq (ps : List Byte) : readCall ps =
    (formContent ps).bind fun content => (nameAt callModeNames ps 10).bind fun mode =>
      (zoneSetAt ps 11).bind fun targets => (nameAt flagNames ps 15).bind fun flag =>
        (optNameAt hallNames ps 18).bind fun link =>
          if targets = 0 ∨ 7 < natAt ps 0 then none
          else some ⟨natAt ps 0, content, stepAt ps 9, mode, targets, natAt ps 14,
            if flag then some (wordAt ps 16) else none, link⟩ := by
  unfold readCall formContent
  generalize natAt ps 1 = kind
  match kind with
  | 0 =>
    cases readPhrases (ps.drop 2) with
    | none => rfl
    | some list =>
      simp only [Option.bind_eq_bind, Option.bind_some]
      split <;> rfl
  | 1 | 2 | _ + 3 => rfl

theorem readCall_eq_some_iff {f : CallForm} : readCall ps = some f ↔
    ∃ content mode targets flag link, formContent ps = some content ∧ nameAt callModeNames ps 10 = some mode ∧
      zoneSetAt ps 11 = some targets ∧ nameAt flagNames ps 15 = some flag ∧ optNameAt hallNames ps 18 = some link ∧
      ¬(targets = 0 ∨ 7 < natAt ps 0) ∧
      f = ⟨natAt ps 0, content, stepAt ps 9, mode, targets, natAt ps 14, if flag then some (wordAt ps 16) else none, link⟩ := by
  rw [readCall_eq]
  simp only [Option.bind_eq_some_iff, Option.ite_none_left_eq_some, Option.some.injEq, eq_comm (b := f),
    exists_and_left]

/-- R132: the zones of a form: none of them above 17, and some. -/
theorem zoneSetAt_unfit_iff {i : Nat} : (∀ targets, zoneSetAt ps i = some targets → targets = 0) ↔
    natAt ps i * 65536 + natAt ps (i + 1) * 256 + natAt ps (i + 2) = 0 ∨
      2 ^ 18 ≤ natAt ps i * 65536 + natAt ps (i + 1) * 256 + natAt ps (i + 2) := by
  unfold zoneSetAt
  dsimp only
  rw [wordAt_eq, ← Nat.add_assoc]
  generalize natAt ps i * 65536 + natAt ps (i + 1) * 256 + natAt ps (i + 2) = zones
  by_cases fits : zones < 2 ^ 18
  · have zero : BitVec.ofNat 18 zones = 0 ↔ zones = 0 := by
      rw [← BitVec.toNat_inj, BitVec.toNat_ofNat, Nat.mod_eq_of_lt fits]
      rfl
    simp only [if_pos fits, Option.some.injEq, forall_eq', zero]
    omega
  · simp only [if_neg fits]
    exact iff_of_true nofun (.inr (Nat.le_of_not_lt fits))

/-- R132: what makes a form no call: its content, its zones, its mode, its priority, its hall, or its deadline flag (log 22). -/
theorem readCall_eq_none_iff (length : ps.length = 19) : readCall ps = none ↔
    BadContent ps ∨ (∀ targets, zoneSetAt ps 11 = some targets → targets = 0) ∨ 1 < natAt ps 10 ∨ 7 < natAt ps 0 ∨
      (1 < natAt ps 18 ∧ natAt ps 18 ≠ 255) ∨ 1 < natAt ps 15 := by
  have mode : nameAt callModeNames ps 10 = none ↔ 1 < natAt ps 10 := nameAt_eq_none_iff
  have flag : nameAt flagNames ps 15 = none ↔ 1 < natAt ps 15 := nameAt_eq_none_iff
  have link : optNameAt hallNames ps 18 = none ↔ 1 < natAt ps 18 ∧ natAt ps 18 ≠ 255 := optNameAt_eq_none_iff
  rw [← formContent_eq_none_iff length, ← mode, ← flag, ← link]
  constructor
  · intro refused
    by_contra sound
    simp only [not_or, not_forall] at sound
    obtain ⟨content, ⟨targets, zones, filled⟩, mode, low, link, flag⟩ := sound
    obtain ⟨_, content⟩ := Option.ne_none_iff_exists'.mp content
    obtain ⟨_, mode⟩ := Option.ne_none_iff_exists'.mp mode
    obtain ⟨_, flag⟩ := Option.ne_none_iff_exists'.mp flag
    obtain ⟨_, link⟩ := Option.ne_none_iff_exists'.mp link
    have taken := readCall_eq_some_iff.mpr
      ⟨_, _, targets, _, _, content, mode, zones, flag, link, not_or.mpr ⟨filled, low⟩, rfl⟩
    rw [refused] at taken
    cases taken
  · intro bad
    by_contra taken
    obtain ⟨f, taken⟩ := Option.ne_none_iff_exists'.mp taken
    obtain ⟨content, mode, targets, flag, link, hc, hm, hz, hf, hl, fits, -⟩ := readCall_eq_some_iff.mp taken
    rcases bad with k | k | k | k | k | k
    · rw [hc] at k; cases k
    · exact fits (.inl (k targets hz))
    · rw [hm] at k; cases k
    · exact fits (.inr k)
    · rw [hl] at k; cases k
    · rw [hf] at k; cases k

theorem formLink {link : Option Hall} (h : optNameAt hallNames ps 18 = some link) :
    link = match natAt ps 18 with | 0 => some .a | 1 => some .b | _ => none := by
  unfold optNameAt at h
  split at h
  · next absent =>
    rw [byteAt_eq_none_iff.mp absent]
    exact (Option.some.inj h).symm
  · obtain ⟨hall, named, rfl⟩ := Option.map_eq_some_iff.mp h
    unfold hallNames at named
    match e : natAt ps 18 with
    | 0 => rw [e] at named; exact named.symm
    | 1 => rw [e] at named; exact named.symm
    | n + 2 => rw [e] at named; cases named

theorem formDeadline {flag : Bool} (h : nameAt flagNames ps 15 = some flag) :
    (if flag then some (wordAt ps 16) else none) =
      if natAt ps 15 = 1 then some (natAt ps 16 * 256 + natAt ps 17) else none := by
  have low : natAt ps 15 ≤ 1 := by
    by_contra high
    rw [nameAt_flag_none (by omega)] at h
    cases h
  rw [nameAt_flag_of_le low, Option.some.injEq] at h
  subst h
  rw [wordAt_eq]
  simp only [decide_eq_true_eq]

end

theorem callForms_rule : Rules.CallForms := by
  intro ps length
  refine ⟨?_, fun f read => ?_⟩
  · rw [readCall_eq_none_iff length, zoneSetAt_unfit_iff, or_assoc]
    rfl
  · obtain ⟨content, mode, targets, flag, link, hc, hm, hz, hf, hl, -, rfl⟩ := readCall_eq_some_iff.mp read
    exact ⟨rfl, fun kind => ((formContent_phrases length kind).mp hc).2, fun kind => (formContent_chime kind).mp hc,
      fun kind => (formContent_live kind).mp hc, rfl, callMode_of_code hm, zoneSetAt_testBit hz, rfl, formDeadline hf,
      formLink hl⟩

/-! ## The tests (R133) -/

section
variable {p : Port} {f : CallForm} {s : State}

/-- R133: BOOTH may not submit a page, nor name a zone that is not a description zone. -/
def SubmitDenied (p : Port) (f : CallForm) : Prop :=
  p = .booth ∧ ((∃ mic, f.content = .live mic) ∨ ∃ z, zoneIn z f.targets = true ∧ ∀ d, zoneKind z ≠ .desc d)

/-- R133: the other ports may not name a description zone. -/
def SubmitMisplaced (p : Port) (f : CallForm) : Prop :=
  p ≠ .booth ∧ ∃ z d, zoneIn z f.targets = true ∧ zoneKind z = .desc d

def SubmitDark (f : CallForm) (s : State) : Prop := ∃ h, f.link = some h ∧ s.call.view.get h = .dark

def SubmitBusy (f : CallForm) (s : State) : Prop := (∃ list, f.content = .phrases list) ∧ storeOpen s = true

def SubmitAbsent (f : CallForm) (s : State) : Prop :=
  ∃ list n, f.content = .phrases list ∧ n ∈ list ∧ phraseEntry s.store.directory n = none

/-- The zones of a set that are no description zones. -/
theorem not_descZones_iff {zones : ZoneSet} :
    zones &&& ~~~descZones ≠ 0 ↔ ∃ z, zoneIn z zones = true ∧ ∀ d, zoneKind z ≠ .desc d := by
  have desc : ∀ z : ZoneNo, zoneIn z (~~~descZones) = true ↔ ∀ d, zoneKind z ≠ .desc d := by decide
  rw [ne_eq, zoneSet_eq_zero]
  simp only [zoneIn_and, not_forall, Bool.not_eq_false, Bool.and_eq_true, desc]

theorem submitDenied_iff : (p = .booth && isLive f.content) = true ∨ (p = .booth && f.targets &&& ~~~descZones != 0) = true ↔
    SubmitDenied p f := by
  simp only [SubmitDenied, Bool.and_eq_true, decide_eq_true_eq, bne_iff_ne, isLive_eq_true_iff, not_descZones_iff, and_or_left]

theorem submitMisplaced_iff : (p != .booth && f.targets &&& descZones != 0) = true ↔ SubmitMisplaced p f := by
  simp only [SubmitMisplaced, Bool.and_eq_true, bne_iff_ne, descZones_iff]

theorem submitDark_iff : linkDark s f.link = true ↔ SubmitDark f s := by
  unfold linkDark SubmitDark
  cases f.link <;> simp

theorem submitBusy_iff : (isPhrases f.content && storeOpen s) = true ↔ SubmitBusy f s := by
  rw [Bool.and_eq_true, isPhrases_iff, SubmitBusy]

theorem submitAbsent_iff : lacksPhrase s f.content = true ↔ SubmitAbsent f s := lacksPhrase_iff

open Classical in
/-- R133: the tests in their order. -/
theorem submitRefusal_eq (p : Port) (f : CallForm) (s : State) : submitRefusal p f s =
    if SubmitDenied p f then some .denied
    else if SubmitMisplaced p f then some .range
    else if SubmitDark f s then some .state
    else if SubmitBusy f s then some .busy
    else if SubmitAbsent f s then some .notFound
    else if 16 ≤ s.call.queue.length then some .full
    else none := by
  unfold submitRefusal
  rw [← ite_or]
  exact if_congr submitDenied_iff rfl <| if_congr submitMisplaced_iff rfl <| if_congr submitDark_iff rfl <|
    if_congr submitBusy_iff rfl <| if_congr submitAbsent_iff rfl <| if_congr .rfl rfl rfl

/-! ## The call taken (R132, R133) -/

theorem ite_clamp_fst {q : Prop} [Decidable q] {lo hi n : Nat} :
    (if q then clampNat lo hi n else (n, false)).1 = if q then (clampNat lo hi n).1 else n := by
  split <;> rfl

/-- R132, R133: the call of a form, clamped, before it has an id. -/
theorem consoleCall_fst (p : Port) (f : CallForm) (now : Clock) : (consoleCall p f now).1 =
    { id := 0
      origin := originOf p
      priority := if p = .booth then min 5 f.priority else f.priority
      content := match f.content with | .chime pattern strikes => .chime pattern (max 1 (min 4 strikes)) | c => c
      level := max (-24) (min 12 f.level)
      mode := f.mode
      targets := f.targets
      repeats := match f.content with | .phrases _ => some (max 1 (min 3 f.repeats)) | _ => none
      deadline := f.deadline.map fun t => now + BitVec.ofNat 32 (10 * max 5 (min 900 t))
      link := f.link
      state := .queued
      liveStart := none } := by
  have deadline : (f.deadline.map (clampNat 5 900)).map (fun t => laterBy now (ds t.1)) =
      f.deadline.map fun t => now + BitVec.ofNat 32 (10 * max 5 (min 900 t)) := by
    rw [Option.map_map]
    refine congrArg (f.deadline.map ·) (funext fun t => ?_)
    rw [Function.comp, clampNat_fst (by decide)]
    rfl
  unfold consoleCall
  dsimp only
  rw [deadline, ite_clamp_fst, clampNat_zero_fst, clampInt_fst (by decide)]
  unfold clampContent clampRepeat
  cases f.content with
  | phrases list => dsimp only; rw [clampNat_fst (by decide)]
  | chime pattern strikes => dsimp only; rw [clampNat_fst (by decide)]
  | live mic => rfl

/-- R133: a value of the form is clamped. -/
def SubmitClamped (p : Port) (f : CallForm) : Prop :=
  (p = .booth ∧ 5 < f.priority) ∨ f.level < -24 ∨ 12 < f.level ∨
    (∃ pattern strikes, f.content = .chime pattern strikes ∧ (strikes = 0 ∨ 4 < strikes)) ∨
    (¬(∃ mic, f.content = .live mic) ∧ (f.repeats = 0 ∨ 3 < f.repeats)) ∨ ∃ n, f.deadline = some n ∧ (n < 5 ∨ 900 < n)

theorem consoleCall_snd (p : Port) (f : CallForm) (now : Clock) : (consoleCall p f now).2 = true ↔ SubmitClamped p f := by
  have priority : (if p = .booth then clampNat 0 5 f.priority else (f.priority, false)).2 = true ↔
      p = .booth ∧ 5 < f.priority := by
    split
    · next booth => rw [clampNat_zero_snd, and_iff_right booth]
    · next other => exact iff_of_false nofun fun k => other k.1
  have content : (clampContent f.content).2 = true ↔
      ∃ pattern strikes, f.content = .chime pattern strikes ∧ (strikes = 0 ∨ 4 < strikes) := by
    unfold clampContent
    cases f.content <;> simp [clampNat_snd]
  have repeats : (clampRepeat f).2 = true ↔ ¬(∃ mic, f.content = .live mic) ∧ (f.repeats = 0 ∨ 3 < f.repeats) := by
    unfold clampRepeat
    cases f.content <;> simp [clampNat_snd]
  have deadline : (f.deadline.map (clampNat 5 900)).any Prod.snd = true ↔ ∃ n, f.deadline = some n ∧ (n < 5 ∨ 900 < n) := by
    cases f.deadline <;> simp [clampNat_snd]
  unfold consoleCall SubmitClamped
  dsimp only
  simp only [Bool.or_eq_true, priority, clampInt_snd, content, repeats, deadline, or_assoc]

/-! ## CALL_SUBMIT -/

section
variable {ps : List Byte}

theorem callSubmit_refused {st : Status} (read : readCall ps = some f) (refused : submitRefusal p f s = some st) :
    callSubmit p ps s = refuse st s := by
  unfold callSubmit
  rw [read]
  dsimp only
  rw [refused]

/-- The code of a call's state in a reply, where the call is found. -/
def reportedState (s : State) (id : Nat) : Nat := (findCall s id).elim 0 fun d => stateCode d.state

theorem callSubmit_taken (read : readCall ps = some f) (sound : submitRefusal p f s = none) : callSubmit p ps s =
    let q := enqueue (consoleCall p f s.clock).1 s
    accept (consoleCall p f s.clock).2 [byteOf q.1, byteOf (reportedState (pass q.2) q.1)] (pass q.2) := by
  unfold callSubmit reportedState
  rw [read]
  dsimp only
  rw [sound]
  dsimp only
  cases findCall (pass (enqueue (consoleCall p f s.clock).1 s).2) (enqueue (consoleCall p f s.clock).1 s).1 <;> rfl

end

end

theorem callSubmit_rule : Rules.CallSubmit := by
  intro s p ps asks
  refine ⟨fun unread => asks.refused (by simp only [callSubmit, unread]), fun f read => ?_⟩
  intro live phrases refused denied range dark busy absent
  have refuses {st : Status} (first : submitRefusal p f s = some st) : refused st :=
    asks.refused (callSubmit_refused read first)
  have tests := submitRefusal_eq p f s
  refine ⟨fun k => refuses ?_, fun k => refuses ?_, fun a b k => refuses ?_, fun a b c k => refuses ?_,
    fun a b c d k => refuses ?_, fun a b c d e k => refuses ?_, fun a b c d e room => ?_⟩
  · exact tests.trans (if_pos k)
  · exact tests.trans ((if_neg fun booth => k.1 booth.1).trans (if_pos k))
  · exact tests.trans ((if_neg a).trans ((if_neg b).trans (if_pos k)))
  · exact tests.trans ((if_neg a).trans ((if_neg b).trans ((if_neg c).trans (if_pos k))))
  · exact tests.trans ((if_neg a).trans ((if_neg b).trans ((if_neg c).trans ((if_neg d).trans (if_pos k)))))
  · exact tests.trans ((if_neg a).trans ((if_neg b).trans ((if_neg c).trans ((if_neg d).trans ((if_neg e).trans (if_pos k))))))
  · intro id call t clamped
    have sound : submitRefusal p f (withoutRequest p s) = none :=
      tests.trans ((if_neg a).trans ((if_neg b).trans ((if_neg c).trans ((if_neg d).trans ((if_neg e).trans
        (if_neg (Nat.not_le.mpr room)))))))
    have taken : enqueue (consoleCall p f s.clock).1 (withoutRequest p s) = (id, { withoutRequest p s with
        call := { s.call with queue := insertCall call s.call.queue, counter := if id = 255 then 1 else id + 1 } }) := by
      rw [callTakenIn_rule, consoleCall_fst]
      rfl
    refine ⟨(consoleCall p f s.clock).2, byteOf (reportedState t id), ?_, consoleCall_snd p f s.clock, fun c found => ?_⟩
    · refine (takeRequest_waiting _ asks).trans (congrArg _ ?_)
      rw [callSubmit_taken read sound, withoutRequest_clock, taken]
      rfl
    · rw [reportedState, found]
      refine ⟨fun queued => ?_, fun r z started => ?_⟩
      · rw [Option.elim, queued]
        rfl
      · rw [Option.elim, started]
        rfl

end Sys2Proof.Machine

namespace Sys2Proof

/-- Settles O24: the form field by field, the tests of R133 in their order, and the call that passes them. -/
theorem callSubmit : Obligations.CallSubmit := ⟨Machine.callForms_rule, Machine.callSubmit_rule⟩

end Sys2Proof

/-! PROOFS. Talk: requests and when talk is allowed, one evaluation of a channel, entry to a talk state, and the tallies
(R156, R157, R161–R169). -/

namespace Sys2Proof.Machine

/-! ## Talk requests, and when talk is allowed (R156, R157, R162) -/

theorem talkRequest_iff {u : Description} {c : ChannelSettings} : talkRequest u c = true ↔ ∃ d, c.input = some d ∧
    (0 < (u.describers.get d).keys ∨ (u.describers.get d).latch = true ∨
      (c.talkMode = .voice ∧ (u.describers.get d).voice = .sound)) := by
  unfold talkRequest
  cases c.input with
  | none => simp
  | some d => simp [or_assoc]

theorem talkRequestAndWithdrawal_rule : Rules.TalkRequestAndWithdrawal :=
  ⟨fun _ _ => talkRequest_iff, fun s c => ⟨rfl, fun z => by rw [zoneIn_oneZone, decide_eq_true_eq, eq_comm]⟩⟩

theorem talkAllowed_rule : Rules.TalkAllowed := by
  intro v
  refine ⟨?_, ?_⟩
  · unfold governingMode
    cases v.phase <;> rfl
  · simp [talkAllowed]

/-! ## What an evaluation asks for, state by state (R162–R166) -/

theorem onAir_iff {t : TalkState} : onAir t = true ↔ t = .live ∨ t = .grace := by simp [onAir]

section
variable {view : DescView} {request : Bool} {ch : Channel}

theorem verdict_dark (dark : view.phase = .dark) :
    verdict view request ch = if onAir ch.talk then .leave .off else .become .off := by
  unfold verdict
  rw [if_pos dark]
  cases ch.talk <;> rfl

section
variable (lit : view.phase ≠ .dark)
include lit

/-- R163, R166: OFF, IDLE, WAIT and MUTED are evaluated alike. -/
theorem verdict_waiting (waiting : ch.talk = .off ∨ ch.talk = .idle ∨ ch.talk = .wait ∨ ch.talk = .muted) :
    verdict view request ch = idleVerdict request (talkAllowed view) (governingMode view) := by
  obtain talk | talk | talk | talk := waiting <;> simp only [verdict, lit, talk, if_false]

theorem verdict_cut (talk : ch.talk = .cut) : verdict view request ch = if request then .stay else .become .idle := by
  simp only [verdict, lit, talk, if_false]

variable (asked : request = true) (unmuted : governingMode view ≠ some .muted)
include asked unmuted

theorem verdict_live (talk : ch.talk = .live) : verdict view request ch =
    if talkAllowed view then .stay else if 0 < ch.settings.grace then .grace else .leave .cut := by
  simp only [verdict, lit, talk, asked, unmuted, if_false, Bool.not_true, Bool.false_eq_true]

theorem verdict_grace (talk : ch.talk = .grace) : verdict view request ch =
    if talkAllowed view then .become .live else .stay := by
  simp only [verdict, lit, talk, asked, unmuted, if_false, Bool.not_true, Bool.false_eq_true]

end

theorem idleVerdict_unasked (allowed : Bool) (mode : Option DescMode) : idleVerdict false allowed mode = .become .idle := rfl

theorem idleVerdict_forbidden (mode : Option DescMode) :
    idleVerdict true false mode = if mode = some .muted then .become .muted else .become .wait := rfl

end

/-! ## One evaluation (R161–R166) -/

section
variable {s : State} {c : Fin 4}

theorem evaluate_stay (asked : verdictOf s c = .stay) : evaluate s c = s := by
  unfold evaluate
  dsimp only
  rw [asked]

theorem evaluate_become {t : TalkState} (asked : verdictOf s c = .become t) : evaluate s c = enter c t none s := by
  unfold evaluate
  dsimp only
  rw [asked]

theorem evaluate_grace (asked : verdictOf s c = .grace) : evaluate s c =
    enter c .grace (some (s.clock + BitVec.ofNat 32 (10 * (channelOf s c).settings.grace))) s := by
  unfold evaluate
  dsimp only
  rw [asked]
  rfl

end

theorem talkStateMachine_rule : Rules.TalkStateMachine := by
  intro s c ch view request allowed muted holds waiting
  refine ⟨fun dark => ?_, fun lit => ⟨fun air unasked => ?_, fun air asked hush => ?_, fun live asked unmuted may => ?_,
    fun live asked unmuted may long => ?_, fun live asked unmuted may short => ?_, fun grace asked unmuted may => ?_,
    fun grace asked unmuted may => ?_, fun cut unasked => ?_, fun cut asked => ?_, fun wait unasked => ?_,
    fun wait asked may hush => ?_, fun wait asked may unmuted => ?_, fun wait asked may d input => ?_⟩⟩
  · have asks : verdictOf s c = if onAir ch.talk then .leave .off else .become .off := verdict_dark dark
    by_cases air : holds
    · rw [if_pos air]
      exact evaluate_leave (asks.trans (if_pos (onAir_iff.mpr air)))
    · rw [if_neg air]
      exact evaluate_become (asks.trans (if_neg (onAir_iff.not.mpr air)))
  · exact evaluate_leave (verdict_eq_leave_iff.mpr ⟨air, .inr (.inl ⟨rfl, lit, unasked⟩)⟩)
  · exact evaluate_leave (verdict_eq_leave_iff.mpr ⟨air, .inr (.inr (.inl ⟨rfl, lit, asked, hush⟩))⟩)
  · exact evaluate_stay ((verdict_live lit asked unmuted live).trans (if_pos may))
  · exact evaluate_grace ((verdict_live lit asked unmuted live).trans
      ((if_neg (Bool.eq_false_iff.mp may)).trans (if_pos long)))
  · exact evaluate_leave (verdict_eq_leave_iff.mpr
      ⟨.inl live, .inr (.inr (.inr ⟨rfl, lit, asked, unmuted, live, may, short⟩))⟩)
  · exact evaluate_become ((verdict_grace lit asked unmuted grace).trans (if_pos may))
  · exact evaluate_stay ((verdict_grace lit asked unmuted grace).trans (if_neg (Bool.eq_false_iff.mp may)))
  · exact evaluate_become ((verdict_cut lit cut).trans (if_neg (Bool.eq_false_iff.mp unasked)))
  · exact evaluate_stay ((verdict_cut lit cut).trans (if_pos asked))
  all_goals have asks : verdictOf s c = idleVerdict request allowed (governingMode view) := verdict_waiting lit wait
  · rw [unasked, idleVerdict_unasked] at asks
    exact evaluate_become asks
  · rw [asked, may, idleVerdict_forbidden, if_pos hush] at asks
    exact evaluate_become asks
  · rw [asked, may, idleVerdict_forbidden, if_neg unmuted] at asks
    exact evaluate_become asks
  · exact evaluate_tryPush (verdict_eq_tryPush_iff.mpr ⟨lit, wait, asked, may⟩) input

/-! ## Tally states (R169) -/

/-- The talk states of the channels that name a describer. -/
def talksOf (u : Description) (d : Fin 4) : List TalkState :=
  ((finUpTo 4).filter fun c => (u.channels.get c).settings.input = some d).map fun c => (u.channels.get c).talk

theorem mem_talksOf {u : Description} {d : Fin 4} {t : TalkState} :
    t ∈ talksOf u d ↔ ∃ c, (u.channels.get c).settings.input = some d ∧ (u.channels.get c).talk = t := by
  simp [talksOf, Table.mem_finUpTo]

/-- The most urgent of some talk states, OFF of none. -/
def mostUrgent (l : List TalkState) : TalkState := (urgency.find? fun t => l.contains t).getD .off

theorem tallyState_eq (u : Description) (d : Fin 4) : tallyState u d = mostUrgent (talksOf u d) := rfl

theorem mostUrgent_nil : mostUrgent [] = .off := rfl

/-- The place of a talk state in the order of urgency, the most urgent first. -/
def urgencyRank (t : TalkState) : Nat := urgency.idxOf t

theorem mem_urgency (t : TalkState) : t ∈ urgency := by cases t <;> decide

theorem urgency_sorted : urgency.Pairwise fun t u => urgencyRank t < urgencyRank u := by decide

theorem mostUrgent_first {l : List TalkState} {t : TalkState} (member : t ∈ l) :
    mostUrgent l ∈ l ∧ urgencyRank (mostUrgent l) ≤ urgencyRank t := by
  obtain ⟨u, found⟩ := Option.isSome_iff_exists.mp
    ((List.find?_isSome (p := fun t => l.contains t)).mpr ⟨t, mem_urgency t, List.contains_iff_mem.mpr member⟩)
  obtain ⟨here, before, after, order, passed⟩ := List.find?_eq_some_iff_append.mp found
  rw [mostUrgent, found, Option.getD_some]
  refine ⟨List.contains_iff_mem.mp here, ?_⟩
  have place : t ∈ before ++ u :: after := order ▸ mem_urgency t
  have sorted : (before ++ u :: after).Pairwise fun t u => urgencyRank t < urgencyRank u := by
    rw [← order]
    exact urgency_sorted
  obtain early | late := List.mem_append.mp place
  · exact absurd member (by simpa using passed t early)
  · obtain rfl | later := List.mem_cons.mp late
    · exact le_rfl
    · exact (List.rel_of_pairwise_cons (List.pairwise_append.mp sorted).2.1 later).le

theorem tallyState_rule : Rules.TallyState := by
  intro u d rank
  have ranked (t : TalkState) : rank t = urgencyRank t := by cases t <;> rfl
  refine ⟨fun unnamed => ?_, fun c named => ?_⟩
  · have silent : talksOf u d = [] := List.eq_nil_iff_forall_not_mem.mpr fun t member =>
      have ⟨c, named, _⟩ := mem_talksOf.mp member
      unnamed c named
    rw [tallyState_eq, silent, mostUrgent_nil]
  · obtain ⟨member, first⟩ := mostUrgent_first (mem_talksOf.mpr ⟨c, named, rfl⟩)
    obtain ⟨q, names, talk⟩ := mem_talksOf.mp member
    rw [ranked, ranked]
    exact ⟨first, q, names, talk.symm⟩

/-! ## Tallies handed (R169) -/

/-- The tally states of some describers that differ from the ones last handed. -/
def tallyChanges (u : Description) (l : List (Fin 4)) : List (Fin 4 × TalkState) :=
  (l.filter fun d => tallyState u d ≠ (u.describers.get d).tally).map fun d => (d, tallyState u d)

/-- A describer's record with its tally state worked out. -/
def withTally (u : Description) (d : Fin 4) (r : Describer) : Describer := { r with tally := tallyState u d }

/-- The tally states of some describers handed. -/
def talliesHanded (l : List (Fin 4)) (s : State) : State :=
  { s with
    description := { s.description with describers := s.description.describers.mapOn (withTally s.description) l }
    mail := { s.mail with tallies := s.mail.tallies ++ tallyChanges s.description l } }

theorem tallyChanges_cons (u : Description) (d : Fin 4) (l : List (Fin 4)) :
    tallyChanges u (d :: l) = tallyChanges u [d] ++ tallyChanges u l := by
  rw [tallyChanges, ← List.singleton_append, List.filter_append, List.map_append]
  rfl

/-- A tally state does not look at the describers' records. -/
theorem tallyChanges_congr {u : Description} {rs : Table Describer 4} {l : List (Fin 4)}
    (same : ∀ d ∈ l, (rs.get d).tally = (u.describers.get d).tally) :
    tallyChanges { u with describers := rs } l = tallyChanges u l :=
  congrArg (List.map _) (List.filter_congr fun d member => by rw [same d member]; rfl)

theorem handTally_eq (s : State) (d : Fin 4) : handTally s d =
    { s with
      description := { s.description with describers := s.description.describers.modify d (withTally s.description d) }
      mail := { s.mail with tallies := s.mail.tallies ++ tallyChanges s.description [d] } } := by
  unfold handTally tallyChanges
  dsimp only
  split
  · next same =>
    rw [Table.modify_of_fixed _ (by rw [withTally, same]), List.filter_cons_of_neg (by simpa using same), List.filter_nil,
      List.map_nil, List.append_nil]
  · next differs =>
    rw [List.filter_cons_of_pos (by simpa using differs)]
    rfl

theorem foldl_handTally {l : List (Fin 4)} (once : l.Nodup) (s : State) : l.foldl handTally s = talliesHanded l s := by
  induction l generalizing s with
  | nil =>
    simp only [List.foldl_nil, talliesHanded, Table.mapOn_nil, tallyChanges, List.filter_nil, List.map_nil, List.append_nil]
  | cons d l ih =>
    obtain ⟨new, once⟩ := List.nodup_cons.mp once
    have later : tallyChanges { s.description with
        describers := s.description.describers.modify d (withTally s.description d) } l = tallyChanges s.description l :=
      tallyChanges_congr fun x member => by rw [Table.get_modify_ne _ _ (ne_of_mem_of_not_mem member new).symm]
    rw [List.foldl_cons, ih once, handTally_eq, talliesHanded, talliesHanded, ← Table.mapOn_cons _ _ new,
      tallyChanges_cons s.description d l, ← List.append_assoc]
    dsimp only
    rw [later]
    rfl

/-- R169: every describer's tally state worked out, at once. -/
theorem handTallies_eq (s : State) : handTallies s =
    { s with
      description := { s.description with describers := s.description.describers.mapIdx (withTally s.description) }
      mail := { s.mail with tallies := s.mail.tallies ++ tallyChanges s.description (finUpTo 4) } } := by
  unfold handTallies
  rw [foldl_handTally (nodup_finUpTo 4), talliesHanded, Table.mapOn_finUpTo]

/-! ## Entry to a talk state (R167, R169) -/

theorem noticed_iff {t : TalkState} : noticed t = true ↔ t = .live ∨ t = .wait ∨ t = .cut := by
  simp [noticed, or_assoc]

section
variable {c : Fin 4} {t : TalkState} {expiry : Option Clock} {s : State}

theorem enter_unchanged (same : t = (channelOf s c).talk) :
    enter c t expiry s = setChannel c ((channelOf s c).into t expiry) s := if_pos same

/-- The unit's record with a channel in a new state. -/
def Description.entered (u : Description) (c : Fin 4) (t : TalkState) (expiry : Option Clock) : Description :=
  { u with channels := u.channels.set c ((u.channels.get c).into t expiry) }

theorem enter_changed (changed : t ≠ (channelOf s c).talk) : enter c t expiry s =
    { s with
      description := { s.description.entered c t expiry with
        describers := s.description.describers.mapIdx (withTally (s.description.entered c t expiry)) }
      mail := { s.mail with
        offers := s.mail.offers ++ (if t = .live ∨ t = .wait ∨ t = .cut then
          [⟨8, byteOf c.val, nameByte talkStateNames t, s.clock, ⟨true, true, true⟩, none⟩] else [])
        tallies := s.mail.tallies ++ tallyChanges (s.description.entered c t expiry) (finUpTo 4) } } := by
  unfold enter
  dsimp only
  rw [if_neg changed, handTallies_eq]
  by_cases told : noticed t = true
  · rw [if_pos told, if_pos (noticed_iff.mp told)]
    rfl
  · rw [if_neg told, if_neg (noticed_iff.not.mp told), List.append_nil]
    rfl

theorem channelOf_enter (q : Fin 4) :
    channelOf (enter c t expiry s) q = if q = c then (channelOf s c).into t expiry else channelOf s q := by
  split
  · next same => rw [same]; exact enter_channel_self
  · next other => exact enter_channel_other other

end

theorem talkStateEntry_rule : Rules.TalkStateEntry := by
  intro c talk expiry s old t entered tally changed
  refine ⟨channelOf_enter, ?_⟩
  by_cases same : talk = old.talk
  · have left : t = setChannel c (old.into talk expiry) s := enter_unchanged same
    have stays : ¬entered := not_not.mpr same
    rw [left, if_neg stays, if_neg fun k => stays k.1, List.append_nil, List.append_nil]
    exact ⟨fun d => (if_neg stays).symm, rfl, rfl⟩
  · have into : t = _ := enter_changed same
    rw [into, if_pos same]
    refine ⟨fun d => .trans (Table.get_mapIdx _ _ _) (if_pos same).symm, ?_, rfl⟩
    rw [if_congr (and_iff_right (show entered from same)) rfl rfl]
    rfl

end Sys2Proof.Machine

namespace Sys2Proof

/-- Settles O32, by the verdict of each talk state and what an evaluation makes of it. -/
theorem talkStateMachine : Obligations.TalkStateMachine :=
  ⟨Machine.talkRequestAndWithdrawal_rule, Machine.talkAllowed_rule, Machine.talkStateMachine_rule⟩

/-- Settles O33: a tally state does not look at what was handed before, so handing them one by one is handing all at once. -/
theorem talkStateEntry : Obligations.TalkStateEntry := ⟨Machine.talkStateEntry_rule, Machine.tallyState_rule⟩

end Sys2Proof

/-! PROOFS. What makes the Description unit evaluate, and the requests TALK_OPEN and TALK_CLOSE (R156, R157, R160, R161,
R165). -/

namespace Sys2Proof.Machine

/-! ## The latches of describers (R160) -/

theorem describerNamed_iff {channels : Table Channel 4} {d : Fin 4} :
    describerNamed channels d = true ↔ ∃ c, (channels.get c).settings.input = some d := by
  simp [describerNamed, Table.any, Table.mem_toList]

section
variable {ps : List Byte} {flag : Bool} {s : State}

theorem talkLatch_unnamed (unnamed : ∀ d : Fin 4, natAt ps 0 = d.val → describerNamed s.description.channels d = false) :
    talkLatch flag ps s = refuse .range s := by
  unfold talkLatch
  split
  · rfl
  · next d code => rw [unnamed d (finUpTo_eq_some_iff.mp code), if_neg Bool.false_ne_true]

theorem talkLatch_named {d : Fin 4} (code : natAt ps 0 = d.val) (named : describerNamed s.description.channels d = true) :
    talkLatch flag ps s = accept false [] (changeDescriber d { s.description.describers.get d with latch := flag } s) := by
  unfold talkLatch
  rw [finUpTo_eq_some_iff.mpr code]
  exact if_pos named

end

theorem exec_talkLatch (p : Port) (flag : Bool) (s : State) : exec (if flag then .talkOpen p else .talkClose p) s =
    takeRequest (if flag then 0x5A else 0x5B) p s (talkLatch flag) := by
  cases flag <;> rfl

/-! ## The events (R156, R157, R161, R165) -/

section
variable {s : State}

theorem exec_talkKeyPress {d : Fin 4} {rest : List TalkKey} (waits : s.mail.talkKeys = ⟨d, .press⟩ :: rest) :
    exec .talkKeyPress s = .next (changeDescriber d
      { s.description.describers.get d with keys := min 64 ((s.description.describers.get d).keys + 1) } (takeTalkKey rest s)) := by
  show execTalkKeyPress s = _
  unfold execTalkKeyPress
  rw [waits]
  exact if_pos rfl

theorem exec_talkKeyRelease {d : Fin 4} {event : KeyEvent} {rest : List TalkKey} (waits : s.mail.talkKeys = ⟨d, event⟩ :: rest)
    (up : event = .release ∨ event = .stuck) : exec .talkKeyRelease s = .next (changeDescriber d
      { s.description.describers.get d with keys := (s.description.describers.get d).keys - 1 } (takeTalkKey rest s)) := by
  show execTalkKeyRelease s = _
  unfold execTalkKeyRelease
  rw [waits]
  exact if_pos up

theorem exec_describerLevelEvent {d : Fin 4} {v : LevelState} {rest : List LevelState}
    (waits : s.mail.describerLevels.get d = v :: rest) : exec (.describerLevelEvent d) s =
      .next (changeDescriber d { s.description.describers.get d with voice := v }
        { s with mail := { s.mail with describerLevels := s.mail.describerLevels.set d rest } }) := by
  show execDescriberLevelEvent d s = _
  unfold execDescriberLevelEvent
  rw [waits]

theorem exec_descPhaseEvent {ev : PhaseEvent} {rest : List PhaseEvent} (waits : s.mail.toDescription = ev :: rest) :
    exec .descPhaseEvent s = .next (evaluateAll (fun ch => ch.hall = ev.hall)
      { s with
        description := { s.description with
          view := s.description.view.set ev.hall ⟨ev.new, ev.segment.map fun g => g.2.2⟩ }
        mail := { s.mail with toDescription := rest } }) := by
  show execDescPhaseEvent s = _
  unfold execDescPhaseEvent
  rw [waits]
  rfl

theorem exec_descStackReport {r : StackReport} {rest : List StackReport} (waits : s.mail.zoneToDescription = r :: rest) :
    exec .descStackReport s = .next (evaluateAll (fun ch => zoneIn (descZone ch.zone) r.zones)
      { s with mail := { s.mail with zoneToDescription := rest } }) := by
  show execDescStackReport s = _
  unfold execDescStackReport
  rw [waits]

/-- R165: a grace runs out where its expiry is reached, and not before. -/
theorem exec_graceExpiry {c : Fin 4} {expiry : Clock} (grace : (channelOf s c).talk = .grace)
    (ends : (channelOf s c).expiry = some expiry) : exec (.graceExpiry c) s =
      if reached s.clock expiry then .next (enter c .cut none (withdraw c s)) else .next s := by
  show execGraceExpiry c s = _
  unfold execGraceExpiry
  dsimp only
  rw [grace, ends]

end

theorem descriptionEvents_rule : Rules.DescriptionEvents := by
  intro s changed
  refine ⟨fun d rest => exec_talkKeyPress, fun d event rest => exec_talkKeyRelease, fun d v rest => exec_describerLevelEvent,
    fun p d set asks => ⟨fun unnamed => ?_, fun ⟨e, c, code, input⟩ x same => ?_⟩, fun ev rest => exec_descPhaseEvent,
    fun r rest => exec_descStackReport, fun c expiry grace ends => ⟨fun ended => ?_, fun runs => ?_⟩⟩
  · refine (exec_talkLatch p set s).trans (asks.refused (talkLatch_unnamed fun e code => Bool.eq_false_iff.mpr fun named => ?_))
    obtain ⟨c, input⟩ := describerNamed_iff.mp named
    exact unnamed ⟨e, c, code.symm, input⟩
  · obtain rfl : e = x := Fin.ext (code.trans same.symm)
    exact (exec_talkLatch p set s).trans (asks.answered (talkLatch_named (s := withoutRequest p s) code.symm
      (describerNamed_iff.mpr ⟨c, input⟩)))
  · exact (exec_graceExpiry grace ends).trans (if_pos ended)
  · exact (exec_graceExpiry grace ends).trans (if_neg (Bool.eq_false_iff.mp runs))

end Sys2Proof.Machine

namespace Sys2Proof

/-- Settles O34: each event hands its channels to one fold of evaluations, and an input left as it was hands none. -/
theorem descriptionEvents : Obligations.DescriptionEvents :=
  ⟨Machine.descriptionEvents_rule, Machine.talkRequestAndWithdrawal_rule⟩

end Sys2Proof

/-! PROOFS. DESC_SET and the record it reads (R159, R169). -/

namespace Sys2Proof.Machine

/-! ## The record of DESC_SET (R159) -/

/-- The description zone of a channel's record. -/
def channelZoneAt (ps : List Byte) (i : Nat) : Option (Fin 4) :=
  if 8 ≤ natAt ps i then (finUpTo 4)[natAt ps i - 8]? else none

theorem readChannelSettings_eq (ps : List Byte) : readChannelSettings ps =
    (channelZoneAt ps 0).bind fun zone => (nameAt hallNames ps 1).bind fun hall => (optNameAt (finUpTo 4) ps 2).bind fun input =>
      (nameAt talkModeNames ps 3).bind fun mode =>
        some (⟨zone, hall, input, mode, (clampInt (-60) 0 (stepAt ps 4)).1, (clampInt (-24) 12 (stepAt ps 5)).1,
            (clampNat 0 10 (natAt ps 6)).1⟩,
          (clampInt (-60) 0 (stepAt ps 4)).2 || (clampInt (-24) 12 (stepAt ps 5)).2 || (clampNat 0 10 (natAt ps 6)).2) := by
  unfold readChannelSettings channelZoneAt
  split <;> rfl

section
variable {ps : List Byte} {i : Nat}

theorem channelZoneAt_eq_none_iff : channelZoneAt ps i = none ↔ natAt ps i < 8 ∨ 11 < natAt ps i := by
  unfold channelZoneAt
  split
  · rw [finUpTo_eq_none_iff]
    omega
  · simp only [true_iff]
    omega

theorem channelZoneAt_val {zone : Fin 4} (named : channelZoneAt ps i = some zone) : zone.val + 8 = natAt ps i := by
  unfold channelZoneAt at named
  split at named
  · have := finUpTo_eq_some_iff.mp named
    omega
  · cases named

theorem talkMode_of_code {mode : TalkMode} (named : nameAt talkModeNames ps i = some mode) :
    mode = if natAt ps i = 0 then .key else .voice := by
  unfold nameAt at named
  match code : natAt ps i with
  | 0 => rw [code] at named; exact (Option.some.inj named).symm
  | 1 => rw [code] at named; exact (Option.some.inj named).symm
  | n + 2 => rw [code] at named; cases named

theorem readChannelSettings_eq_none_iff : readChannelSettings ps = none ↔ natAt ps 0 < 8 ∨ 11 < natAt ps 0 ∨ 1 < natAt ps 1 ∨
    (3 < natAt ps 2 ∧ natAt ps 2 ≠ 255) ∨ 1 < natAt ps 3 := by
  have hall : nameAt hallNames ps 1 = none ↔ 1 < natAt ps 1 := nameAt_eq_none_iff
  have input : optNameAt (finUpTo 4) ps 2 = none ↔ 3 < natAt ps 2 ∧ natAt ps 2 ≠ 255 := optNameAt_eq_none_iff
  have mode : nameAt talkModeNames ps 3 = none ↔ 1 < natAt ps 3 := nameAt_eq_none_iff
  rw [← hall, ← input, ← mode, ← or_assoc (a := natAt ps 0 < 8), ← channelZoneAt_eq_none_iff, readChannelSettings_eq]
  cases channelZoneAt ps 0 with
  | none => simp
  | some _ => cases nameAt hallNames ps 1 with
    | none => simp
    | some _ => cases optNameAt (finUpTo 4) ps 2 with
      | none => simp
      | some _ => cases nameAt talkModeNames ps 3 <;> simp

theorem readChannelSettings_fields {v : ChannelSettings} {adjusted : Bool} (read : readChannelSettings ps = some (v, adjusted)) :
    v.zone.val + 8 = natAt ps 0 ∧ byteAt ps 1 = hallByte v.hall ∧
      v.input.map Fin.val = (if natAt ps 2 = 255 then none else some (natAt ps 2)) ∧
      v.talkMode = (if natAt ps 3 = 0 then .key else .voice) ∧
      v.depth = max (-60) (min 0 (byteAt ps 4).toInt) ∧ v.gain = max (-24) (min 12 (byteAt ps 5).toInt) ∧
      v.grace = min 10 (natAt ps 6) ∧
      (adjusted = true ↔ (byteAt ps 4).toInt < -60 ∨ 0 < (byteAt ps 4).toInt ∨ (byteAt ps 5).toInt < -24 ∨
        12 < (byteAt ps 5).toInt ∨ 10 < natAt ps 6) := by
  rw [readChannelSettings_eq] at read
  obtain ⟨zone, zoneNamed, read⟩ := Option.bind_eq_some_iff.mp read
  obtain ⟨hall, hallNamed, read⟩ := Option.bind_eq_some_iff.mp read
  obtain ⟨input, inputNamed, read⟩ := Option.bind_eq_some_iff.mp read
  obtain ⟨mode, modeNamed, e⟩ := Option.bind_eq_some_iff.mp read
  cases e
  refine ⟨channelZoneAt_val zoneNamed, nameAt_hall_iff.mp hallNamed, optNameAt_finUpTo_val inputNamed,
    talkMode_of_code modeNamed, clampInt_fst (by decide), clampInt_fst (by decide), clampNat_zero_fst _ _, ?_⟩
  simp only [Bool.or_eq_true, clampInt_snd, clampNat_zero_snd, or_assoc]
  rfl

end

theorem channelDark_iff {s : State} {c : Fin 4} {ps : List Byte} : channelDark s c ps = true ↔
    (s.description.view.get (channelOf s c).settings.hall).phase = .dark ∧
      ∀ h, byteAt ps 2 = hallByte h → (s.description.view.get h).phase = .dark := by
  simp only [channelDark, List.all_cons, Bool.and_eq_true, decide_eq_true_eq, List.all_eq_true, Option.mem_toList,
    nameAt_hall_iff]

theorem channelRecords_rule : Rules.ChannelRecords :=
  ⟨fun _ => ⟨readChannelSettings_eq_none_iff, fun _ _ => readChannelSettings_fields⟩, fun _ _ _ => channelDark_iff⟩

/-! ## The tests of DESC_SET, and what it replaces (R159, R169) -/

section
variable {s : State} {c : Fin 4} {ps : List Byte} (code : natAt ps 0 = c.val)
include code

theorem descSet_busy (busy : saving s = true) : descSet ps s = refuse .busy s := by
  simp only [descSet, finUpTo_eq_some_iff.mpr code, busy, if_true]

variable (idle : saving s = false)
include idle

theorem descSet_lit (lit : channelDark s c ps = false) : descSet ps s = refuse .state s := by
  simp only [descSet, finUpTo_eq_some_iff.mpr code, idle, lit, Bool.not_false, Bool.false_eq_true, if_true, if_false]

variable (dark : channelDark s c ps = true)
include dark

theorem descSet_unread (unread : readChannelSettings (ps.drop 1) = none) : descSet ps s = refuse .range s := by
  simp only [descSet, finUpTo_eq_some_iff.mpr code, idle, dark, unread, Bool.not_true, Bool.false_eq_true, if_false]

theorem descSet_fits {v : ChannelSettings} {adjusted : Bool} (read : readChannelSettings (ps.drop 1) = some (v, adjusted)) :
    descSet ps s = accept adjusted [] (setChannelSettings c v s) := by
  simp only [descSet, finUpTo_eq_some_iff.mpr code, idle, dark, read, Bool.not_true, Bool.false_eq_true, if_false]

end

theorem descSet_unnamed {ps : List Byte} (high : 3 < natAt ps 0) (s : State) : descSet ps s = refuse .range s := by
  simp only [descSet, finUpTo_eq_none_iff.mpr high]

/-- The unit's record with a channel's settings replaced. -/
def Description.withSettings (u : Description) (c : Fin 4) (v : ChannelSettings) : Description :=
  { u with channels := u.channels.set c { u.channels.get c with settings := v } }

/-- R159: clearing latches leaves the tally states as they were. -/
theorem tallyChanges_clearLatches (u : Description) (l : List (Fin 4)) : tallyChanges (clearLatches u) l = tallyChanges u l :=
  tallyChanges_congr fun _ _ => by rw [Table.get_mapIdx]

/-- R159: what is reported of a channel's old and new settings. -/
theorem reportChannel_eq (old new : ChannelSettings) (s : State) : reportChannel old new s =
    { s with mail := { s.mail with channelChanges :=
      s.mail.channelChanges ++ if old.zone ≠ new.zone ∨ old.hall ≠ new.hall then [⟨old.zone, new.zone⟩] else [] } } := by
  unfold reportChannel
  by_cases same : old.zone = new.zone ∧ old.hall = new.hall
  · rw [if_pos same, if_neg (by simp [same]), List.append_nil]
  · rw [if_neg same, if_pos (not_and_or.mp same)]

theorem setChannelSettings_eq (c : Fin 4) (v : ChannelSettings) (s : State) : setChannelSettings c v s =
    { s with
      description := { s.description.withSettings c v with
        describers :=
          (clearLatches (s.description.withSettings c v)).describers.mapIdx (withTally (s.description.withSettings c v)) }
      mail := { s.mail with
        channelChanges := s.mail.channelChanges ++
          if (channelOf s c).settings.zone ≠ v.zone ∨ (channelOf s c).settings.hall ≠ v.hall then
            [⟨(channelOf s c).settings.zone, v.zone⟩] else []
        tallies := s.mail.tallies ++ tallyChanges (s.description.withSettings c v) (finUpTo 4) } } := by
  unfold setChannelSettings
  dsimp only
  rw [handTallies_eq, reportChannel_eq, ← tallyChanges_clearLatches (s.description.withSettings c v)]
  rfl

section
variable {c : Fin 4} {v : ChannelSettings} {s : State} {d : Fin 4}

/-- R159, R169: a describer's latch is kept where a channel names it, and its tally state worked out. -/
theorem setChannelSettings_describer : (setChannelSettings c v s).description.describers.get d =
    { s.description.describers.get d with
      latch := (s.description.describers.get d).latch && describerNamed (s.description.withSettings c v).channels d
      tally := tallyState (s.description.withSettings c v) d } := by
  rw [setChannelSettings_eq, Table.get_mapIdx, clearLatches, Table.get_mapIdx]
  rfl

theorem setChannelSettings_named (named : ∃ q, ((s.description.withSettings c v).channels.get q).settings.input = some d) :
    (setChannelSettings c v s).description.describers.get d =
      { s.description.describers.get d with tally := tallyState (s.description.withSettings c v) d } := by
  rw [setChannelSettings_describer, describerNamed_iff.mpr named, Bool.and_true]

theorem setChannelSettings_unnamed
    (unnamed : ¬∃ q, ((s.description.withSettings c v).channels.get q).settings.input = some d) :
    (setChannelSettings c v s).description.describers.get d =
      { s.description.describers.get d with latch := false, tally := tallyState (s.description.withSettings c v) d } := by
  rw [setChannelSettings_describer, Bool.eq_false_iff.mpr (describerNamed_iff.not.mpr unnamed), Bool.and_false]

end

theorem descSet_rule : Rules.DescSet := by
  intro s p ps asks
  refine ⟨fun high => asks.refused (descSet_unnamed high _), fun c code => ⟨fun busy => asks.refused (descSet_busy code busy),
    fun idle lit => asks.refused (descSet_lit code idle lit), fun idle dark =>
      ⟨fun unread => asks.refused (descSet_unread code idle dark unread), fun new adjusted read => ?_⟩⟩⟩
  intro old channels tally named changed moved
  refine ⟨setChannelSettings c new (withoutRequest p s),
    asks.answered (descSet_fits (s := withoutRequest p s) code idle dark read),
    fun d => ⟨setChannelSettings_named (s := withoutRequest p s), setChannelSettings_unnamed (s := withoutRequest p s)⟩, ?_⟩
  rw [setChannelSettings_eq]
  rfl

end Sys2Proof.Machine

namespace Sys2Proof

/-- Settles O35, by the tests in their order; the settings replaced, the latches and the report leave the tally states alone but
for the channel replaced. -/
theorem descSet : Obligations.DescSet := ⟨Machine.descSet_rule, Machine.channelRecords_rule⟩

end Sys2Proof

/-! PROOFS. The requests to the Store unit, SETTINGS_SAVE, RESTART and PART_INFO (R173–R177, R179, R182, R184, R185). -/

namespace Sys2Proof.Machine

/-! ## What the requests test (R173, R174, R182, R184) -/

/-- R173: the store's owner is another port. -/
abbrev OwnedElsewhere (p : Port) (u : Store) : Prop := u.owner ≠ none ∧ u.owner ≠ some p

/-- R174–R179: a flash operation is in progress. -/
abbrev FlashInUse (u : Store) : Prop :=
  (∃ page, u.state = .programming page) ∨ (∃ sector, u.state = .erasing sector) ∨ ∃ image, u.state = .saving image

/-- R182, R184: a hall is not DARK, or the store is OPEN. -/
abbrev NotQuiet (s : State) : Prop :=
  (hallOf s .a).phase ≠ .dark ∨ (hallOf s .b).phase ≠ .dark ∨ s.store.state = .opened

theorem otherOwner_iff {p : Port} {u : Store} : otherOwner p u = true ↔ OwnedElsewhere p u := by
  unfold otherOwner
  cases owner : u.owner <;> simp [OwnedElsewhere, owner]

theorem storeBusy_iff {u : Store} : storeBusy u = true ↔ FlashInUse u := by
  unfold storeBusy
  cases state : u.state <;> simp [FlashInUse, state]

theorem phrasesQueued_eq_false_iff_content {s : State} :
    phrasesQueued s = false ↔ ∀ c ∈ s.call.queue, ∀ list, c.content ≠ .phrases list := by
  rw [phrasesQueued_eq_false_iff]
  refine forall₂_congr fun c _ => ?_
  cases c.content <;> simp [isPhrases]

theorem hallDark_iff {s : State} {h : Hall} : hallDark s h = true ↔ (hallOf s h).phase = .dark := decide_eq_true_iff

theorem saving_iff {s : State} : saving s = true ↔ ∃ image, s.store.state = .saving image := by
  unfold saving
  cases s.store.state <;> simp

theorem storeStates_rule : Rules.StoreStates := fun _ =>
  ⟨saving_iff, storeOpen_iff, fun _ => hallDark_iff, bothHallsDark_iff⟩

/-! ## Requests of the store's owner (R175–R177, R179) -/

section
variable {code : Byte} {p : Port} {s : State} {ps : List Byte} {unit : List Byte → State → Answer}

/-- An accepted request that replaces the store's record. -/
theorem Asks.storeAccepted (asks : Asks s p code ps) {after : Store}
    (does : unit ps (withoutRequest p s) = accept false [] (setStore after (withoutRequest p s))) :
    takeRequest code p s unit = .next { replied p .ok [] s with store := after } :=
  asks.accepted (a := false) (setStore after) does fun _ => rfl

/-- R173: the tests of an owner's request in their order, and what the open store does with it. -/
theorem Asks.ownerAnswers (asks : Asks s p code ps) {bad : Bool} {Bad : Prop} {act : State → State} {after : Store}
    (test : bad = true ↔ Bad) (does : unit ps (withoutRequest p s) = ownerRequest p bad (withoutRequest p s) act)
    (acts : act (withoutRequest p s) = setStore after (withoutRequest p s)) :
    let r := takeRequest code p s unit
    (OwnedElsewhere p s.store → r = .next (replied p .denied [] s)) ∧
    (¬OwnedElsewhere p s.store → Bad → r = .next (replied p .range [] s)) ∧
    (¬OwnedElsewhere p s.store → ¬Bad → FlashInUse s.store → r = .next (replied p .busy [] s)) ∧
    (¬OwnedElsewhere p s.store → ¬Bad → s.store.state = .locked → r = .next (replied p .state [] s)) ∧
    (¬OwnedElsewhere p s.store → ¬Bad → s.store.state = .opened →
      r = .next { replied p .ok [] s with store := after }) := by
  have step := does
  unfold ownerRequest at step
  rw [withoutRequest_store] at step
  refine ⟨fun other => asks.refused ?_, fun own isBad => asks.refused ?_, fun own good busy => asks.refused ?_,
    fun own good locked => asks.refused ?_, fun own good opened => asks.storeAccepted ?_⟩
  · rw [step, if_pos (otherOwner_iff.mpr other)]
  · rw [step, if_neg (otherOwner_iff.not.mpr own), if_pos (test.mpr isBad)]
  · rw [step, if_neg (otherOwner_iff.not.mpr own), if_neg (test.not.mpr good), if_pos (storeBusy_iff.mpr busy)]
  · have idle : storeBusy s.store = false := by rw [storeBusy, locked]
    rw [step, if_neg (otherOwner_iff.not.mpr own), if_neg (test.not.mpr good), idle, if_neg Bool.false_ne_true, if_pos locked]
  · have idle : storeBusy s.store = false := by rw [storeBusy, opened]
    rw [step, if_neg (otherOwner_iff.not.mpr own), if_neg (test.not.mpr good), idle, if_neg Bool.false_ne_true, opened,
      if_neg StoreState.noConfusion, acts]

end

/-- R175: the page buffer after a fill, byte by byte. -/
theorem fillBuffer_eq (b : Table Byte 256) (offset : Nat) (data : List Byte) : fillBuffer b offset data =
    b.mapIdx fun i x => if offset ≤ i.val then (data[i.val - offset]?).getD x else x := by
  unfold fillBuffer
  congr 1
  funext i x
  by_cases before : i.val < offset
  · rw [if_pos before, if_neg (Nat.not_le.mpr before)]
  · rw [if_neg before, if_pos (Nat.not_lt.mp before), List.getD_eq_getElem?_getD]

theorem storeRequests_rule : Rules.StoreRequests := by
  intro s p ps u other busy answers
  refine ⟨fun asks => ?_, fun asks => ?_, fun asks => ?_, fun asks => ?_, fun asks => ?_⟩
  · intro free
    have allowed : (u.state = .locked && bothHallsDark s && !phrasesQueued s) = true ↔ free := by
      rw [Bool.and_eq_true, Bool.and_eq_true, decide_eq_true_eq, bothHallsDark_iff, Bool.not_eq_true',
        phrasesQueued_eq_false_iff_content, and_assoc]
      refine and_congr_right fun _ => ?_
      rw [← and_assoc]
      exact and_congr_left fun _ => ⟨fun dark => ⟨dark .a, dark .b⟩, fun dark h => by cases h; exacts [dark.1, dark.2]⟩
    refine ⟨fun pending => asks.refused (if_pos pending), fun quiet refused => asks.refused ?_,
      fun quiet may => asks.storeAccepted ?_⟩
    · exact (if_neg (Bool.eq_false_iff.mp quiet)).trans (if_neg (allowed.not.mpr refused))
    · exact (if_neg (Bool.eq_false_iff.mp quiet)).trans (if_pos (allowed.mpr may))
  · intro data n
    refine asks.ownerAnswers (by simp only [Bool.or_eq_true, decide_eq_true_eq, or_assoc]; rfl) rfl ?_
    exact congrArg (fun b => setStore { s.store with buffer := b } (withoutRequest p s)) (fillBuffer_eq _ _ _)
  · exact asks.ownerAnswers decide_eq_true_iff rfl rfl
  · exact asks.ownerAnswers decide_eq_true_iff rfl rfl
  · exact asks.ownerAnswers (by simp) rfl rfl

/-! ## SETTINGS_SAVE, RESTART and PART_INFO (R182, R184, R185) -/

section
variable {s : State}

theorem not_bothHallsDark_or_opened_iff : (!bothHallsDark s || decide (s.store.state = .opened)) = true ↔ NotQuiet s := by
  have dark : bothHallsDark s = true ↔ (hallOf s .a).phase = .dark ∧ (hallOf s .b).phase = .dark :=
    bothHallsDark_iff.trans ⟨fun all => ⟨all .a, all .b⟩, fun both h => by cases h; exacts [both.1, both.2]⟩
  rw [Bool.or_eq_true, Bool.not_eq_true', decide_eq_true_eq, Bool.eq_false_iff, ne_eq, dark, not_and_or, or_assoc]

theorem quietRefusal_state (loud : NotQuiet s) : quietRefusal s = some .state :=
  if_pos (not_bothHallsDark_or_opened_iff.mpr loud)

theorem quietRefusal_busy (quiet : ¬NotQuiet s) (busy : FlashInUse s.store ∨ s.store.restartPending = true) :
    quietRefusal s = some .busy := by
  refine (if_neg (not_bothHallsDark_or_opened_iff.not.mpr quiet)).trans (if_pos ?_)
  rw [Bool.or_eq_true, storeBusy_iff]
  exact busy

theorem quietRefusal_none (quiet : ¬NotQuiet s) (idle : ¬FlashInUse s.store) (clear : s.store.restartPending = false) :
    quietRefusal s = none := by
  refine (if_neg (not_bothHallsDark_or_opened_iff.not.mpr quiet)).trans (if_neg ?_)
  rw [Bool.or_eq_true, storeBusy_iff, clear]
  exact not_or.mpr ⟨idle, Bool.false_ne_true⟩

/-- A request with the tests of SETTINGS_SAVE and RESTART is refused as they say. -/
theorem Asks.quietRefused {code : Byte} {p : Port} {ps : List Byte} {unit : List Byte → State → Answer} {st : Status}
    (asks : Asks s p code ps) (tests : ∀ t st, quietRefusal t = some st → unit ps t = refuse st t)
    (refusal : quietRefusal s = some st) : takeRequest code p s unit = .next (replied p st [] s) :=
  asks.refused (tests _ st refusal)

theorem settingsSave_refused (ps : List Byte) (t : State) (st : Status) (refusal : quietRefusal t = some st) :
    settingsSave ps t = refuse st t := by rw [settingsSave, refusal]

theorem settingsSave_accepted (ps : List Byte) (free : quietRefusal s = none) : settingsSave ps s = accept false []
    (setStore { s.store with state := .saving (buildImage (currentSettings s)), saveReach := 0 } s) := by
  rw [settingsSave, free]

theorem restart_refused (ps : List Byte) (t : State) (st : Status) (refusal : quietRefusal t = some st) :
    restart ps t = refuse st t := by rw [restart, refusal]

theorem restart_accepted (ps : List Byte) (free : quietRefusal s = none) :
    restart ps s = ⟨setStore { s.store with restartPending := true } s, none⟩ := by rw [restart, free]

end

/-- R185: the part number and the strap value in their bytes. -/
theorem partInfo_eq (ps : List Byte) (s : State) :
    partInfo ps s = accept false [0x07, 0x02, 0xE4, Config.revisionLetter, s.straps.setWidth 8] s := by
  have strap : byteOf s.straps.toNat = s.straps.setWidth 8 := BitVec.eq_of_toNat_eq (by simp [byteOf])
  rw [partInfo, strap]
  rfl

theorem restartAndIdentity_rule : Rules.RestartAndIdentity := by
  intro s p u busy notQuiet
  refine ⟨fun asks => ⟨fun loud => ?_, fun quiet inUse => ?_, fun quiet idle clear => ?_⟩,
    fun asks => asks.reported (a := false) (partInfo_eq _ _)⟩
  · exact asks.quietRefused (restart_refused _) (quietRefusal_state loud)
  · exact asks.quietRefused (restart_refused _) (quietRefusal_busy quiet inUse)
  · exact (takeRequest_waiting restart asks).trans
      (by rw [restart_accepted (s := withoutRequest p s) _ (quietRefusal_none quiet idle clear)]; rfl)

end Sys2Proof.Machine

/-! PROOFS. What the phrase flash reads as after each of its operations, whole or cut short (R171, R176, R177, R180, R182). -/

namespace Sys2Proof.Machine

/-! ## Cells and bytes (R171) -/

/-- An address that no cell lists reads FFH. -/
theorem Flash.read_of_not_mem {m : Flash} {a : Nat} (unlisted : ∀ c ∈ m, c.1 ≠ a) : m.read a = erasedByte := by
  induction m with
  | nil => rfl
  | cons c rest ih =>
    rw [Flash.read, if_neg (unlisted c List.mem_cons_self), ih fun d hd => unlisted d (List.mem_cons_of_mem _ hd), ite_self]

/-- A listed cell reads as its byte. -/
theorem Flash.read_of_mem {m : Flash} (wf : m.wf = true) {c : Host.Cell} (listed : c ∈ m) : m.read c.1 = c.2 := by
  induction m with
  | nil => exact absurd listed List.not_mem_nil
  | cons d rest ih =>
    obtain ⟨-, -, above⟩ := Flash.wf_head wf
    rw [Flash.read]
    rcases List.mem_cons.mp listed with rfl | later
    · rw [if_pos rfl]
    · have := above c later
      rw [if_neg (by omega), if_neg (by omega), ih (Flash.wf_tail wf) later]

/-- Cells dropped by their address read FFH, and the others as before. -/
theorem Flash.read_filter {m : Flash} (wf : m.wf = true) (keep : Nat → Bool) (a : Nat) :
    Flash.read (m.filter fun c => keep c.1) a = if keep a then m.read a else erasedByte := by
  by_cases listed : ∃ c ∈ m, c.1 = a
  · obtain ⟨c, hc, rfl⟩ := listed
    split
    · next kept => rw [Flash.read_of_mem (Flash.wf_filter _ wf) (List.mem_filter.mpr ⟨hc, kept⟩), Flash.read_of_mem wf hc]
    · next dropped =>
      refine Flash.read_of_not_mem fun d hd same => dropped ?_
      rw [← same]
      exact (List.mem_filter.mp hd).2
  · have unlisted : ∀ c ∈ m, c.1 ≠ a := fun c hc same => listed ⟨c, hc, same⟩
    rw [Flash.read_of_not_mem fun c hc => unlisted c (List.mem_filter.mp hc).1, Flash.read_of_not_mem unlisted, ite_self]

theorem Flash.readAll_eq_map (m : Flash) (a n : Nat) : m.readAll a n = (List.range n).map fun i => m.read (a + i) := by
  induction n generalizing a with
  | zero => rfl
  | succ n ih =>
    rw [Flash.readAll, ih, List.range_succ_eq_map, List.map_cons, List.map_map]
    exact congrArg _ (List.map_congr_left fun i _ => congrArg m.read (by simp only [Nat.succ_eq_add_one]; omega))

/-! ## Bytes put and programmed -/

/-- Bytes put from an address upward read as put, and the others as before. -/
theorem Flash.read_putAll {m : Flash} (wf : m.wf = true) (a : Nat) {bs : List Byte} (fits : a + bs.length ≤ flashSize) (x : Nat) :
    (m.putAll a bs).read x = if a ≤ x then (bs[x - a]?).getD (m.read x) else m.read x := by
  induction bs generalizing m a with
  | nil => simp [Flash.putAll]
  | cons b bs ih =>
    rw [List.length_cons] at fits
    rw [Flash.putAll, ih (Flash.wf_put _ _ wf) _ (by omega), Flash.read_put _ _ wf]
    by_cases here : x = a
    · subst here
      rw [if_neg (by omega), if_pos ⟨rfl, by omega⟩, if_pos (Nat.le_refl _), Nat.sub_self]
      rfl
    · have notHere : ¬(x = a ∧ a < flashSize) := fun both => here both.1
      rw [if_neg notHere]
      by_cases later : a + 1 ≤ x
      · rw [if_pos later, if_pos (by omega), show x - a = (x - (a + 1)) + 1 by omega, List.getElem?_cons_succ]
      · rw [if_neg later, if_neg (by omega)]

/-- Bytes put read back whole. -/
theorem Flash.readAll_putAll {m : Flash} (wf : m.wf = true) (a : Nat) {bs : List Byte} (fits : a + bs.length ≤ flashSize) :
    (m.putAll a bs).readAll a bs.length = bs := by
  rw [Flash.readAll_eq_map]
  refine List.ext_getElem (by rw [List.length_map, List.length_range]) fun i _ inside => ?_
  rw [List.getElem_map, List.getElem_range, Flash.read_putAll wf a fits, if_pos (Nat.le_add_right a i), Nat.add_sub_cancel_left,
    List.getElem?_eq_getElem inside]
  rfl

theorem Flash.read_putCells {m : Flash} (wf : m.wf = true) {cells : List Host.Cell} {a : Nat} (apart : ∀ c ∈ cells, c.1 ≠ a) :
    (m.putCells cells).read a = m.read a := by
  induction cells generalizing m with
  | nil => rfl
  | cons c cells ih =>
    rw [Flash.putCells, ih (Flash.wf_put _ _ wf) fun d hd => apart d (List.mem_cons_of_mem _ hd), Flash.read_put _ _ wf,
      if_neg fun both => apart c List.mem_cons_self both.1.symm]

/-- R176: what programming asks of a byte: the buffer's byte, and FFH, which changes nothing, where the buffer has none. -/
def programmedByte (a : Nat) (bs : List Byte) (x : Nat) : Byte := if a ≤ x then bs.getD (x - a) 0xFF else 0xFF

theorem programmedByte_cons (a : Nat) (b : Byte) (bs : List Byte) (x : Nat) :
    programmedByte a (b :: bs) x = if x = a then b else programmedByte (a + 1) bs x := by
  unfold programmedByte
  by_cases here : x = a
  · rw [if_pos here, if_pos (by omega), here, Nat.sub_self, List.getD_cons_zero]
  · rw [if_neg here]
    by_cases later : a + 1 ≤ x
    · rw [if_pos later, if_pos (by omega), show x - a = (x - (a + 1)) + 1 by omega, List.getD_cons_succ]
    · rw [if_neg later, if_neg (by omega)]

theorem programmedByte_below {a x : Nat} (bs : List Byte) (below : x < a) : programmedByte a bs x = 0xFF :=
  if_neg (Nat.not_le.mpr below)

theorem and_erased (b : Byte) : b &&& 0xFF = b := BitVec.and_allOnes

theorem erased_and (b : Byte) : 0xFF &&& b = b := BitVec.allOnes_and

/-- R180: of bytes being programmed when they are cut short, those that take their new value are the AND of what they held and
what was asked; the others are as they were. -/
theorem read_cutProgram (draw : Nat) {m : Flash} (wf : m.wf = true) (a : Nat) {bs : List Byte}
    (fits : ∀ i < bs.length, a + i < flashSize) (x : Nat) : (cutProgram draw m a bs).read x =
      if Config.cutTakesNew draw x then m.read x &&& programmedByte a bs x else m.read x := by
  induction bs generalizing m a with
  | nil => rw [cutProgram, programmedByte, List.getD_nil, ite_self, and_erased, ite_self]
  | cons b bs ih =>
    have first : a < flashSize := fits 0 (Nat.succ_pos _)
    have rest : ∀ i < bs.length, a + 1 + i < flashSize := fun i hi => by
      have := fits (i + 1) (Nat.succ_lt_succ hi)
      omega
    rw [cutProgram, programmedByte_cons]
    by_cases here : x = a
    · subst here
      rw [if_pos rfl]
      split
      · rw [ih (Flash.wf_put _ _ wf) _ rest, programmedByte_below _ (Nat.lt_succ_self _), and_erased, ite_self,
          Flash.read_put _ _ wf, if_pos ⟨rfl, first⟩]
      · next keeps => rw [ih wf _ rest, if_neg keeps]
    · have notHere : ¬(x = a ∧ a < flashSize) := fun both => here both.1
      rw [if_neg here]
      split
      · rw [ih (Flash.wf_put _ _ wf) _ rest, Flash.read_put _ _ wf, if_neg notHere]
      · rw [ih wf _ rest]

/-- R180: of a sector whose erase is cut short, the bytes that take their new value read FFH. -/
theorem read_cutErase (draw : Nat) {m : Flash} (wf : m.wf = true) (sector x : Nat) : (cutErase draw m sector).read x =
    if x / 0x10000 = sector ∧ Config.cutTakesNew draw x = true then erasedByte else m.read x := by
  refine (Flash.read_filter wf (fun a => a / 0x10000 != sector || !Config.cutTakesNew draw a) x).trans ?_
  by_cases inside : x / 0x10000 = sector <;> by_cases new : Config.cutTakesNew draw x = true <;> simp [inside, new]

/-! ## Verification (R176, R177) -/

theorem verified_iff {m : Flash} {a : Nat} {bs : List Byte} :
    verified m a bs = true ↔ ∀ i (h : i < bs.length), bs[i] = 0xFF ∨ m.read (a + i) = bs[i] := by
  induction bs generalizing a with
  | nil => simp [verified]
  | cons b bs ih =>
    rw [verified, Bool.and_eq_true, Bool.or_eq_true, beq_iff_eq, beq_iff_eq, ih]
    constructor
    · rintro ⟨first, rest⟩ i h
      cases i with
      | zero => exact first
      | succ i =>
        rw [show a + (i + 1) = a + 1 + i by omega]
        exact rest i (Nat.lt_of_succ_lt_succ h)
    · intro all
      refine ⟨all 0 (Nat.succ_pos _), fun i h => ?_⟩
      rw [show a + 1 + i = a + (i + 1) by omega]
      exact all (i + 1) (Nat.succ_lt_succ h)

theorem sectorErased_iff {m : Flash} (wf : m.wf = true) {sector : Nat} :
    sectorErased m sector = true ↔ ∀ a, a / 0x10000 = sector → m.read a = 0xFF := by
  rw [sectorErased, List.all_eq_true]
  constructor
  · intro none a inside
    refine Flash.read_of_not_mem fun c hc same => ?_
    have outside : c.1 / 0x10000 ≠ sector := bne_iff_ne.mp (none c hc)
    exact outside (same ▸ inside)
  · intro erased c hc
    refine bne_iff_ne.mpr fun inside => ((Flash.wf_iff m).mp wf).1 c hc |>.1 ?_
    rw [← Flash.read_of_mem wf hc]
    exact erased c.1 inside

/-! ## The settings image in the flash (R181, R182) -/

theorem imagePages_covers (image : List Byte) : image.take (256 * imagePages image) = image :=
  List.take_of_length_le (by unfold imagePages; omega)

/-- R182: the sector of the image, once it is erased and the first bytes of the image are programmed. -/
theorem read_savedPages {m : Flash} (wf : m.wf = true) {image : List Byte} (fits : image.length ≤ 65536) (pages : Nat) :
    (∀ a, a < 0xFF0000 → (savedPages m image pages).read a = m.read a) ∧
    ∀ i, i < 65536 →
      (savedPages m image pages).read (0xFF0000 + i) = ((image.take (256 * pages))[i]?).getD 0xFF := by
  have read := Flash.read_putAll (Flash.wf_erase 255 wf) 0xFF0000 (bs := image.take (256 * pages))
    (by rw [List.length_take]; unfold flashSize; omega)
  refine ⟨fun a below => ?_, fun i inside => ?_⟩
  · refine (read a).trans ?_
    rw [if_neg (by omega), Flash.read_erase _ _ _ wf, if_neg (by omega)]
  · refine (read _).trans ?_
    rw [if_pos (by omega), Nat.add_sub_cancel_left, Flash.read_erase _ _ _ wf, if_pos (by omega)]
    rfl

theorem savedImageReadsBack_rule : Rules.SavedImageReadsBack := by
  intro m image wf fits after
  have size : 0xFF0000 + image.length ≤ flashSize := by unfold flashSize; omega
  refine ⟨Flash.readAll_putAll (Flash.wf_erase _ wf) _ size, fun a below => ?_⟩
  have saved := (read_savedPages wf fits (imagePages image)).1 a below
  rwa [savedPages, imagePages_covers] at saved

end Sys2Proof.Machine

/-! PROOFS. The completions of flash operations, what reads them, and what a cut operation leaves (R172, R176–R178,
R180, R182). -/

namespace Sys2Proof.Machine

/-! ## Saving (R182) -/

/-- R182: a save that the flash carries out: the image, whole, reads back. -/
theorem saveComplete_whole {s : State} {image : List Byte} (state : s.store.state = .saving image) (wf : FlashLaw s)
    (fits : image.length ≤ 65536) : exec (.saveComplete []) s = .next (offer 11 4 0xFF { s with store := { s.store with
      state := .locked, saveReach := 0, flash := (s.store.flash.erase 255).putAll 0xFF0000 image } }) := by
  have whole : savedPages s.store.flash image (imagePages image) = (s.store.flash.erase 255).putAll 0xFF0000 image := by
    rw [savedPages, imagePages_covers]
    rfl
  have reads : (((s.store.flash.erase 255).putAll 0xFF0000 image).readAll imageStart image.length == image) = true :=
    beq_iff_eq.mpr (savedImageReadsBack_rule _ image wf fits).1
  change execSaveComplete [] s = _
  unfold execSaveComplete
  simp only [state, inSector, List.filter_nil, Flash.putCells, whole, reads]
  rfl

theorem settingsSaving_rule : Rules.SettingsSaving := by
  intro s p u busy notQuiet
  refine ⟨fun asks => ⟨fun loud => ?_, fun quiet inUse => ?_, fun quiet idle clear => ?_⟩, fun image => saveComplete_whole⟩
  · exact asks.quietRefused (settingsSave_refused _) (quietRefusal_state loud)
  · exact asks.quietRefused (settingsSave_refused _) (quietRefusal_busy quiet inUse)
  · exact asks.storeAccepted (settingsSave_accepted (s := withoutRequest p s) _ (quietRefusal_none quiet idle clear))

/-! ## Programming and erasing (R176, R177) -/

theorem programComplete_eq {s : State} {page : Nat} (state : s.store.state = .programming page) :
    let m := s.store.flash.program (pageStart page) s.store.buffer.toList
    exec .programComplete s = .next (storeNotice 0 (verified m (pageStart page) s.store.buffer.toList) (sectorOfPage page)
      (setStore { s.store with state := .opened, flash := m, buffer := emptyBuffer } s)) := by
  change execProgramComplete s = _
  unfold execProgramComplete
  simp only [state]

theorem eraseComplete_eq {s : State} {sector : Nat} (state : s.store.state = .erasing sector) (left : List Host.Cell) :
    let m := (s.store.flash.erase sector).putCells (inSector sector left)
    exec (.eraseComplete left) s = .next (storeNotice 1 (sectorErased m sector) sector
      (setStore { s.store with state := .opened, flash := m } s)) := by
  change execEraseComplete left s = _
  unfold execEraseComplete
  simp only [state]

/-- R176, R177: the STORE notice by its result. -/
theorem storeNotice_program (ok : Bool) (sector : Nat) (s : State) :
    storeNotice 0 ok sector s = offer 11 (if ok then 0 else 1) (byteOf sector) s := by cases ok <;> rfl

theorem storeNotice_erase (ok : Bool) (sector : Nat) (s : State) :
    storeNotice 1 ok sector s = offer 11 (if ok then 2 else 3) (byteOf sector) s := by cases ok <;> rfl

theorem programCompletion_rule : Rules.ProgramCompletion := by
  intro s page wf low state
  have size : pageStart page + s.store.buffer.toList.length ≤ flashSize := by
    rw [s.store.buffer.len, pageStart, flashSize]
    omega
  have length := s.store.buffer.len
  have read := Flash.read_program (pageStart page) s.store.buffer.toList wf size
  have start : pageStart page = 256 * page := Nat.mul_comm _ _
  refine ⟨_, _, (programComplete_eq state).trans (by rw [storeNotice_program]; rfl), Flash.wf_program _ _ wf, fun i => ?_,
    fun a outside => ?_, ?_⟩
  · rw [← start, read, dif_pos ⟨Nat.le_add_right _ _, by omega⟩]
    simp only [Nat.add_sub_cancel_left]
    rfl
  · rw [read, dif_neg (by omega)]
  · rw [verified_iff, start]
    exact ⟨fun all i => all i.val (by omega), fun all i h => all ⟨i, by omega⟩⟩

theorem eraseCompletion_rule : Rules.EraseCompletion := by
  intro s sector left wf state
  have erased := Flash.wf_erase sector wf
  have after := Flash.wf_putCells (inSector sector left) erased
  have inside : ∀ c ∈ inSector sector left, c ∈ left ∧ c.1 / 0x10000 = sector := fun c hc =>
    ⟨(List.mem_filter.mp hc).1, beq_iff_eq.mp (List.mem_filter.mp hc).2⟩
  refine ⟨_, _, (eraseComplete_eq state left).trans (by rw [storeNotice_erase]; rfl), after, fun a here unlisted => ?_,
    fun a elsewhere => ?_, sectorErased_iff after⟩
  · rw [Flash.read_putCells erased fun c hc => unlisted c (inside c hc).1, Flash.read_erase _ _ _ wf, if_pos here]
    rfl
  · rw [Flash.read_putCells erased fun c hc same => elsewhere (by rw [← same]; exact (inside c hc).2), Flash.read_erase _ _ _ wf,
      if_neg elsewhere]

/-! ## Operations cut short (R180, R182) -/

section
variable {s : State} (wf : FlashLaw s)
include wf

theorem cutFlash_programming {page : Nat} (low : page ≤ 65279) (state : s.store.state = .programming page) (a : Nat) :
    (cutFlash s).read a = if Config.cutTakesNew s.draws a then
      s.store.flash.read a &&& programmedByte (256 * page) s.store.buffer.toList a else s.store.flash.read a := by
  have start : pageStart page = 256 * page := Nat.mul_comm _ _
  have cut : cutFlash s = cutProgram s.draws s.store.flash (256 * page) s.store.buffer.toList := by
    simp only [cutFlash, state, start]
  rw [cut]
  refine read_cutProgram s.draws wf _ (fun i hi => ?_) a
  rw [s.store.buffer.len] at hi
  unfold flashSize
  omega

theorem cutFlash_erasing {sector : Nat} (state : s.store.state = .erasing sector) (a : Nat) : (cutFlash s).read a =
    if a / 0x10000 = sector ∧ Config.cutTakesNew s.draws a = true then erasedByte else s.store.flash.read a := by
  have cut : cutFlash s = cutErase s.draws s.store.flash sector := by simp only [cutFlash, state]
  rw [cut, read_cutErase _ wf]

end

/-- R182: a page of the image being programmed when a save is cut short: bytes before it are the image's, the page's bytes the
image's or erased, and what follows is erased; nothing below sector 255 changes. -/
theorem read_cutPage (draw : Nat) {m : Flash} (wf : m.wf = true) {image : List Byte} (fits : image.length ≤ 65536) (k : Nat) :
    let left := cutProgram draw (savedPages m image k) (imageStart + 256 * k) ((image.drop (256 * k)).take 256)
    (∀ a, a < 0xFF0000 → left.read a = m.read a) ∧
    ∀ i, i < 65536 → left.read (0xFF0000 + i) = 0xFF ∨ image[i]? = some (left.read (0xFF0000 + i)) := by
  obtain ⟨below, saved⟩ := read_savedPages wf fits k
  have read := read_cutProgram draw (wf_savedPages image k wf) (imageStart + 256 * k)
    (bs := (image.drop (256 * k)).take 256) fun i hi => by
      rw [List.length_take, List.length_drop] at hi
      unfold imageStart flashSize
      omega
  refine ⟨fun a low => ?_, fun i inside => ?_⟩
  · rw [read, programmedByte_below _ (by unfold imageStart; omega), and_erased, ite_self, below a low]
  · have erasedOr : ∀ o : Option Byte, o.getD 0xFF = 0xFF ∨ o = some (o.getD 0xFF) := fun o => by cases o <;> simp
    rw [read, saved i inside]
    by_cases before : i < 256 * k
    · rw [programmedByte_below _ (by unfold imageStart; omega), and_erased, ite_self, List.getElem?_take_of_lt before]
      exact erasedOr _
    · have page : programmedByte (imageStart + 256 * k) ((image.drop (256 * k)).take 256) (0xFF0000 + i) =
          (((image.drop (256 * k)).take 256)[i - 256 * k]?).getD 0xFF := by
        rw [programmedByte, if_pos (by unfold imageStart; omega), List.getD_eq_getElem?_getD,
          show 0xFF0000 + i - (imageStart + 256 * k) = i - 256 * k by unfold imageStart; omega]
      rw [page, List.getElem?_eq_none (by rw [List.length_take]; omega), Option.getD_none, erased_and]
      split
      · by_cases late : i - 256 * k < 256
        · rw [List.getElem?_take_of_lt late, List.getElem?_drop, Nat.add_sub_cancel' (Nat.le_of_not_lt before)]
          exact erasedOr _
        · rw [List.getElem?_eq_none (by rw [List.length_take]; omega)]
          exact .inl rfl
      · exact .inl rfl

/-- R182: what a cut save leaves, wherever it was cut. -/
theorem read_cutSave (draw : Nat) {m : Flash} (wf : m.wf = true) {image : List Byte} (fits : image.length ≤ 65536) (seen : Nat) :
    let left := cutSave draw m image seen
    (∀ a, a < 0xFF0000 → left.read a = m.read a) ∧
    ∀ i, i < 65536 → left.read (0xFF0000 + i) = m.read (0xFF0000 + i) ∨ left.read (0xFF0000 + i) = 0xFF ∨
      image[i]? = some (left.read (0xFF0000 + i)) := by
  unfold cutSave
  split
  · have read := read_cutErase draw wf imageSector
    refine ⟨fun a low => ?_, fun i _ => ?_⟩
    · rw [read, if_neg fun both => absurd both.1 (by unfold imageSector; omega)]
    · rw [read]
      split
      · exact .inr (.inl rfl)
      · exact .inl rfl
  · next k _ =>
    obtain ⟨below, inside⟩ := read_cutPage draw wf fits k
    exact ⟨below, fun i hi => .inr (inside i hi)⟩

theorem cutOperations_rule : Rules.CutOperations := by
  intro s straps wf m left
  refine ⟨fun page low state => ?_, fun sector state a => ?_, fun image state fits => ?_⟩
  · have read := cutFlash_programming wf low state
    refine ⟨fun i => ?_, fun a outside => ?_⟩
    · have asked : programmedByte (256 * page) s.store.buffer.toList (256 * page + i.val) = s.store.buffer.get i := by
        rw [programmedByte, if_pos (Nat.le_add_right _ _), Nat.add_sub_cancel_left, List.getD_eq_getElem?_getD,
          List.getElem?_eq_getElem (by rw [s.store.buffer.len]; exact i.isLt)]
        rfl
      refine Or.symm ?_
      rw [← asked]
      exact (ite_eq_or_eq _ _ _).imp (read _).trans (read _).trans
    · have asked : programmedByte (256 * page) s.store.buffer.toList a = 0xFF := by
        rw [programmedByte]
        split
        · rw [List.getD_eq_default _ _ (by rw [s.store.buffer.len]; omega)]
        · rfl
      refine (read a).trans ?_
      rw [asked, and_erased, ite_self]
  · have read := cutFlash_erasing wf state a
    refine ⟨fun outside => read.trans (if_neg fun both => outside both.1), ?_⟩
    exact ((ite_eq_or_eq _ _ _).imp read.trans read.trans).symm
  · have cut : cutFlash s = cutSave s.draws s.store.flash image s.store.saveReach := by simp only [cutFlash, state]
    have read := read_cutSave s.draws wf fits s.store.saveReach
    rw [← cut] at read
    exact read

/-! ## Reading (R178) -/

theorem storeRead_changing {s : State} (changing : (∃ page, s.store.state = .programming page) ∨
    ∃ sector, s.store.state = .erasing sector) (p : Port) (ps : List Byte) : storeRead p ps s = refuse .busy s := by
  unfold storeRead
  rcases changing with ⟨page, state⟩ | ⟨sector, state⟩ <;> simp only [state]

theorem storeRead_still {s : State} (still : ¬((∃ page, s.store.state = .programming page) ∨
    ∃ sector, s.store.state = .erasing sector)) (p : Port) (ps : List Byte) : storeRead p ps s =
      if natAt ps 3 = 0 ∨ 56 < natAt ps 3 ∨ flashSize < natAt ps 0 * 65536 + wordAt ps 1 + natAt ps 3 then refuse .range s
      else ⟨setStore { s.store with reads := s.store.reads.set p (some ⟨natAt ps 0 * 65536 + wordAt ps 1, natAt ps 3⟩) } s,
        none⟩ := by
  unfold storeRead
  split
  · next page state => exact absurd (.inl ⟨page, state⟩) still
  · next sector state => exact absurd (.inr ⟨sector, state⟩) still
  · rfl

section
variable {s : State} {p : Port} {job : ReadJob} (waits : s.store.reads.get p = some job)
include waits

theorem storeReadDone_changing (changing : (∃ page, s.store.state = .programming page) ∨
    ∃ sector, s.store.state = .erasing sector) : exec (.storeReadDone p) s = .next s := by
  change execStoreReadDone p s = _
  unfold execStoreReadDone
  rw [waits]
  rcases changing with ⟨page, state⟩ | ⟨sector, state⟩ <;> simp only [state]

theorem storeReadDone_idle (idle : s.store.state = .locked ∨ s.store.state = .opened) :
    exec (.storeReadDone p) s = .next (finishRead p job s.store.flash s) := by
  change execStoreReadDone p s = _
  unfold execStoreReadDone
  rw [waits]
  dsimp only
  split
  · next state => simp [state] at idle
  · next state => simp [state] at idle
  · next state => simp [state] at idle
  · rfl

theorem storeReadDone_saving {image : List Byte} (state : s.store.state = .saving image) : exec (.storeReadDone p) s =
    .next (finishRead p job (savedPages s.store.flash image (reachNow image s - 1))
      { s with draws := s.draws + 1, store := { s.store with saveReach := reachNow image s } }) := by
  change execStoreReadDone p s = _
  unfold execStoreReadDone
  rw [waits]
  dsimp only
  split
  · next other => cases state.symm.trans other
  · next other => cases state.symm.trans other
  · next same => cases state.symm.trans same; rfl
  · next other => exact absurd state (other image)

end

theorem finishRead_eq (p : Port) (job : ReadJob) (m : Flash) (s : State) : finishRead p job m s =
    answer p .ok ((List.range job.count).map fun i => m.read (job.start + i))
      { s with store := { s.store with reads := s.store.reads.set p none } } := by
  rw [finishRead, Flash.readAll_eq_map]
  rfl

theorem storeReading_rule : Rules.StoreReading := by
  intro s p ps u changing start count
  have place : start = natAt ps 0 * 65536 + wordAt ps 1 := congrArg (· + _) (Nat.mul_comm _ _)
  refine ⟨fun asks => ⟨fun inUse => asks.refused (storeRead_changing (s := withoutRequest p s) inUse _ _),
      fun still bad => asks.refused ?_, fun still good => (takeRequest_waiting (storeRead p) asks).trans ?_⟩,
    fun job waits => ⟨storeReadDone_changing waits, fun idle => ?_, fun image state => ?_⟩⟩
  · rw [storeRead_still (s := withoutRequest p s) still, ← place]
    exact if_pos bad
  · have fits : ¬(count = 0 ∨ 56 < count ∨ flashSize < start + count) := by
      rintro (none | many | beyond)
      · exact absurd none (Nat.ne_of_gt good.1)
      · exact absurd many (Nat.not_lt.mpr good.2.1)
      · exact absurd beyond (Nat.not_lt.mpr good.2.2)
    rw [storeRead_still (s := withoutRequest p s) still, ← place, if_neg fits]
    rfl
  · rw [storeReadDone_idle waits idle, finishRead_eq]
  · refine ⟨reachNow image s - 1, reachNow image s, ?_⟩
    rw [storeReadDone_saving waits state, finishRead_eq]
    rfl

/-! ## The directory (R172) -/

theorem bigEndian_readAll_two (m : Flash) (a : Nat) :
    bigEndian (m.readAll a 2) = 256 * (m.read a).toNat + (m.read (a + 1)).toNat := by
  simp only [Flash.readAll, bigEndian, List.foldl_cons, List.foldl_nil]
  omega

theorem bigEndian_readAll_three (m : Flash) (a : Nat) : bigEndian (m.readAll a 3) =
    65536 * (m.read a).toNat + 256 * (m.read (a + 1)).toNat + (m.read (a + 2)).toNat := by
  rw [show a + 2 = a + 1 + 1 from rfl]
  simp only [Flash.readAll, bigEndian, List.foldl_cons, List.foldl_nil]
  omega

theorem directoryEntries_rule : Rules.DirectoryEntries := by
  intro m n at_ start length gain used
  have entry : (buildDirectory m).get n = if length = 0xFFFFFF then none
      else if at_ 0 = n.val ∧ start % 2 = 0 ∧ 0x010000 ≤ start ∧ start ≤ 0xFEFFFF ∧ start + 2 * length ≤ 0xFF0000 ∧
        -40 ≤ gain ∧ gain ≤ 0 then some ⟨start, length, gain⟩ else none := by
    rw [buildDirectory, Table.get_ofFn, directoryEntry]
    simp only [bigEndian_readAll_three]
    rfl
  refine ⟨fun inUse => entry.trans ((if_neg inUse.1).trans (if_pos inUse.2)), fun unused => entry.trans ?_⟩
  split
  · rfl
  · next marked => exact if_neg fun tests => unused ⟨marked, tests⟩

/-! ## The settings of the moment (R181, R182) -/

theorem currentSettings_rule : Rules.CurrentSettings := fun s =>
  ⟨fun h => by cases h <;> rfl, rfl, fun _ => Table.get_map _ _ _, fun _ => Table.get_map _ _ _, fun _ => Table.get_map _ _ _,
    fun _ => Table.get_map _ _ _, fun _ => Table.get_map _ _ _, fun _ => Table.get_map _ _ _, rfl, rfl,
    fun _ => Table.get_map _ _ _⟩

end Sys2Proof.Machine

namespace Sys2Proof

/-- Settles O47, by the tests of each request in their order, and by the image read back at the end of a save. -/
theorem storeRequests : Obligations.StoreRequests :=
  ⟨Machine.storeRequests_rule, Machine.settingsSaving_rule, Machine.restartAndIdentity_rule, Machine.storeStates_rule⟩

end Sys2Proof

/-! PROOFS. The settings image as bytes: its parts, their places and lengths, and its CRC (R181). -/

namespace Sys2Proof.Machine

/-! ## The parts of the image -/

/-- R181: the parts of the image between its length and its CRC, each the records of one kind in number order. -/
def settingsParts (v : Settings) : List (List Byte) :=
  [writeHallSettings v.halls.a, writeHallSettings v.halls.b,
    (finUpTo 12).flatMap fun e => writeEntranceSettings (v.entrances.get e),
    (finUpTo 18).flatMap (writeZoneOf v),
    (finUpTo 6).flatMap fun c => writeSoundSettings (v.sound.get c),
    (finUpTo 8).flatMap fun l => writeSenseSettings (v.sense.get l),
    (finUpTo 64).map fun k => writeRole (v.roles.get k),
    writeTimings v.timings,
    (finUpTo 4).flatMap fun c => writeChannelSettings (v.channels.get c),
    (finUpTo 8).flatMap fun p => writePlan (v.plans.get p)]

theorem Table.flatMap_toList {α β : Type} {n : Nat} (t : Table α n) (f : α → List β) :
    t.toList.flatMap f = (finUpTo n).flatMap fun i => f (t.get i) := by
  rw [Sys2Proof.Table.toList_eq, List.flatMap_map]

theorem settingsBytes_eq_flatten (v : Settings) : settingsBytes v = (settingsParts v).flatten := by
  have roles : v.roles.toList.map writeRole = (finUpTo 64).map fun k => writeRole (v.roles.get k) := by
    rw [Sys2Proof.Table.toList_eq, List.map_map]
    rfl
  simp only [settingsBytes, settingsParts, Table.flatMap_toList, roles, List.flatten_cons, List.flatten_nil, List.append_nil,
    List.append_assoc]

/-! ## Lengths -/

theorem writeContent_length {c : Content} (fits : plannable c = true) : (writeContent c).length = 8 := by
  cases c with
  | phrases list =>
    have few : list.length ≤ 6 := by
      simp only [plannable, Bool.and_eq_true, decide_eq_true_eq] at fits
      exact fits.1.2
    simp only [writeContent, writePhrases, List.length_cons, List.length_append, List.length_map, List.length_replicate]
    omega
  | chime pattern strikes => rfl
  | live mic => rfl

theorem writePlanStep_length {st : PlanStep} (range : PlanStepInRange st) : (writePlanStep st).length = 15 := by
  obtain ⟨-, -, -, -, content⟩ := range
  simp only [writePlanStep, zoneSetBytes, bytes2, bytes3, List.length_append, List.length_cons, List.length_nil,
    writeContent_length content]

theorem flatMap_writePlanStep_length {steps : List PlanStep} (range : ∀ st ∈ steps, PlanStepInRange st) :
    (steps.flatMap writePlanStep).length = 15 * steps.length := by
  rw [List.length_flatMap, List.map_congr_left fun st member => writePlanStep_length (range st member), List.map_const',
    List.sum_replicate, smul_eq_mul, Nat.mul_comm]

theorem writePlan_length {steps : List PlanStep} (range : PlanInRange steps) : (writePlan steps).length = 91 := by
  have few := range.1
  rw [writePlan, List.length_cons, List.length_append, List.length_replicate, flatMap_writePlanStep_length range.2]
  omega

theorem writeZoneOf_length (v : Settings) (z : ZoneNo) : (writeZoneOf v z).length = 11 := by
  unfold writeZoneOf
  cases zoneKind z <;> rfl

theorem settingsParts_lengths {v : Settings} (range : SettingsInRange v) :
    (settingsParts v).map List.length = [6, 6, 60, 198, 36, 48, 64, 5, 28, 728] := by
  have entrances := flatMap_block_length (f := fun e => writeEntranceSettings (v.entrances.get e)) (k := 5) (fun _ => rfl)
    (finUpTo 12)
  have zones := flatMap_block_length (writeZoneOf_length v) (finUpTo 18)
  have sound := flatMap_block_length (f := fun c => writeSoundSettings (v.sound.get c)) (k := 6) (fun _ => rfl) (finUpTo 6)
  have sense := flatMap_block_length (f := fun l => writeSenseSettings (v.sense.get l)) (k := 6) (fun _ => rfl) (finUpTo 8)
  have channels := flatMap_block_length (f := fun c => writeChannelSettings (v.channels.get c)) (k := 7) (fun _ => rfl) (finUpTo 4)
  have plans := flatMap_block_length (fun p => writePlan_length (range.plans p)) (finUpTo 8)
  simp only [settingsParts, List.map_cons, List.map_nil, entrances, zones, sound, sense, channels, plans, List.length_map,
    finUpTo_length]
  rfl

theorem settingsBytes_length {v : Settings} (range : SettingsInRange v) : (settingsBytes v).length = 1179 := by
  rw [settingsBytes_eq_flatten, List.length_flatten, settingsParts_lengths range]
  rfl

theorem buildImage_eq (v : Settings) : buildImage v =
    (bytes2 imageLength ++ settingsBytes v) ++ bytes2 (crc (bytes2 imageLength ++ settingsBytes v)).toNat := rfl

theorem buildImage_length {v : Settings} (range : SettingsInRange v) : (buildImage v).length = 1183 := by
  simp only [buildImage_eq, List.length_append, settingsBytes_length range]
  rfl

/-! ## The records, spelled byte by byte -/

/-- A hall's code, and the byte of a number or NONE. -/
def hallCode : Hall → Byte
  | .a => 0
  | .b => 1

def numberOrNone : Option Nat → Byte
  | some n => byteOf n
  | none => 0xFF

theorem nameByte_hall (h : Hall) : nameByte hallNames h = hallCode h := by cases h <;> rfl

theorem optByte_eq {α : Type} (f : α → Nat) (x : Option α) : optByte f x = numberOrNone (x.map f) := by cases x <;> rfl

theorem optByte_hall (x : Option Hall) : optByte (nameCode hallNames) x = match x with | some h => hallCode h | none => 0xFF := by
  rcases x with _ | h
  · rfl
  · cases h <;> rfl

theorem writePlanStep_eq : writePlanStep = fun st : PlanStep => bytes2 st.offset ++
    (match st.content with
      | .phrases list => [0, byteOf list.length] ++ list.map byteOf ++ List.replicate (6 - list.length) 0xFF
      | .chime pattern strikes => [1, byteOf pattern.val, byteOf strikes] ++ List.replicate 5 0xFF
      | .live mic => [2, byteOf mic.val] ++ List.replicate 6 0xFF) ++
    bytes3 st.targets.toNat ++ [byteOf st.priority, match st.mode with | .duck => 0 | .replace => 1] := by
  funext st
  obtain ⟨offset, content, targets, priority, mode⟩ := st
  cases content <;> cases mode <;> rfl

theorem writeZoneOf_eq (v : Settings) (z : ZoneNo) : writeZoneOf v z =
    let r := v.zones.get z
    let common := [stepByte r.trim, byteOf r.rampDown, byteOf r.rampUp, stepByte r.duckDepth]
    match zoneKind z with
    | .loop l => [hallCode (v.loops.get l).hall] ++ common ++ [0xFF, 0x80, 0x80, 0xFF] ++ bytes2 (v.loops.get l).driveLimit
    | .desc _ => [(0xFF : Byte)] ++ common ++ [0xFF, 0x80, 0x80, 0xFF, 0xFF, 0xFF]
    | .foyer f => [(0xFF : Byte)] ++ common ++ [match (v.foyers.get f).idleSource with | .aux => (0 : Byte) | .silence => 1,
        stepByte (v.foyers.get f).idleGain, stepByte (v.foyers.get f).relayGain,
        match (v.foyers.get f).quietHall with | some h => hallCode h | none => 0xFF, 0xFF, 0xFF] := by
  unfold writeZoneOf
  cases zoneKind z with
  | loop l => simp only [writeZone, nameByte_hall]; rfl
  | desc d => rfl
  | foyer f =>
    simp only [writeZone, optByte_hall]
    cases (v.foyers.get f).idleSource <;> rfl

theorem writeChannelSettings_eq (r : ChannelSettings) : writeChannelSettings r =
    [byteOf (r.zone.val + 8), hallCode r.hall, numberOrNone (r.input.map Fin.val),
      match r.talkMode with | .key => 0 | .voice => 1, stepByte r.depth, stepByte r.gain, byteOf r.grace] := by
  rw [writeChannelSettings, nameByte_hall, optByte_eq]
  cases r.talkMode <;> rfl

theorem imageLayout_rule : Rules.ImageLayout := by
  intro v hall opt step halls entrances zones sound sense roles timings channels planStep plans body
  have codes : hall = hallCode := by funext h; cases h <;> rfl
  have numbers : opt = numberOrNone := by funext o; cases o <;> rfl
  have hallsPart : halls = writeHallSettings v.halls.a ++ writeHallSettings v.halls.b := by
    simp only [halls, writeHallSettings, optByte_eq, numbers, Option.map_id, id_eq]
    rfl
  have entrancesPart : entrances = (finUpTo 12).flatMap fun e => writeEntranceSettings (v.entrances.get e) := by
    simp only [entrances, writeEntranceSettings, optByte_eq, nameByte_hall, codes, numbers]
  have zonesPart : zones = (finUpTo 18).flatMap (writeZoneOf v) := by
    simp only [zones, codes]
    exact congrArg (fun f => (finUpTo 18).flatMap f) (funext fun z => (writeZoneOf_eq v z).symm)
  have channelsPart : channels = (finUpTo 4).flatMap fun c => writeChannelSettings (v.channels.get c) := by
    simp only [channels, codes, numbers]
    exact congrArg (fun f => (finUpTo 4).flatMap f) (funext fun c => (writeChannelSettings_eq _).symm)
  have plansPart : plans = (finUpTo 8).flatMap fun p => writePlan (v.plans.get p) := by
    have steps : planStep = writePlanStep := writePlanStep_eq.symm
    simp only [plans, steps]
    rfl
  have whole : body = bytes2 imageLength ++ settingsBytes v := by
    rw [settingsBytes_eq_flatten]
    simp only [body, hallsPart, entrancesPart, zonesPart, channelsPart, plansPart, settingsParts, List.flatten_cons,
      List.flatten_nil, List.append_nil, List.append_assoc]
    rfl
  rw [whole]
  exact ⟨buildImage_eq v, buildImage_length⟩

end Sys2Proof.Machine

namespace Sys2Proof

/-- Settles O48: what the flash reads as after each operation, and the image part by part. -/
theorem flashOperations : Obligations.FlashOperations :=
  ⟨Machine.programCompletion_rule, Machine.eraseCompletion_rule, Machine.currentSettings_rule, Machine.imageLayout_rule,
    Machine.savedImageReadsBack_rule, Machine.storeReading_rule, Machine.directoryEntries_rule⟩

end Sys2Proof

/-! PROOFS. The CRC and the tests of the settings image, and the settings that its bytes give (R181, R183). -/

namespace Sys2Proof.Machine

/-! ## The CRC (R181) -/

theorem crcBits_append (c : BitVec 16) (xs ys : List Bool) : crcBits c (xs ++ ys) = crcBits (crcBits c xs) ys := by
  induction xs generalizing c with
  | nil => rfl
  | cons x xs ih =>
    rw [List.cons_append, crcBits, crcBits]
    split
    · exact ih _
    · exact ih _

/-- R181: one bit taken into the CRC. -/
def crcBit (c : BitVec 16) (bit : Bool) : BitVec 16 := if c.msb = bit then c <<< 1 else (c <<< 1) ^^^ 0x1021

theorem crcBits_eq_foldl (c : BitVec 16) (bits : List Bool) : crcBits c bits = bits.foldl crcBit c := by
  induction bits generalizing c with
  | nil => rfl
  | cons bit bits ih =>
    rw [crcBits, List.foldl_cons, crcBit]
    by_cases same : c.msb = bit
    · rw [if_pos same, if_neg (by simp [same]), ih]
    · rw [if_neg same, if_pos (by simp [same]), ih]

theorem byteBits_eq (b : Byte) : byteBits b = (List.range 8).map b.getMsbD := rfl

theorem crc_concat (bs : List Byte) (b : Byte) : crc (bs ++ [b]) = (byteBits b).foldl crcBit (crc bs) := by
  rw [crc, List.flatMap_append, crcBits_append, List.flatMap_singleton, crcBits_eq_foldl]
  rfl

theorem imageCrc_rule : Rules.ImageCrc := by
  refine ⟨by decide, rfl, fun bs b => ?_⟩
  rw [crc_concat, byteBits_eq, List.foldl_map]
  rfl

/-! ## The tests (R183) -/

/-- R181: the length, the bytes that the CRC covers, and the CRC of the image in the flash. -/
abbrev storedLength (m : Flash) : Nat := bigEndian (m.readAll imageStart 2)

abbrev coveredBytes (m : Flash) : List Byte := m.readAll imageStart (imageLength + 2)

abbrev storedCrc (m : Flash) : Nat := bigEndian (m.readAll (imageStart + imageLength + 2) 2)

section
variable {m : Flash}

theorem loadImage_empty (empty : storedLength m = 0xFFFF) : loadImage m = .error .empty := if_pos empty

theorem loadImage_badLength (full : storedLength m ≠ 0xFFFF) (bad : storedLength m ≠ imageLength) :
    loadImage m = .error .content := (if_neg full).trans (if_pos bad)

variable (length : storedLength m = imageLength)
include length

theorem storedLength_full : storedLength m ≠ 0xFFFF := by rw [length]; decide

theorem loadImage_badCrc (differs : (crc (coveredBytes m)).toNat ≠ storedCrc m) : loadImage m = .error .crc :=
  (if_neg (storedLength_full length)).trans ((if_neg (not_not.mpr length)).trans (if_pos differs))

variable (same : (crc (coveredBytes m)).toNat = storedCrc m)
include same

theorem loadImage_unread (unread : readSettings ((coveredBytes m).drop 2) = none) : loadImage m = .error .content := by
  refine (if_neg (storedLength_full length)).trans ((if_neg (not_not.mpr length)).trans ((if_neg (not_not.mpr same)).trans ?_))
  rw [unread]

theorem loadImage_reads {v : Settings} (reads : readSettings ((coveredBytes m).drop 2) = some v) : loadImage m = .ok v := by
  refine (if_neg (storedLength_full length)).trans ((if_neg (not_not.mpr length)).trans ((if_neg (not_not.mpr same)).trans ?_))
  rw [reads]

end

theorem imageTests_rule : Rules.ImageTests := by
  intro m length stored covered
  have spelled : storedLength m = length := bigEndian_readAll_two m _
  have crcStored : storedCrc m = stored := bigEndian_readAll_two m _
  exact ⟨fun empty => loadImage_empty (spelled.trans empty),
    fun full bad => loadImage_badLength (spelled.trans_ne full) (spelled.trans_ne bad),
    fun good differs => loadImage_badCrc (spelled.trans good) (differs.trans_eq crcStored.symm),
    fun good same => ⟨fun unread => loadImage_unread (spelled.trans good) (same.trans crcStored.symm) unread,
      fun v reads => loadImage_reads (spelled.trans good) (same.trans crcStored.symm) reads⟩⟩

/-! ## Records read one after another -/

theorem gives_iff {α : Type} {read : Option (α × Bool)} {x : α} : Rules.Gives read x ↔ read.map Prod.fst = some x := by
  rw [Option.map_eq_some_iff]
  exact ⟨fun ⟨adjusted, h⟩ => ⟨_, h, rfl⟩, fun ⟨⟨_, adjusted⟩, h, e⟩ => ⟨adjusted, e ▸ h⟩⟩

theorem foldr_read_eq_some_iff {ι α : Type} {f : ι → Option α} {l : List ι} {xs : List α} :
    l.foldr (fun i rest => do let x ← f i; let xs ← rest; some (x :: xs)) (some []) = some xs ↔ l.map f = xs.map some := by
  induction l generalizing xs with
  | nil => cases xs <;> simp
  | cons i l ih =>
    rw [List.foldr_cons, List.map_cons]
    simp only [Option.bind_eq_bind, Option.bind_eq_some_iff] at ih ⊢
    constructor
    · rintro ⟨x, here, rest, later, e⟩
      cases e
      rw [here, ih.mp later, List.map_cons]
    · intro e
      cases xs with
      | nil => cases e
      | cons x xs =>
        obtain ⟨here, later⟩ := List.cons_eq_cons.mp e
        exact ⟨x, here, xs, ih.mpr later, rfl⟩

/-- A table is read exactly when each of its places is. -/
theorem readTable_eq_some_iff {n : Nat} {α : Type} {f : Fin n → Option α} {t : Table α n} :
    readTable n f = some t ↔ ∀ i, f i = some (t.get i) := by
  have entries : (finUpTo n).map f = t.toList.map some ↔ ∀ i, f i = some (t.get i) := by
    rw [Sys2Proof.Table.toList_eq, List.map_map, List.map_inj_left]
    exact ⟨fun all i => all i (Table.mem_finUpTo i), fun all i _ => all i⟩
  rw [← entries, ← foldr_read_eq_some_iff, readTable, Option.bind_eq_bind, Option.bind_eq_some_iff]
  constructor
  · rintro ⟨l, rows, whole⟩
    split at whole
    · cases whole; exact rows
    · cases whole
  · exact fun rows => ⟨t.toList, rows, dif_pos t.len⟩

theorem readRoles_eq_some_iff {bs : List Byte} {roles : List Role} :
    readRoles bs = some roles ↔ bs.map readRole = roles.map some := by
  rw [← foldr_read_eq_some_iff]
  refine iff_of_eq (congrArg (· = some roles) ?_)
  induction bs with
  | nil => rfl
  | cons b bs ih => rw [readRoles, ih, List.foldr_cons]

/-- R183: the role bytes of an image, key by key. -/
theorem readRoles_image_iff {bs : List Byte} (length : bs.length = 1179) {roles : Table Role 64} :
    readRoles ((bs.drop 354).take 64) = some roles.toList ↔ ∀ k, readRole (byteAt bs (354 + k.val)) = some (roles.get k) := by
  have bytes : (bs.drop 354).take 64 = (finUpTo 64).map fun k => byteAt bs (354 + k.val) := by
    refine List.ext_getElem (by rw [List.length_take, List.length_drop, length, List.length_map, finUpTo_length]; rfl)
      fun i h _ => ?_
    rw [List.length_take, List.length_drop, length] at h
    rw [List.getElem_take, List.getElem_drop, List.getElem_map, Table.finUpTo_get, byteAt,
      List.getD_eq_getElem _ _ (by rw [length]; omega)]
  rw [readRoles_eq_some_iff, bytes, Sys2Proof.Table.toList_eq, List.map_map, List.map_map, List.map_inj_left]
  exact ⟨fun all k => all k (Table.mem_finUpTo k), fun all k _ => all k⟩

theorem readSteps_eq_some_iff {ps : List Byte} {n : Nat} {steps : List PlanStep} : readSteps ps n = some steps ↔
    n = steps.length ∧ ∀ i st, steps[i]? = some st → Rules.Gives (readPlanStep (ps.drop (15 * i))) st := by
  induction n generalizing ps steps with
  | zero =>
    refine ⟨fun h => by cases h; exact ⟨rfl, fun i st h => by cases h⟩, fun h => ?_⟩
    rw [List.length_eq_zero_iff.mp h.1.symm]
    rfl
  | succ n ih =>
    simp only [readSteps, Option.bind_eq_bind, Option.bind_eq_some_iff, ih]
    constructor
    · rintro ⟨x, here, rest, ⟨length, later⟩, e⟩
      cases e
      refine ⟨congrArg Nat.succ length, fun i st at_ => ?_⟩
      cases i with
      | zero => cases at_; exact ⟨x.2, here⟩
      | succ i =>
        have := later i st at_
        rwa [List.drop_drop, show 15 + 15 * i = 15 * (i + 1) by omega] at this
    · rintro ⟨length, each⟩
      cases steps with
      | nil => cases length
      | cons st steps =>
        obtain ⟨adjusted, here⟩ := each 0 st rfl
        refine ⟨(st, adjusted), here, steps, ⟨Nat.succ.inj length, fun i st at_ => ?_⟩, rfl⟩
        rw [List.drop_drop, show 15 + 15 * i = 15 * (i + 1) by omega]
        exact each (i + 1) st at_

theorem readPlan_eq_some_iff {ps : List Byte} {steps : List PlanStep} : readPlan ps = some steps ↔
    natAt ps 0 = steps.length ∧ steps.length ≤ 6 ∧
      ∀ i st, steps[i]? = some st → Rules.Gives (readPlanStep (ps.drop (1 + 15 * i))) st := by
  simp only [readPlan, Option.ite_none_right_eq_some, readSteps_eq_some_iff, List.drop_drop]
  exact ⟨fun ⟨few, length, each⟩ => ⟨length, length ▸ few, each⟩, fun ⟨length, few, each⟩ => ⟨length ▸ few, length, each⟩⟩

/-! ## The settings that the bytes give (R183) -/

theorem readSettings_eq_some_iff {bs : List Byte} {v : Settings} : readSettings bs = some v ↔
    (readHallSettings bs).map Prod.fst = some v.halls.a ∧ (readHallSettings (bs.drop 6)).map Prod.fst = some v.halls.b ∧
    readTable 12 (fun e => (readEntranceSettings (bs.drop (12 + 5 * e.val))).map Prod.fst) = some v.entrances ∧
    v.zones = Table.ofFn (fun z => (readZoneCommon (bs.drop (72 + 11 * z.val))).1) ∧
    readTable 8 (fun l => (readLoopSettings (bs.drop (72 + 11 * l.val))).map Prod.fst) = some v.loops ∧
    readTable 6 (fun f => (readFoyerSettings (bs.drop (72 + 11 * (f.val + 12)))).map Prod.fst) = some v.foyers ∧
    v.sound = Table.ofFn (fun c => (readSoundSettings (bs.drop (270 + 6 * c.val))).1) ∧
    v.sense = Table.ofFn (fun l => (readSenseSettings (bs.drop (306 + 6 * l.val))).1) ∧
    readRoles ((bs.drop 354).take 64) = some v.roles.toList ∧ v.timings = (readTimings (bs.drop 418)).1 ∧
    readTable 4 (fun c => (readChannelSettings (bs.drop (423 + 7 * c.val))).map Prod.fst) = some v.channels ∧
    readTable 8 (fun p => readPlan (bs.drop (451 + 91 * p.val))) = some v.plans ∧
    lampsDistinct v.entrances = true ∧ foyersOneHall v.entrances = true := by
  constructor
  · intro read
    unfold readSettings at read
    obtain ⟨hallA, readA, read⟩ := Option.bind_eq_some_iff.mp read
    obtain ⟨hallB, readB, read⟩ := Option.bind_eq_some_iff.mp read
    obtain ⟨entrances, readEntrances, read⟩ := Option.bind_eq_some_iff.mp read
    obtain ⟨loops, readLoops, read⟩ := Option.bind_eq_some_iff.mp read
    obtain ⟨foyers, readFoyers, read⟩ := Option.bind_eq_some_iff.mp read
    obtain ⟨rolesList, roles, read⟩ := Option.bind_eq_some_iff.mp read
    dsimp only at read
    split at read
    case isFalse => cases read
    case isTrue =>
      obtain ⟨table, e, read⟩ := Option.bind_eq_some_iff.mp read
      cases e
      obtain ⟨channels, readChannels, read⟩ := Option.bind_eq_some_iff.mp read
      obtain ⟨plans, readPlans, read⟩ := Option.bind_eq_some_iff.mp read
      obtain ⟨fits, e⟩ := Option.ite_none_right_eq_some.mp read
      obtain ⟨lamps, foyersOne⟩ := (Bool.and_eq_true _ _).mp fits
      cases e
      exact ⟨congrArg (Option.map Prod.fst) readA, congrArg (Option.map Prod.fst) readB, readEntrances, rfl, readLoops, readFoyers,
        rfl, rfl, roles, rfl, readChannels, readPlans, lamps, foyersOne⟩
  · rintro ⟨readA, readB, entrances, zones, loops, foyers, sound, sense, roles, timings, channels, plans, lamps, foyersOne⟩
    obtain ⟨hallA, readA, a⟩ := Option.map_eq_some_iff.mp readA
    obtain ⟨hallB, readB, b⟩ := Option.map_eq_some_iff.mp readB
    unfold readSettings
    rw [readA, readB, entrances, loops, foyers, roles, channels, plans]
    simp only [Option.bind_eq_bind, Option.bind_some, v.roles.len, dite_true, lamps, foyersOne, Bool.and_self, if_true, a, b,
      ← zones, ← sound, ← sense, ← timings]

theorem Table.eq_ofFn_iff {α : Type} {n : Nat} {t : Table α n} {f : Fin n → α} : t = Table.ofFn f ↔ ∀ i, t.get i = f i :=
  ⟨fun e i => by rw [e, Table.get_ofFn], fun all => Sys2Proof.Table.ext fun i => by rw [all, Table.get_ofFn]⟩

theorem settingsRead_rule : Rules.SettingsRead := by
  intro bs v length
  have plans : ∀ (p : Fin 8) (steps : List PlanStep), readPlan (bs.drop (451 + 91 * p.val)) = some steps ↔
      natAt bs (451 + 91 * p.val) = steps.length ∧ steps.length ≤ 6 ∧
        ∀ i st, steps[i]? = some st → Rules.Gives (readPlanStep (bs.drop (452 + 91 * p.val + 15 * i))) st := fun p steps => by
    have places : ∀ i, 451 + 91 * p.val + (1 + 15 * i) = 452 + 91 * p.val + 15 * i := by omega
    simp only [readPlan_eq_some_iff, natAt_drop, Nat.add_zero, List.drop_drop, places]
  rw [readSettings_eq_some_iff]
  simp only [readTable_eq_some_iff, readRoles_image_iff length, Table.eq_ofFn_iff, plans, lampsDistinct_iff, foyersOneHall_iff, ← gives_iff]

end Sys2Proof.Machine

/-! PROOFS. Each settings record, within its range, reads back from the bytes it is written as (R181–R183). -/

namespace Sys2Proof.Machine

/-! ## Fields -/

section
variable {ps : List Byte} {i : Nat}

theorem natAt_byteOf {n : Nat} (code : byteAt ps i = byteOf n) (small : n ≤ 255) : natAt ps i = n := by
  rw [natAt, code, toNat_byteOf (by omega)]

theorem wordAt_bytes2 {n : Nat} (high : byteAt ps i = byteOf (n / 256)) (low : byteAt ps (i + 1) = byteOf n) (small : n ≤ 65535) :
    wordAt ps i = n := by
  rw [wordAt, natAt_byteOf high (by omega), natAt, low, byteOf, BitVec.toNat_ofNat]
  omega

theorem stepAt_stepByte {x : Int} (code : byteAt ps i = stepByte x) (low : -128 ≤ x) (high : x ≤ 127) : stepAt ps i = x := by
  rw [stepAt, signed, code, stepByte_toInt low high]

/-- A named value reads back from its code. -/
theorem nameAt_nameByte {α : Type} [DecidableEq α] {names : List α} (few : names.length ≤ 256) {x : α} (named : x ∈ names)
    (code : byteAt ps i = nameByte names x) : nameAt names ps i = some x := by
  have place : nameCode names x < names.length := List.findIdx_lt_length_of_exists ⟨x, named, decide_eq_true rfl⟩
  have found := List.findIdx_getElem (w := place)
  rw [nameAt, natAt_byteOf code (by omega), List.getElem?_eq_getElem place]
  exact congrArg some (of_decide_eq_true found)

/-- A value or NONE reads back from its byte. -/
theorem optNameAt_optByte {α : Type} {names : List α} {f : α → Nat} (few : names.length ≤ 255) {x : Option α}
    (places : ∀ y ∈ x, names[f y]? = some y) (code : byteAt ps i = optByte f x) : optNameAt names ps i = some x := by
  unfold optNameAt
  cases x with
  | none => exact if_pos code
  | some y =>
    have place : f y < names.length := (List.getElem?_eq_some_iff.mp (places y rfl)).1
    have value : natAt ps i = f y := natAt_byteOf code (by omega)
    rw [if_neg (byteAt_eq_none_iff.not.mpr (by omega)), value, places y rfl]
    rfl

theorem optNameAt_finUpTo {n : Nat} (few : n ≤ 255) {x : Option (Fin n)} (code : byteAt ps i = optByte Fin.val x) :
    optNameAt (finUpTo n) ps i = some x :=
  optNameAt_optByte (by rwa [finUpTo_length]) (fun y _ => finUpTo_getElem? y.isLt) code

/-- A number within its range is not moved. -/
theorem clampNat_of_range {lo hi n : Nat} (low : lo ≤ n) (high : n ≤ hi) : (clampNat lo hi n).1 = n := by
  rw [clampNat_fst (low.trans high), min_eq_right high, max_eq_right low]

theorem clampInt_of_range {lo hi n : Int} (low : lo ≤ n) (high : n ≤ hi) : (clampInt lo hi n).1 = n := by
  rw [clampInt_fst (low.trans high), min_eq_right high, max_eq_right low]

end

/-- What a record that reads gives, clamps left aside. -/
theorem gives_of_reads {α : Type} {read : Option (α × Bool)} {x : α × Bool} {v : α} (reads : read = some x)
    (value : x.1 = v) : Rules.Gives read v := ⟨x.2, by rw [reads, ← value]⟩

/-! ## Records -/

section
variable {ps : List Byte}

theorem readHallSettings_written {r : HallSettings} (range : HallInRange r) (held : writeHallSettings r <+: ps) :
    Rules.Gives (readHallSettings ps) r := by
  obtain ⟨rest, rfl⟩ := held
  obtain ⟨breakLow, breakHigh, gapLow, gapHigh, warnHigh, phraseSmall⟩ := range
  have phrase : (if byteAt (writeHallSettings r ++ rest) 4 = 0xFF then none else some (natAt (writeHallSettings r ++ rest) 4)) =
      r.phrase := by
    have code : byteAt (writeHallSettings r ++ rest) 4 = optByte id r.phrase := rfl
    cases absent : r.phrase with
    | none => rw [absent] at code; exact if_pos code
    | some n =>
      have small : n ≤ 254 := phraseSmall n absent
      rw [absent] at code
      have value : natAt (writeHallSettings r ++ rest) 4 = n := natAt_byteOf code (by omega)
      rw [if_neg (byteAt_eq_none_iff.not.mpr (by omega)), value]
  refine gives_of_reads (readHallSettings_eq_some_iff.mpr ⟨r.preshow, optNameAt_finUpTo (by decide) rfl, rfl⟩) ?_
  dsimp only
  rw [phrase, wordAt_bytes2 (n := r.breakWindow) rfl rfl (by omega), natAt_byteOf (n := r.gapWindow) rfl (by omega),
    natAt_byteOf (n := r.warnTime) rfl (by omega), clampNat_of_range breakLow breakHigh, clampNat_of_range gapLow gapHigh,
    clampNat_of_range (Nat.zero_le _) warnHigh]

theorem holdingZoneAt_written {x : Option (Fin 6)} {i : Nat} (code : byteAt ps i = optByte (fun f : Fin 6 => f.val + 12) x) :
    holdingZoneAt ps i = some x := by
  unfold holdingZoneAt
  cases x with
  | none => exact if_pos code
  | some f =>
    have value : natAt ps i = f.val + 12 := natAt_byteOf code (by omega)
    rw [if_neg (byteAt_eq_none_iff.not.mpr (by omega)), if_pos (by omega), value, Nat.add_sub_cancel, finUpTo_getElem? f.isLt]
    rfl

theorem readEntranceSettings_written {r : EntranceSettings} (range : 1 ≤ r.quota ∧ r.quota ≤ 16)
    (held : writeEntranceSettings r <+: ps) : Rules.Gives (readEntranceSettings ps) r := by
  obtain ⟨rest, rfl⟩ := held
  rw [gives_iff, readEntranceSettings_eq, nameAt_hall (h := r.hall) rfl, holdingZoneAt_written (x := r.zone) rfl,
    nameAt_flag (flag := r.stepFree) rfl, optNameAt_finUpTo (by decide) (x := r.lamp) rfl,
    natAt_byteOf (n := r.quota) rfl (by omega)]
  simp only [Option.bind_some, Option.map_some, clampNat_of_range range.1 range.2]

/-- The fields of a zone's record that every zone holds. -/
theorem writeZoneOf_common (v : Settings) (z : ZoneNo) (rest : List Byte) :
    byteAt (writeZoneOf v z ++ rest) 1 = stepByte (v.zones.get z).trim ∧
    byteAt (writeZoneOf v z ++ rest) 2 = byteOf (v.zones.get z).rampDown ∧
    byteAt (writeZoneOf v z ++ rest) 3 = byteOf (v.zones.get z).rampUp ∧
    byteAt (writeZoneOf v z ++ rest) 4 = stepByte (v.zones.get z).duckDepth := by
  unfold writeZoneOf
  cases zoneKind z <;> exact ⟨rfl, rfl, rfl, rfl⟩

theorem readZoneCommon_written {v : Settings} {z : ZoneNo} (range : ZoneInRange (v.zones.get z)) (held : writeZoneOf v z <+: ps) :
    (readZoneCommon ps).1 = v.zones.get z := by
  obtain ⟨rest, rfl⟩ := held
  obtain ⟨trimLow, trimHigh, downLow, downHigh, upLow, upHigh, depthLow, depthHigh⟩ := range
  obtain ⟨trim, down, up, depth⟩ := writeZoneOf_common v z rest
  simp only [readZoneCommon, stepAt_stepByte trim (by omega) (by omega), natAt_byteOf down (by omega), natAt_byteOf up (by omega),
    stepAt_stepByte depth (by omega) (by omega), clampInt_of_range trimLow trimHigh, clampNat_of_range downLow downHigh,
    clampNat_of_range upLow upHigh, clampInt_of_range depthLow depthHigh]

theorem writeZoneOf_loopZone (v : Settings) (l : Fin 8) :
    writeZoneOf v (loopZone l) = writeZone (v.zones.get (loopZone l)) (some (v.loops.get l)) none := by
  rw [writeZoneOf, zoneKind_loopZone]

theorem writeZoneOf_foyerZone (v : Settings) (f : Fin 6) :
    writeZoneOf v (foyerZone f) = writeZone (v.zones.get (foyerZone f)) none (some (v.foyers.get f)) := by
  rw [writeZoneOf, zoneKind_foyerZone]

theorem readLoopSettings_written {v : Settings} {l : Fin 8} (range : (v.loops.get l).driveLimit ≤ 2047)
    (held : writeZoneOf v (loopZone l) <+: ps) : Rules.Gives (readLoopSettings ps) (v.loops.get l) := by
  rw [writeZoneOf_loopZone] at held
  obtain ⟨rest, rfl⟩ := held
  refine gives_of_reads (readLoopSettings_eq_some_iff.mpr ⟨_, nameAt_hall (h := (v.loops.get l).hall) rfl, rfl⟩) ?_
  dsimp only
  rw [wordAt_bytes2 (n := (v.loops.get l).driveLimit) rfl rfl (by omega), clampNat_of_range (Nat.zero_le _) range]

theorem readFoyerSettings_written {v : Settings} {f : Fin 6} (range : FoyerInRange (v.foyers.get f))
    (held : writeZoneOf v (foyerZone f) <+: ps) : Rules.Gives (readFoyerSettings ps) (v.foyers.get f) := by
  rw [writeZoneOf_foyerZone] at held
  obtain ⟨rest, rfl⟩ := held
  obtain ⟨idleLow, idleHigh, relayLow, relayHigh⟩ := range
  have sources : ∀ x : IdleSource, x ∈ idleSourceNames := fun x => by cases x <;> decide
  have halls : ∀ h : Hall, hallNames[nameCode hallNames h]? = some h := fun h => by cases h <;> rfl
  refine gives_of_reads (readFoyerSettings_eq_some_iff.mpr ⟨(v.foyers.get f).idleSource, (v.foyers.get f).quietHall,
    nameAt_nameByte (by decide) (sources _) rfl, optNameAt_optByte (by decide) (fun h _ => halls h) rfl, rfl⟩) ?_
  dsimp only
  rw [stepAt_stepByte (x := (v.foyers.get f).idleGain) rfl (by omega) (by omega),
    stepAt_stepByte (x := (v.foyers.get f).relayGain) rfl (by omega) (by omega), clampInt_of_range idleLow idleHigh,
    clampInt_of_range relayLow relayHigh]

theorem readSoundSettings_written {r : SoundSettings} (range : SoundInRange r) (held : writeSoundSettings r <+: ps) :
    (readSoundSettings ps).1 = r := by
  obtain ⟨rest, rfl⟩ := held
  obtain ⟨low, order, high, soundLow, soundHigh, quietLow, quietHigh⟩ := range
  rw [readSoundSettings_eq]
  dsimp only
  rw [stepAt_stepByte (x := r.upper) rfl (by omega) (by omega), stepAt_stepByte (x := r.lower) rfl (by omega) (by omega),
    wordAt_bytes2 (n := r.soundHold) rfl rfl (by omega), wordAt_bytes2 (n := r.quietHold) rfl rfl (by omega),
    clampInt_of_range (by omega) high, clampInt_of_range low (by omega), clampNat_of_range soundLow soundHigh,
    clampNat_of_range quietLow quietHigh, min_eq_right order]

theorem readSenseSettings_written {r : SenseSettings} (range : SenseInRange r) (held : writeSenseSettings r <+: ps) :
    (readSenseSettings ps).1 = r := by
  obtain ⟨rest, rfl⟩ := held
  obtain ⟨current, opened, drive, holdLow, holdHigh⟩ := range
  rw [readSenseSettings]
  dsimp only
  rw [stepAt_stepByte (x := r.overCurrent) rfl (by omega) (by omega), stepAt_stepByte (x := r.openStep) rfl (by omega) (by omega),
    stepAt_stepByte (x := r.driveCheck) rfl (by omega) (by omega), wordAt_bytes2 (n := r.openHold) rfl rfl (by omega),
    clampInt_of_range current.1 current.2, clampInt_of_range opened.1 opened.2, clampInt_of_range drive.1 drive.2,
    clampNat_of_range holdLow holdHigh]

theorem readRole_writeRole (r : Role) : readRole (writeRole r) = some r := by
  have entrances : ∀ e : Fin 12, readRole (writeRole (.add e)) = some (.add e) ∧ readRole (writeRole (.remove e)) = some (.remove e) ∧
      readRole (writeRole (.done e)) = some (.done e) ∧ readRole (writeRole (.usher e)) = some (.usher e) := by decide
  have talk : ∀ d : Fin 4, readRole (writeRole (.talk d)) = some (.talk d) := by decide
  cases r with
  | none => rfl
  | add e => exact (entrances e).1
  | remove e => exact (entrances e).2.1
  | done e => exact (entrances e).2.2.1
  | usher e => exact (entrances e).2.2.2
  | talk d => exact talk d
  | portKey p => cases p <;> rfl

theorem readTimings_written {r : ScanTimings} (range : TimingsInRange r) (held : writeTimings r <+: ps) :
    (readTimings ps).1 = r := by
  obtain ⟨rest, rfl⟩ := held
  obtain ⟨debounceLow, debounceHigh, longLow, longHigh, againLow, againHigh, stuckLow, stuckHigh⟩ := range
  rw [readTimings]
  dsimp only
  rw [natAt_byteOf (n := r.debounce) rfl (by omega), natAt_byteOf (n := r.long) rfl (by omega),
    wordAt_bytes2 (n := r.again) rfl rfl (by omega), natAt_byteOf (n := r.stuck) rfl (by omega),
    clampNat_of_range debounceLow debounceHigh, clampNat_of_range longLow longHigh, clampNat_of_range againLow againHigh,
    clampNat_of_range stuckLow stuckHigh]

theorem readChannelSettings_written {r : ChannelSettings} (range : ChannelInRange r) (held : writeChannelSettings r <+: ps) :
    Rules.Gives (readChannelSettings ps) r := by
  obtain ⟨rest, rfl⟩ := held
  obtain ⟨depthLow, depthHigh, gainLow, gainHigh, graceHigh⟩ := range
  have modes : ∀ x : TalkMode, x ∈ talkModeNames := fun x => by cases x <;> decide
  have zone : channelZoneAt (writeChannelSettings r ++ rest) 0 = some r.zone := by
    have value : natAt (writeChannelSettings r ++ rest) 0 = r.zone.val + 8 := natAt_byteOf rfl (by omega)
    rw [channelZoneAt, value, if_pos (by omega), Nat.add_sub_cancel, finUpTo_getElem? r.zone.isLt]
  rw [gives_iff, readChannelSettings_eq, zone, nameAt_hall (h := r.hall) rfl, optNameAt_finUpTo (by decide) (x := r.input) rfl,
    nameAt_nameByte (by decide) (modes r.talkMode) rfl, stepAt_stepByte (x := r.depth) rfl (by omega) (by omega),
    stepAt_stepByte (x := r.gain) rfl (by omega) (by omega), natAt_byteOf (n := r.grace) rfl (by omega)]
  simp only [Option.bind_some, Option.map_some, clampInt_of_range depthLow depthHigh, clampInt_of_range gainLow gainHigh,
    clampNat_of_range (Nat.zero_le _) graceHigh]

end

end Sys2Proof.Machine

/-! PROOFS. A plan's steps read back, the place of every record in the image, and start-up (R181–R184). -/

namespace Sys2Proof.Machine

/-! ## Plan steps (R21) -/

theorem byteAt_append_right {xs : List Byte} {n : Nat} (length : xs.length = n) (ys : List Byte) (i : Nat) :
    byteAt (xs ++ ys) (n + i) = byteAt ys i := by
  rw [byteAt, byteAt, List.getD_eq_getElem?_getD, List.getElem?_append_right (by omega), List.getD_eq_getElem?_getD,
    show n + i - xs.length = i by omega]

theorem readPhrases_written {list : List Nat} (few : 1 ≤ list.length ∧ list.length ≤ 6) (small : ∀ n ∈ list, n ≤ 255)
    {ps : List Byte} (held : writePhrases list <+: ps) : readPhrases ps = some list := by
  obtain ⟨rest, rfl⟩ := held
  have count : natAt (writePhrases list ++ rest) 0 = list.length := natAt_byteOf rfl (by omega)
  have bytes : ((writePhrases list ++ rest).drop 1).take list.length = list.map byteOf := by
    rw [writePhrases, List.cons_append, List.drop_succ_cons, List.drop_zero, List.append_assoc,
      List.take_left' (List.length_map _)]
  have values : (list.map byteOf).map BitVec.toNat = list := by
    rw [List.map_map]
    refine (List.map_congr_left fun n member => ?_).trans (List.map_id _)
    exact toNat_byteOf (Nat.lt_succ_of_le (small n member))
  exact readPhrases_eq_some_iff.mpr ⟨by omega, by omega, by rw [count, bytes, values]⟩

theorem zoneSetAt_bytes3 {ps : List Byte} {i : Nat} {zones : ZoneSet} (high : byteAt ps i = byteOf (zones.toNat / 65536))
    (middle : byteAt ps (i + 1) = byteOf (zones.toNat / 256)) (low : byteAt ps (i + 2) = byteOf zones.toNat) :
    zoneSetAt ps i = some zones := by
  have bound : zones.toNat < 2 ^ 18 := zones.isLt
  have number : natAt ps i * 65536 + wordAt ps (i + 1) = zones.toNat := by
    rw [wordAt, natAt, natAt, natAt, high, middle, low, byteOf, byteOf, byteOf, BitVec.toNat_ofNat, BitVec.toNat_ofNat,
      BitVec.toNat_ofNat]
    omega
  unfold zoneSetAt
  dsimp only
  rw [number, if_pos bound, BitVec.ofNat_toNat, BitVec.setWidth_eq]

/-- What the bytes of a step say of its content: phrases, or a chime. -/
def ContentRead (ps : List Byte) (content : Content) : Prop :=
  (natAt ps 2 = 0 ∧ ∃ list, readPhrases (ps.drop 3) = some list ∧ content = .phrases list) ∨
  (natAt ps 2 = 1 ∧ ∃ pattern, (finUpTo 8)[natAt ps 3]? = some pattern ∧
    content = .chime pattern (clampNat 1 4 (natAt ps 4)).1)

theorem readPlanStep_gives {ps : List Byte} {st : PlanStep} (mode : nameAt callModeNames ps 14 = some st.mode)
    (zones : zoneSetAt ps 10 = some st.targets) (allowed : ¬(st.targets = 0 ∨ st.targets &&& descZones ≠ 0))
    (offset : (clampNat 0 3600 (wordAt ps 0)).1 = st.offset) (priority : (clampNat 0 6 (natAt ps 13)).1 = st.priority)
    (content : ContentRead ps st.content) : Rules.Gives (readPlanStep ps) st := by
  rcases content with ⟨kind, list, reads, e⟩ | ⟨kind, pattern, reads, e⟩
  · exact gives_of_reads (readPlanStep_eq_some_iff.mpr ⟨_, _, mode, zones, allowed, .inl ⟨kind, list, reads, rfl⟩⟩)
      (by rw [offset, priority, ← e])
  · exact gives_of_reads (readPlanStep_eq_some_iff.mpr ⟨_, _, mode, zones, allowed, .inr ⟨kind, pattern, reads, rfl⟩⟩)
      (by rw [offset, priority, ← e])

section
variable {st : PlanStep} (fits : plannable st.content = true) (rest : List Byte)
include fits

/-- The fields behind a step's content stand at fixed places, for the content takes eight bytes. -/
theorem byteAt_writePlanStep (i : Nat) : byteAt (writePlanStep st ++ rest) (10 + i) =
    byteAt (zoneSetBytes st.targets ++ [byteOf st.priority, nameByte callModeNames st.mode] ++ rest) i := by
  have length : (bytes2 st.offset ++ writeContent st.content).length = 10 := by
    rw [List.length_append, writeContent_length fits]
    rfl
  have split : writePlanStep st ++ rest = (bytes2 st.offset ++ writeContent st.content) ++
      (zoneSetBytes st.targets ++ [byteOf st.priority, nameByte callModeNames st.mode] ++ rest) := by
    simp only [writePlanStep, List.append_assoc]
  rw [split, byteAt_append_right length]

theorem contentRead_writePlanStep : ContentRead (writePlanStep st ++ rest) st.content := by
  obtain ⟨offset, content, targets, priority, mode⟩ := st
  cases content with
  | phrases list =>
    simp only [plannable, Bool.and_eq_true, decide_eq_true_eq, List.all_eq_true] at fits
    refine .inl ⟨rfl, list, readPhrases_written fits.1 fits.2 ?_, rfl⟩
    exact ⟨zoneSetBytes targets ++ [byteOf priority, nameByte callModeNames mode] ++ rest, by
      rw [← List.append_assoc, ← List.append_assoc]; rfl⟩
  | chime pattern strikes =>
    have few : 1 ≤ strikes ∧ strikes ≤ 4 := of_decide_eq_true fits
    have named := natAt_byteOf (ps := writePlanStep ⟨offset, .chime pattern strikes, targets, priority, mode⟩ ++ rest) (i := 3)
      (n := pattern.val) rfl (by omega)
    have counted := natAt_byteOf (ps := writePlanStep ⟨offset, .chime pattern strikes, targets, priority, mode⟩ ++ rest) (i := 4)
      (n := strikes) rfl (by omega)
    refine .inr ⟨rfl, pattern, by rw [named, finUpTo_getElem? pattern.isLt], ?_⟩
    rw [counted, clampNat_of_range few.1 few.2]
  | live mic => cases fits

end

theorem readPlanStep_written {st : PlanStep} (range : PlanStepInRange st) {ps : List Byte} (held : writePlanStep st <+: ps) :
    Rules.Gives (readPlanStep ps) st := by
  obtain ⟨rest, rfl⟩ := held
  obtain ⟨offset, priority, targets, loops, content⟩ := range
  have modes : ∀ x : CallMode, x ∈ callModeNames := fun x => by cases x <;> decide
  have after := byteAt_writePlanStep content rest
  refine readPlanStep_gives (nameAt_nameByte (by decide) (modes _) (after 4)) (zoneSetAt_bytes3 (after 0) (after 1) (after 2))
    (not_or.mpr ⟨targets, not_not.mpr loops⟩) ?_ ?_ (contentRead_writePlanStep content rest)
  · rw [wordAt_bytes2 (n := st.offset) rfl rfl (by omega), clampNat_of_range (Nat.zero_le _) offset]
  · rw [natAt_byteOf (n := st.priority) (after 3) (by omega), clampNat_of_range (Nat.zero_le _) priority]

/-! ## The place of every record in the image -/

/-- Bytes within bytes: their places add up. -/
theorem startsAt_trans {xs ys zs : List Byte} {n m : Nat} (inner : xs <+: ys.drop n) (outer : ys <+: zs.drop m) :
    xs <+: zs.drop (m + n) := by
  obtain ⟨rest, e⟩ := outer
  rw [← List.drop_drop, ← e, List.drop_append]
  exact inner.trans ⟨_, rfl⟩

theorem startsAt_flatten {L : List (List Byte)} {j : Nat} {x : List Byte} (part : L[j]? = some x) :
    x <+: L.flatten.drop ((L.map List.length).take j).sum := by
  induction L generalizing j with
  | nil => cases part
  | cons y L ih =>
    cases j with
    | zero => cases part; exact ⟨_, rfl⟩
    | succ j =>
      rw [List.map_cons, List.take_succ_cons, List.sum_cons, List.flatten_cons, List.drop_append, List.drop_eq_nil_of_le (by omega),
        List.nil_append, Nat.add_sub_cancel_left]
      exact ih part

/-- In a list of blocks of one length, a block stands at its number's multiple of it. -/
theorem startsAt_flatMap {α : Type} {f : α → List Byte} {k : Nat} {l : List α} (block : ∀ x ∈ l, (f x).length = k) {i : Nat}
    {x : α} (at_ : l[i]? = some x) : f x <+: (l.flatMap f).drop (k * i) := by
  have place := startsAt_flatten (L := l.map f) (j := i) (x := f x) (by rw [List.getElem?_map, at_]; rfl)
  have inside : i ≤ l.length := Nat.le_of_lt (List.getElem?_eq_some_iff.mp at_).1
  have lengths : (l.map f).map List.length = List.replicate l.length k := by
    rw [List.map_map, ← List.map_const']
    exact List.map_congr_left block
  rw [lengths, List.take_replicate, List.sum_replicate,
    Nat.min_eq_left inside, smul_eq_mul, Nat.mul_comm] at place
  exact place

theorem byteAt_of_startsAt {xs bs : List Byte} {m i : Nat} {b : Byte} (held : xs <+: bs.drop m) (at_ : xs[i]? = some b) :
    byteAt bs (m + i) = b := by
  obtain ⟨rest, e⟩ := held
  rw [← byteAt_drop, ← e, byteAt, List.getD_eq_getElem?_getD, List.getElem?_append_left (List.getElem?_eq_some_iff.mp at_).1, at_]
  rfl

section
variable {v : Settings} (range : SettingsInRange v)
include range

theorem settingsPart_startsAt {j : Nat} {x : List Byte} (part : (settingsParts v)[j]? = some x) :
    x <+: (settingsBytes v).drop (([6, 6, 60, 198, 36, 48, 64, 5, 28, 728].take j).sum) := by
  rw [← settingsParts_lengths range, settingsBytes_eq_flatten]
  exact startsAt_flatten part

/-- A record of a part whose records are of one length. -/
theorem settingsRecord_startsAt {j n k : Nat} {f : Fin n → List Byte} (part : (settingsParts v)[j]? = some ((finUpTo n).flatMap f))
    (block : ∀ i, (f i).length = k) (i : Fin n) :
    f i <+: (settingsBytes v).drop (([6, 6, 60, 198, 36, 48, 64, 5, 28, 728].take j).sum + k * i.val) :=
  startsAt_trans (startsAt_flatMap (fun x _ => block x) (finUpTo_getElem? i.isLt)) (settingsPart_startsAt range part)

theorem zone_startsAt (z : ZoneNo) : writeZoneOf v z <+: (settingsBytes v).drop (72 + 11 * z.val) :=
  settingsRecord_startsAt range (j := 3) rfl (writeZoneOf_length v) z

theorem plan_startsAt (p : Fin 8) : writePlan (v.plans.get p) <+: (settingsBytes v).drop (451 + 91 * p.val) :=
  settingsRecord_startsAt range (j := 9) (f := fun p => writePlan (v.plans.get p)) rfl (fun p => writePlan_length (range.plans p)) p

theorem planStep_startsAt {p : Fin 8} {i : Nat} {st : PlanStep} (at_ : (v.plans.get p)[i]? = some st) :
    writePlanStep st <+: (settingsBytes v).drop (452 + 91 * p.val + 15 * i) := by
  have steps := startsAt_flatMap (fun st member => writePlanStep_length ((range.plans p).2 st member)) at_
  have inPlan : writePlanStep st <+: (writePlan (v.plans.get p)).drop (1 + 15 * i) := by
    rw [Nat.add_comm, writePlan, List.drop_succ_cons, List.drop_append]
    exact steps.trans ⟨_, rfl⟩
  have place := startsAt_trans inPlan (plan_startsAt range p)
  rwa [show 451 + 91 * p.val + (1 + 15 * i) = 452 + 91 * p.val + 15 * i by omega] at place

/-- R181–R183: the bytes of settings within their ranges read as those settings. -/
theorem readSettings_settingsBytes : readSettings (settingsBytes v) = some v := by
  refine (settingsRead_rule _ v (settingsBytes_length range)).mpr
    ⟨readHallSettings_written (range.halls .a) (settingsPart_startsAt range (j := 0) rfl),
      readHallSettings_written (range.halls .b) (settingsPart_startsAt range (j := 1) rfl), fun e => ?_, fun z => ?_, fun l => ?_,
      fun f => ?_, fun c => ?_, fun l => ?_, fun k => ?_, ?_, fun c => ?_, fun p => ⟨?_, (range.plans p).1, fun i st at_ => ?_⟩,
      range.lamps, range.foyersOneHall⟩
  · exact readEntranceSettings_written (range.quotas e) (settingsRecord_startsAt range (j := 2) (k := 5) rfl (fun _ => rfl) e)
  · exact (readZoneCommon_written (range.zones z) (zone_startsAt range z)).symm
  · exact readLoopSettings_written (range.loops l) (zone_startsAt range (loopZone l))
  · exact readFoyerSettings_written (range.foyers f) (zone_startsAt range (foyerZone f))
  · exact (readSoundSettings_written (range.sound c) (settingsRecord_startsAt range (j := 4) (k := 6) rfl (fun _ => rfl) c)).symm
  · exact (readSenseSettings_written (range.sense l) (settingsRecord_startsAt range (j := 5) (k := 6) rfl (fun _ => rfl) l)).symm
  · have byte := byteAt_of_startsAt (i := k.val) (b := writeRole (v.roles.get k)) (settingsPart_startsAt range (j := 6) rfl)
      (by rw [List.getElem?_map, finUpTo_getElem? k.isLt]; rfl)
    exact (congrArg readRole byte).trans (readRole_writeRole _)
  · exact (readTimings_written range.timings (settingsPart_startsAt range (j := 7) rfl)).symm
  · exact readChannelSettings_written (range.channels c) (settingsRecord_startsAt range (j := 8) (k := 7) rfl (fun _ => rfl) c)
  · have few := (range.plans p).1
    have byte := byteAt_of_startsAt (i := 0) (plan_startsAt range p) rfl
    exact natAt_byteOf byte (by omega)
  · exact readPlanStep_written ((range.plans p).2 st (List.mem_of_getElem? at_)) (planStep_startsAt range at_)

end

/-! ## The image in the flash (R181–R183) -/

/-- Bytes read from a place within bytes read before. -/
theorem Flash.readAll_within {m : Flash} {a : Nat} {bs xs ys zs : List Byte} (whole : m.readAll a bs.length = bs)
    (parts : bs = xs ++ ys ++ zs) : m.readAll (a + xs.length) ys.length = ys := by
  rw [Flash.readAll_eq_map] at whole ⊢
  refine List.ext_getElem (by rw [List.length_map, List.length_range]) fun i _ inside => ?_
  have at_ : ((List.range bs.length).map fun i => m.read (a + i))[xs.length + i]? = bs[xs.length + i]? := by rw [whole]
  have place : xs.length + i < bs.length := by rw [parts, List.length_append, List.length_append]; omega
  rw [List.getElem?_map, List.getElem?_range place, parts, List.append_assoc, List.getElem?_append_right (by omega),
    Nat.add_sub_cancel_left, List.getElem?_append_left inside, List.getElem?_eq_getElem inside, Option.map_some,
    Option.some_inj, ← Nat.add_assoc] at at_
  rw [List.getElem_map, List.getElem_range]
  exact at_

theorem bigEndian_bytes2 {n : Nat} (small : n < 65536) : bigEndian (bytes2 n) = n := by
  simp only [bigEndian, bytes2, byteOf, List.foldl_cons, List.foldl_nil, BitVec.toNat_ofNat]
  omega

theorem imageReadsBack_rule : Rules.ImageReadsBack := by
  intro m v wf range
  obtain ⟨after, e⟩ : ∃ after, after = (m.erase 255).putAll 0xFF0000 (buildImage v) := ⟨_, rfl⟩
  have image : after.readAll imageStart (buildImage v).length = buildImage v :=
    e ▸ (savedImageReadsBack_rule m (buildImage v) wf (by rw [buildImage_length range]; decide)).1
  have body : (bytes2 imageLength ++ settingsBytes v).length = imageLength + 2 := by
    rw [List.length_append, settingsBytes_length range]; rfl
  have length : storedLength after = imageLength := by
    have read := Flash.readAll_within (xs := []) (ys := bytes2 imageLength) image
      (zs := settingsBytes v ++ bytes2 (crc (bytes2 imageLength ++ settingsBytes v)).toNat)
      (by rw [buildImage_eq, List.nil_append, List.append_assoc])
    exact (congrArg bigEndian read).trans (bigEndian_bytes2 (by decide))
  have covered : coveredBytes after = bytes2 imageLength ++ settingsBytes v := by
    have read := Flash.readAll_within (xs := []) (ys := bytes2 imageLength ++ settingsBytes v) image (buildImage_eq v)
    rwa [body] at read
  have stored : storedCrc after = (crc (bytes2 imageLength ++ settingsBytes v)).toNat := by
    have read := Flash.readAll_within (xs := bytes2 imageLength ++ settingsBytes v) (zs := []) image
      ((buildImage_eq v).trans (List.append_nil _).symm)
    rw [body] at read
    exact (congrArg bigEndian read).trans (bigEndian_bytes2 (BitVec.isLt _))
  rw [← e]
  refine loadImage_reads length (by rw [covered, stored]) ?_
  rw [covered]
  exact readSettings_settingsBytes range

/-! ## Start-up (R183, R184) -/

theorem cutFlash_still {s : State} (still : s.store.state = .locked ∨ s.store.state = .opened) : cutFlash s = s.store.flash := by
  rcases still with state | state <;> simp only [cutFlash, state]

theorem startUp_rule : Rules.StartUp := by
  intro s straps t
  have held : currentSettings t = settingsInForce (loadImage t.store.flash) := currentSettings_boot _ _ _ _
  have start : ∀ p, ((t.notices.get p).kinds.get 15).pending =
      some ⟨1, (startDetail (loadImage t.store.flash)).1, (startDetail (loadImage t.store.flash)).2, 0⟩ := fun p => by
    rw [show t.notices.get p = bootNotices (startDetail (loadImage t.store.flash)) from boot_notices _ _ _ _ p, bootNotices_kind]
    rfl
  refine ⟨rfl, rfl, fun pending => if_pos pending, fun clear => if_neg (Bool.eq_false_iff.mp clear), boot_atResetValues _ _ _ _,
    fun wf => boot_safe _ _ _ _ (wf_cutFlash wf) (loadImage_inRange _), rfl, rfl, cutFlash_still, fun settings good => ?_,
    fun fault bad => ?_, fun p => ⟨(start p).trans ?_, boot_attention _ _ _ _ p⟩⟩
  · rw [held, good]; rfl
  · rw [held, bad]; rfl
  · cases loadImage t.store.flash with
    | ok settings => rfl
    | error fault => cases fault <;> rfl

end Sys2Proof.Machine

namespace Sys2Proof

/-- Settles O49: each record reads back from its place in the image, and start-up is the state that the reset values and the
settings in force give. -/
theorem startUpAndImage : Obligations.StartUpAndImage :=
  ⟨Machine.startUp_rule, Machine.factoryDefaults_rule, Machine.imageTests_rule, Machine.imageCrc_rule, Machine.settingsRead_rule,
    Machine.imageReadsBack_rule, Machine.cutOperations_rule⟩

end Sys2Proof
